-- ==== Sys2Proof/Word.lean ====
section
/-!
DEFINITION. Words, bit fields and the plain arithmetic the rules are written in (R5, R6, R152, R178).
-/

namespace Sys2Proof

/-- A 64-bit word: a scalar register, a lane, a bit address (R36, R61). -/
abbrev Word := BitVec 64

/-- One byte of memory. -/
abbrev Byte := BitVec 8

/-- One 16-bit instruction word (R152). -/
abbrev IWord := BitVec 16

/-- `field(x, hi, lo)` on naturals: bits hi down to lo of x (R5). -/
def bits (x hi lo : Nat) : Nat := (x >>> lo) % 2 ^ (hi + 1 - lo)

/-- Bit i of x. -/
def bit (x i : Nat) : Bool := (x >>> i) % 2 == 1

/-- `field(x, hi, lo)` of a word, as a natural number. -/
def Wbits (x : Word) (hi lo : Nat) : Nat := bits x.toNat hi lo

/-- One bit of a word. -/
def Wbit (x : Word) (i : Nat) : Bool := bit x.toNat i

/-- The low w bits of v read as a signed number: `sext(v, w)` of R5. -/
def sextN (v w : Nat) : Int :=
  let m := v % 2 ^ w
  if w = 0 then 0 else if m < 2 ^ (w - 1) then (m : Int) else (m : Int) - (2 ^ w : Nat)

/-- An integer modulo 2^64. -/
def wordOfInt (i : Int) : Word := BitVec.ofInt 64 i

/-- A natural number modulo 2^64. -/
def wordOfNat (n : Nat) : Word := BitVec.ofNat 64 n

/-- 1 for true, 0 for false. -/
def b2n (b : Bool) : Nat := if b then 1 else 0

/-- 1 for true, 0 for false, as a word. -/
def b2w (b : Bool) : Word := if b then 1 else 0

/-- The least multiple of m that is at least n, divided by m. -/
def ceilDiv (n m : Nat) : Nat := (n + m - 1) / m

end Sys2Proof
end

