-- ==== Sys2Proof/Fields.lean ====
section
/-!
DEFINITION. The operand records that instructions carry (R154 to R162, R342) and the packets of the fabric (R120).
-/

namespace Sys2Proof

/-- The operands of one encoded instruction, by the names its entry gives them. A field that the entry does not use
holds its default. -/
structure Ops where
  /-- register d -/
  d : BitVec 6 := 0
  /-- register a -/
  a : BitVec 6 := 0
  /-- register b -/
  b : BitVec 6 := 0
  /-- register c of PX.c (R158) -/
  c : BitVec 6 := 0
  /-- TA, TB, TC: an empty source traps instead of waiting (R157, R158) -/
  ta : Bool := false
  tb : Bool := false
  tc : Bool := false
  /-- the immediate, extended to 64 bits as the entry says (R159) -/
  imm : BitVec 64 := 0
  /-- f4: a class, scope, kind or qualifier (R154) -/
  f : BitVec 4 := 0
  /-- width class and scope of page 7 (R159) -/
  cls : BitVec 4 := 0
  scope : BitVec 4 := 0
  /-- PV.m (R161) -/
  mask : BitVec 6 := 0
  zm : Bool := false
  rnd : BitVec 2 := 0
  /-- PV.e (R162) -/
  e : BitVec 5 := 0
  fzi : Bool := false
  fzo : Bool := false
  sat : Bool := false
  deriving DecidableEq, Repr, Inhabited

/-- The fields of one mason micro-instruction (R342). -/
structure Micro where
  x : BitVec 4 := 0
  y : BitVec 4 := 0
  z : BitVec 4 := 0
  imm : BitVec 32 := 0
  deriving DecidableEq, Repr, Inhabited

/-- Which operand stands in a nibble of the base word (R154, R155). -/
inductive Slot where
  | d | a | b | f4 | imm | zero | sub
  deriving DecidableEq, Repr

/-- How an entry reads its immediate (R159). -/
inductive ImmKind where
  /-- the entry names no immediate: a PI word is reserved -/
  | none
  /-- sext(imm_bits, k) -/
  | signed
  /-- zext(imm_bits, k) -/
  | unsigned
  /-- the base immediate alone; a PI word is reserved (R192) -/
  | baseOnly
  /-- page 7: width class and scope -/
  | atomic
  deriving DecidableEq, Repr

/-- What an entry does with PV words (R163, R231, R258). -/
inductive PvKind where
  /-- PV words are reserved on the instruction -/
  | none
  /-- mask, zero, rounding, FZI, FZO, SAT; E reserved -/
  | vector
  /-- as vector, and E names the addend (R233) -/
  | addend
  /-- as vector, but MASK and ZM reserved (R231: VQ, VDQ; R258: MMA) -/
  | unmasked
  deriving DecidableEq, Repr

/-- A packet between dies or packages: the 128-bit header of R120 and its payload words (8 words a flit). -/
structure Packet where
  cls : Nat := 0
  ph : Bool := false
  idie : Nat := 0
  ipkg : Nat := 0
  dpkg : Nat := 0
  spkg : Nat := 0
  dagt : Nat := 0
  sagt : Nat := 0
  seq : Nat := 0
  idn : Nat := 0
  op : Nat := 0
  len : Nat := 0
  payload : List Word := []
  /-- not in the header of R120 (log 24): byte key of the line at the owner, the issuing context, the address as issued, and
  the requester's name of the request, which its answer repeats -/
  line : Nat := 0
  cx : Nat := 0
  addr : Word := 0
  name : Nat := 0
  /-- the page tag that the requester checked (R105), and the package that gave SEQ, where a stub passed the packet on (R100) -/
  tag : Nat := 0
  via : Option Nat := none
  /-- what an RDLINE is for: 0 data; 1 an instruction fetch, which no tag check stops (R103); 2 to learn which words are poisoned,
  before any lane of a vector atomic is performed (R399) -/
  use : Nat := 0
  /-- the quarter-link on which it left its last router: 4 × torus link + quarter, whose die it also comes in on (R119) -/
  lane : Nat := 0
  /-- the torus link of this package on which a packet that passes through has come (R386) -/
  along : Option Nat := none
  deriving DecidableEq, Repr, Inhabited

/-- The image type that an image header carries (R377), or a command image (R380). -/
inductive ImageKind where
  | service | memoryCore | masonRoutine | command
  deriving DecidableEq, Repr, Inhabited

/-- A firmware or command image (R377), with the outcome of each signature check as part of the input (log 13). -/
structure Image where
  kind : ImageKind := .service
  version : Nat := 0
  /-- SHA-384 digest of the two public keys the image carries -/
  keyDigest : BitVec 384 := 0
  /-- the Ed25519 signature verifies -/
  edOk : Bool := false
  /-- the ML-DSA-65 signature verifies -/
  mlOk : Bool := false
  /-- a vendor test image (R380) -/
  vendorTest : Bool := false
  /-- memory-core firmware: bit address of its first instruction -/
  entry : Word := 0
  /-- memory-core firmware: its identity -/
  ident : BitVec 24 := 0
  /-- a command image: the requested life-cycle state, or the type whose MINVER rises to `version` -/
  request : Nat := 0
  deriving DecidableEq, Repr, Inhabited

/-- The storage in which a scrub or an access finds an error (R420, R423). -/
inductive ErrorUnit where
  | hbm | window (core : Nat) | l1 (core : Nat) | l2 (slice : Nat) | masonStore (cl : Nat) | eventUnit (cl : Nat)
  /-- the directory entry or address tag of a line of a slice, or its page-tag copy -/
  | directory (slice : Nat) | pageTag (slice : Nat)
  /-- the instruction cache of a core, or 1,024 + a memory core -/
  | icache (t : Nat)
  /-- an entry of a TLB or of a tag-check cache, or a join group, by its place in the list -/
  | tlb (t : Nat) | tagCache (cl : Nat) | join (die : Nat)
  /-- the page-tag copy of a line of an L1D, a stream context by its slot, or a place of the queue of a unit by its kind of R424 -/
  | l1Tag (core : Nat) | stream (cl : Nat) | queue (kind cl : Nat)
  deriving DecidableEq, Repr, Inhabited

/-- An error that scrubbing finds (R423): where, and whether it can be corrected. -/
structure ErrorFound where
  unit : ErrorUnit := .hbm
  /-- byte key of the granule, word or entry -/
  addr : Nat := 0
  corrected : Bool := true
  deriving DecidableEq, Repr, Inhabited

/-- The operands of an event: which unit or entry it concerns (i, j, k), a value, and what the outside brings. Each
event's entry says which of them it reads. -/
structure EvArg where
  i : Nat := 0
  j : Nat := 0
  k : Nat := 0
  w : Word := 0
  pkt : Packet := {}
  img : Image := {}
  err : ErrorFound := {}
  data : List Byte := []
  deriving DecidableEq, Repr, Inhabited

end Sys2Proof
end

