-- ==== Sys2Proof/Syntax.lean ====
section
/-!
DEFINITION. The one inductive of instructions: a constructor for each row of the opcode table. The first 245 rows are encoded instructions (R164 to R167), the next 18 the micro-instructions of the mason (R348), the rest the events of the package, whose operands stand in the state (log 2). Rows without operands stand last.
-/

namespace Sys2Proof

/-- One step of the device: an instruction of a context, a micro-instruction of a mason, or an event. -/
inductive Instr where
  /-- ADD (R179): Writes S[a] + S[b] to S[d], wrapping modulo 2^64. -/
  | add (o : Ops)
  /-- SUB (R179): Writes S[a] - S[b] to S[d], wrapping modulo 2^64. -/
  | sub (o : Ops)
  /-- AND (R179): Writes the bitwise AND of S[a] and S[b] to S[d]. -/
  | and (o : Ops)
  /-- OR (R179): Writes the bitwise OR of S[a] and S[b] to S[d]. -/
  | or (o : Ops)
  /-- XOR (R179): Writes the bitwise XOR of S[a] and S[b] to S[d]. -/
  | xor (o : Ops)
  /-- ADDI (R180): Writes S[a] plus the sign-extended immediate to S[d]. -/
  | addi (o : Ops)
  /-- SLLI (R180): Writes S[a] shifted left by the unsigned immediate to S[d]. -/
  | slli (o : Ops)
  /-- LI (R180): Loads the sign-extended immediate into S[d]. -/
  | li (o : Ops)
  /-- LD (R184): Loads 64 bits from bit address S[a] + 64 × imm into S[d]. -/
  | ld (o : Ops)
  /-- ST (R184): Stores S[d] as 64 bits at bit address S[a] + 64 × imm. -/
  | st (o : Ops)
  /-- BEQZ (R189): Branches by the word offset when S[a] = 0. -/
  | beqz (o : Ops)
  /-- BNEZ (R189): Branches by the word offset when S[a] ≠ 0. -/
  | bnez (o : Ops)
  /-- J (R189): Branches unconditionally by the word offset. -/
  | j (o : Ops)
  /-- CALL (R189): Writes next to S[63] and then branches by the word offset. -/
  | call (o : Ops)
  /-- MOV (R181): Copies S[a] into S[d]. -/
  | mov (o : Ops)
  /-- NOT (R181): Writes the bitwise complement of S[a] to S[d]. -/
  | not (o : Ops)
  /-- NEG (R181): Writes 0 - S[a] to S[d]. -/
  | neg (o : Ops)
  /-- ABS (R181): Writes the absolute value of signed S[a] to S[d]. -/
  | abs (o : Ops)
  /-- CLZ (R181): Writes the count of leading zero bits of S[a] to S[d]. -/
  | clz (o : Ops)
  /-- CTZ (R181): Writes the count of trailing zero bits of S[a] to S[d]. -/
  | ctz (o : Ops)
  /-- POPC (R181): Writes the count of one bits of S[a] to S[d]. -/
  | popc (o : Ops)
  /-- BREV (R181): Writes S[a] with its bits reversed to S[d]. -/
  | brev (o : Ops)
  /-- JR (R181): Jumps to S[a] with bits [3:0] cleared. -/
  | jr (o : Ops)
  /-- JALR (R181): Writes next to S[d] and jumps to the old S[a] with bits [3:0] cleared. -/
  | jalr (o : Ops)
  /-- MUL (R179): Writes the low 64 bits of S[a] × S[b] to S[d]. -/
  | mul (o : Ops)
  /-- MULH (R179): Writes the high 64 bits of the signed product of S[a] and S[b] to S[d]. -/
  | mulh (o : Ops)
  /-- MULHN (R179): Writes the high 64 bits of the unsigned product of S[a] and S[b] to S[d]. -/
  | mulhn (o : Ops)
  /-- DIV (R179): Writes the signed quotient of S[a] and S[b], truncated toward zero, to S[d]; DZ is set on division by zero. -/
  | div (o : Ops)
  /-- DIVN (R179): Writes the unsigned quotient of S[a] and S[b] to S[d]; DZ is set on division by zero. -/
  | divn (o : Ops)
  /-- REM (R179): Writes the signed remainder of S[a] and S[b] to S[d]. -/
  | rem (o : Ops)
  /-- REMN (R179): Writes the unsigned remainder of S[a] and S[b] to S[d]. -/
  | remn (o : Ops)
  /-- MIN (R179): Writes the signed minimum of S[a] and S[b] to S[d]. -/
  | min (o : Ops)
  /-- MAX (R179): Writes the signed maximum of S[a] and S[b] to S[d]. -/
  | max (o : Ops)
  /-- MINN (R179): Writes the unsigned minimum of S[a] and S[b] to S[d]. -/
  | minn (o : Ops)
  /-- MAXN (R179): Writes the unsigned maximum of S[a] and S[b] to S[d]. -/
  | maxn (o : Ops)
  /-- SLL (R179): Writes S[a] shifted left by S[b] mod 64 to S[d]. -/
  | sll (o : Ops)
  /-- SRL (R179): Writes S[a] shifted right logically by S[b] mod 64 to S[d]. -/
  | srl (o : Ops)
  /-- SRA (R179): Writes S[a] shifted right arithmetically by S[b] mod 64 to S[d]. -/
  | sra (o : Ops)
  /-- ROR (R179): Writes S[a] rotated right by S[b] mod 64 to S[d]. -/
  | ror (o : Ops)
  /-- SEQ (R179): Writes 1 to S[d] when S[a] = S[b], and 0 otherwise. -/
  | seq (o : Ops)
  /-- SNE (R179): Writes 1 to S[d] when S[a] ≠ S[b], and 0 otherwise. -/
  | sne (o : Ops)
  /-- SLT (R179): Writes 1 to S[d] when S[a] < S[b] signed, and 0 otherwise. -/
  | slt (o : Ops)
  /-- SLTN (R179): Writes 1 to S[d] when S[a] < S[b] unsigned, and 0 otherwise. -/
  | sltn (o : Ops)
  /-- SRLI (R180): Writes S[a] shifted right logically by the immediate to S[d]. -/
  | srli (o : Ops)
  /-- SRAI (R180): Writes S[a] shifted right arithmetically by the immediate to S[d]. -/
  | srai (o : Ops)
  /-- ANDI (R180): Writes the bitwise AND of S[a] and the sign-extended immediate to S[d]. -/
  | andi (o : Ops)
  /-- ORI (R180): Writes the bitwise OR of S[a] and the sign-extended immediate to S[d]. -/
  | ori (o : Ops)
  /-- XORI (R180): Writes the bitwise XOR of S[a] and the sign-extended immediate to S[d]. -/
  | xori (o : Ops)
  /-- SLTI (R180): Writes 1 to S[d] when signed S[a] is below the immediate, and 0 otherwise. -/
  | slti (o : Ops)
  /-- SEXT (R182): Sign-extends S[a] from the width of class K into S[d]. -/
  | sext (o : Ops)
  /-- ZEXT (R182): Zero-extends S[a] from the width of class K into S[d]. -/
  | zext (o : Ops)
  /-- BEXT (R182): Packs the bits of S[a] at the positions set in S[b] into the low bits of S[d]. -/
  | bext (o : Ops)
  /-- BDEP (R182): Deposits the low bits of S[a] at the positions set in S[b] into S[d]. -/
  | bdep (o : Ops)
  /-- SEL (R182): Writes S[a] to S[d] when S[c] ≠ 0, and S[b] otherwise. -/
  | sel (o : Ops)
  /-- BADV (R185): Adds S[a] × w to S[d], where w is the width of class K. -/
  | badv (o : Ops)
  /-- BRTV (R185): Subtracts S[a] × w from S[d], where w is the width of class K. -/
  | brtv (o : Ops)
  /-- BDIFF (R185): Writes floor((S[d] - S[a]) / w) to S[d]. -/
  | bdiff (o : Ops)
  /-- BALN (R185): Writes S[a] aligned down to a multiple of w to S[d]. -/
  | baln (o : Ops)
  /-- BCHK (R185): Writes the space, natural-alignment and single-granule word for an access of class K at S[a] to S[d]. -/
  | bchk (o : Ops)
  /-- BY2B (R186): Converts the byte address S[a] to a bit address in S[d]. -/
  | by2b (o : Ops)
  /-- BB2Y (R186): Converts the bit address S[a] to a byte address in S[d]. -/
  | bb2y (o : Ops)
  /-- BCORE (R188): Writes the placed core, the in-core offset, the package or the window of a local-window address to S[d]. -/
  | bcore (o : Ops)
  /-- BMKL (R187): Builds a local-window address from the selector in S[a] and the offset in S[b]. -/
  | bmkl (o : Ops)
  /-- BPLC (R188): Converts a local-window address between the blocked and the interleaved form. -/
  | bplc (o : Ops)
  /-- LIH (R180): Sets the high 32 bits of S[d] from the immediate and keeps its low 32 bits. -/
  | lih (o : Ops)
  /-- ADDPC (R186): Writes the instruction's address plus 16 × imm to S[d]. -/
  | addpc (o : Ops)
  /-- WFLD (R183): Extracts field j of a work identifier, cut by wfmt, into S[d]. -/
  | wfld (o : Ops)
  /-- BEQ (R189): Branches when S[a] = S[b]. -/
  | beq (o : Ops)
  /-- BNE (R189): Branches when S[a] ≠ S[b]. -/
  | bne (o : Ops)
  /-- BLT (R189): Branches when signed S[a] < S[b]. -/
  | blt (o : Ops)
  /-- BLTN (R189): Branches when unsigned S[a] < S[b]. -/
  | bltn (o : Ops)
  /-- BGE (R189): Branches when signed S[a] ≥ S[b]. -/
  | bge (o : Ops)
  /-- BGEN (R189): Branches when unsigned S[a] ≥ S[b]. -/
  | bgen (o : Ops)
  /-- BALL (R189): Branches when every bit set in S[b] is also set in S[a]. -/
  | ball (o : Ops)
  /-- LOOP (R191): Sets up a hardware loop with lcnt, lbeg and lend, and skips the body when the count is 0. -/
  | loop (o : Ops)
  /-- CSRR (R192): Reads CSR n into S[d]. -/
  | csrr (o : Ops)
  /-- CSRW (R192): Writes S[a] to CSR n, with the special effects of ident, prio, vshape and mshape; it is a region boundary. -/
  | csrw (o : Ops)
  /-- TRAP (R193): Takes the software-trap cause with trapval := n. -/
  | trap (o : Ops)
  /-- WAITI (R193): Stops the context from issuing until a notification arrives or n × 1,024 cycles pass. -/
  | waiti (o : Ops)
  /-- REGN (R194): Ends the current region and opens a new one with the live-in masks in S[a] and S[b]. -/
  | regn (o : Ops)
  /-- SPAWN (R196): Creates one spawned task with the given wid, entry and argument, and splits the issuer's weight. -/
  | spawn (o : Ops)
  /-- RANGE (R196): Creates one range task over the interval [S[c], S[c + 1]). -/
  | range (o : Ops)
  /-- RNEXT (R43): Returns the next index of the range task's interval, or all ones when the interval is empty. -/
  | rnext (o : Ops)
  /-- KSET (R198): Allocates a keystone from the cluster's pool and makes it the task's current keystone; it waits while the pool is empty. -/
  | kset (o : Ops)
  /-- KWAIT (R198): Returns the task's weight to its keystone and waits until returned = issued. -/
  | kwait (o : Ops)
  /-- BARV (R199): Joins the next barrier instance at the given scope with the vote in S[a]. -/
  | barv (o : Ops)
  /-- FWAIT (R201): Waits until register a is full, then copies it into S[d]. -/
  | fwait (o : Ops)
  /-- FTEST (R201): Writes 1 to S[d] when register a is full, and 0 when it is empty. -/
  | ftest (o : Ops)
  /-- FCANCEL (R201): Asks the engine of an empty register's future to stop, and writes 1; writes 0 when the register is full. -/
  | fcancel (o : Ops)
  /-- FHND (R201): Writes the handle of an empty register's future to S[d], or 0 when the register is full. -/
  | fhnd (o : Ops)
  /-- YIELD (R200): Returns the task to the task yard with its age reset, to become eligible n × 64 cycles later. -/
  | yield (o : Ops)
  /-- LDF (R205): Loads and zero-extends one element of the width of class K. -/
  | ldf (o : Ops)
  /-- LDFS (R205): Loads and sign-extends one element of the width of class K. -/
  | ldfs (o : Ops)
  /-- STF (R205): Stores the low w bits of S[d] as one element of class K. -/
  | stf (o : Ops)
  /-- LDFE (R207): Reads a window operand after testing, waiting on or clearing the full/empty state of its granules. -/
  | ldfe (o : Ops)
  /-- STFE (R208): Writes 64 bits to a window and makes every granule it touches full. -/
  | stfe (o : Ops)
  /-- LDA (R209): Loads 64 bits as an acquire at the given scope. -/
  | lda (o : Ops)
  /-- STR (R209): Stores 64 bits as a release at the given scope, after the wait of R118. -/
  | str (o : Ops)
  /-- FENCE_ACQ (R210): Acquire fence at the given scope. -/
  | fenceAcq (o : Ops)
  /-- FENCE_REL (R210): Release fence at the given scope, waiting for earlier accesses to be performed. -/
  | fenceRel (o : Ops)
  /-- FENCE_ACQREL (R210): Acquire and release fence at the given scope. -/
  | fenceAcqrel (o : Ops)
  /-- FENCE_SC (R279): Full fence, totally ordered with the other FENCE.sc at the given scope. -/
  | fenceSc (o : Ops)
  /-- FENCE_RDRAIN (R210): Waits until the remote-store counter is zero. -/
  | fenceRdrain (o : Ops)
  /-- PREF (R211): Prefetches a line or page into the L1D and L2, never faulting. -/
  | pref (o : Ops)
  /-- PIN (R212): Issues an L2 pin of a bit range as an engine future. -/
  | pin (o : Ops)
  /-- UNPIN (R213): Releases the context's pins on the lines of a range and returns the number of bits released. -/
  | unpin (o : Ops)
  /-- CFLUSH (R211): Writes every dirty copy of a line or page in the package back to memory. -/
  | cflush (o : Ops)
  /-- CINV (R211): Writes back and then invalidates a line or page in every L1D and L2 of the package. -/
  | cinv (o : Ops)
  /-- LDP (R206): Loads 128 bits into the register pair (d, d + 1). -/
  | ldp (o : Ops)
  /-- STP (R206): Stores the register pair (d, d + 1) as 128 bits. -/
  | stp (o : Ops)
  /-- AMOADD (R214): Atomically adds S[b] to memory and returns the old value. -/
  | amoadd (o : Ops)
  /-- AMOAND (R214): Atomic AND that returns the old value. -/
  | amoand (o : Ops)
  /-- AMOOR (R214): Atomic OR that returns the old value. -/
  | amoor (o : Ops)
  /-- AMOXOR (R214): Atomic XOR that returns the old value. -/
  | amoxor (o : Ops)
  /-- AMOMIN (R214): Atomic signed minimum that returns the old value. -/
  | amomin (o : Ops)
  /-- AMOMAX (R214): Atomic signed maximum that returns the old value. -/
  | amomax (o : Ops)
  /-- AMOMINN (R214): Atomic unsigned minimum that returns the old value. -/
  | amominn (o : Ops)
  /-- AMOMAXN (R214): Atomic unsigned maximum that returns the old value. -/
  | amomaxn (o : Ops)
  /-- AMOSWP (R214): Atomic swap that returns the old value. -/
  | amoswp (o : Ops)
  /-- CAS (R214): Atomic compare-and-swap against S[c] that returns the old value. -/
  | cas (o : Ops)
  /-- CAS2 (R216): Atomic 128-bit compare-and-swap of an aligned word pair. -/
  | cas2 (o : Ops)
  /-- AMOFADD (R215): Atomic floating add in bf16 or f32, rounded with RNE, that returns the old code. -/
  | amofadd (o : Ops)
  /-- CP (R219): Issues a copy of L bits to the copy engine as a future. -/
  | cp (o : Ops)
  /-- CP2D (R219): Issues a strided two-dimensional copy as a future. -/
  | cp2d (o : Ops)
  /-- CPG (R219): Issues an indexed gather copy as a future. -/
  | cpg (o : Ops)
  /-- CPS (R219): Issues an indexed scatter copy as a future. -/
  | cps (o : Ops)
  /-- CPFILL (R219): Issues a fill of L bits with a 64-bit pattern as a future. -/
  | cpfill (o : Ops)
  /-- MCAST (R220): Issues a multicast of a payload to the windows of a set of cores as a future. -/
  | mcast (o : Ops)
  /-- MCFETCH (R221): On a memory core, moves bits from physical memory into a window without translation. -/
  | mcfetch (o : Ops)
  /-- MCSEND (R221): On a memory core, moves bits from a window to physical memory without translation. -/
  | mcsend (o : Ops)
  /-- VADD (R232): Element-wise addition over the active lanes. -/
  | vadd (o : Ops)
  /-- VSUB (R232): Element-wise subtraction over the active lanes. -/
  | vsub (o : Ops)
  /-- VMUL (R232): Element-wise multiplication over the active lanes. -/
  | vmul (o : Ops)
  /-- VFMA (R233): Fused multiply-add with a single rounding. -/
  | vfma (o : Ops)
  /-- VMIN (R232): Element-wise minimum. -/
  | vmin (o : Ops)
  /-- VMAX (R232): Element-wise maximum. -/
  | vmax (o : Ops)
  /-- VABS (R232): Element-wise absolute value. -/
  | vabs (o : Ops)
  /-- VNEG (R232): Element-wise negation. -/
  | vneg (o : Ops)
  /-- VAND (R232): Bitwise AND of whole lanes. -/
  | vand (o : Ops)
  /-- VOR (R232): Bitwise OR of whole lanes. -/
  | vor (o : Ops)
  /-- VXOR (R232): Bitwise XOR of whole lanes. -/
  | vxor (o : Ops)
  /-- VSHL (R234): Element-wise left shift. -/
  | vshl (o : Ops)
  /-- VSHR (R234): Element-wise logical right shift. -/
  | vshr (o : Ops)
  /-- VSRA (R234): Element-wise arithmetic right shift. -/
  | vsra (o : Ops)
  /-- VDIV (R232): Element-wise division. -/
  | vdiv (o : Ops)
  /-- VCMPEQ (R235): Writes a lane mask of element-wise equality to S[d]. -/
  | vcmpeq (o : Ops)
  /-- VCMPNE (R235): Writes a lane mask of element-wise inequality to S[d]. -/
  | vcmpne (o : Ops)
  /-- VCMPLT (R235): Writes a lane mask of element-wise less-than to S[d]. -/
  | vcmplt (o : Ops)
  /-- VCMPLE (R235): Writes a lane mask of element-wise less-or-equal to S[d]. -/
  | vcmple (o : Ops)
  /-- VSEL (R236): Selects each lane from V[a] or V[b] by the mask register. -/
  | vsel (o : Ops)
  /-- VREDADD (R237): Reduces the active elements to their sum in S[d]. -/
  | vredadd (o : Ops)
  /-- VREDMAX (R237): Reduces the active elements to their maximum in S[d]. -/
  | vredmax (o : Ops)
  /-- VREDMIN (R237): Reduces the active elements to their minimum in S[d]. -/
  | vredmin (o : Ops)
  /-- VREDOR (R237): Reduces the active lanes to their bitwise OR in S[d]. -/
  | vredor (o : Ops)
  /-- VBCAST (R238): Broadcasts S[a] into every element of the active lanes. -/
  | vbcast (o : Ops)
  /-- VEXT (R238): Extracts one lane of V[a] into S[d]. -/
  | vext (o : Ops)
  /-- VINS (R238): Inserts S[a] into one lane of V[d]. -/
  | vins (o : Ops)
  /-- VPERM (R238): Permutes the lanes of V[a] by the indices in V[b]. -/
  | vperm (o : Ops)
  /-- VSLIDE (R238): Slides the lanes by the immediate and fills with zero. -/
  | vslide (o : Ops)
  /-- VTRN (R239): Transposes the lane tile or reverses its rows. -/
  | vtrn (o : Ops)
  /-- VLD (R240): Loads the tile lanes contiguously. -/
  | vld (o : Ops)
  /-- VST (R240): Stores the tile lanes contiguously. -/
  | vst (o : Ops)
  /-- VLDS (R240): Loads the tile lanes with a row stride. -/
  | vlds (o : Ops)
  /-- VSTS (R240): Stores the tile lanes with a row stride. -/
  | vsts (o : Ops)
  /-- VGATH (R241): Gathers one element per active lane from S[a] + V[b]. -/
  | vgath (o : Ops)
  /-- VSCAT (R241): Scatters one element per active lane, in ascending lane order. -/
  | vscat (o : Ops)
  /-- VAOR (R242): Performs one atomic OR per active lane. -/
  | vaor (o : Ops)
  /-- VAADD (R242): Performs one atomic add per active lane. -/
  | vaadd (o : Ops)
  /-- VCVT (R243): Converts elements to a target type, part by part. -/
  | vcvt (o : Ops)
  /-- VQ (R244): Quantises floating elements into q4 codes and scale bytes. -/
  | vq (o : Ops)
  /-- VDQ (R245): Dequantises q4 codes with their scale bytes. -/
  | vdq (o : Ops)
  /-- VMULHN (R246): Element-wise high half of the unsigned product. -/
  | vmulhn (o : Ops)
  /-- VSETS (R247): Sets vshape from a type and a tile size, and returns the lane count or 0. -/
  | vsets (o : Ops)
  /-- VPOPC (R248): Counts the one bits in the active lanes into S[d]. -/
  | vpopc (o : Ops)
  /-- VEXP2 (R249): Computes exp2 of each f32 element. -/
  | vexp2 (o : Ops)
  /-- MMA_BF16 (R258): Issues a bf16 matrix product as tile-tasks and a future. -/
  | mmaBf16 (o : Ops)
  /-- MMA_F16 (R258): Issues an f16 matrix product. -/
  | mmaF16 (o : Ops)
  /-- MMA_F32 (R258): Issues an f32 matrix product. -/
  | mmaF32 (o : Ops)
  /-- MMA_E4M3 (R258): Issues a scaled e4m3 matrix product. -/
  | mmaE4m3 (o : Ops)
  /-- MMA_E5M2 (R258): Issues a scaled e5m2 matrix product. -/
  | mmaE5m2 (o : Ops)
  /-- MMA_E4M3E5M2 (R258): Issues a scaled e4m3 × e5m2 matrix product. -/
  | mmaE4m3e5m2 (o : Ops)
  /-- MMA_I8 (R258): Issues an i8 matrix product. -/
  | mmaI8 (o : Ops)
  /-- MMA_I8N8 (R258): Issues an i8 × n8 matrix product. -/
  | mmaI8n8 (o : Ops)
  /-- MMA_E2M3 (R258): Issues a scaled e2m3 matrix product. -/
  | mmaE2m3 (o : Ops)
  /-- MMA_E3M2 (R258): Issues a scaled e3m2 matrix product. -/
  | mmaE3m2 (o : Ops)
  /-- MMA_Q4 (R258): Issues a q4 matrix product. -/
  | mmaQ4 (o : Ops)
  /-- MMA_Q4E4M3 (R258): Issues a q4 × e4m3 matrix product. -/
  | mmaQ4e4m3 (o : Ops)
  /-- MMA_BF16Q4 (R258): Issues a bf16 × q4 matrix product. -/
  | mmaBf16q4 (o : Ops)
  /-- MMA_I4 (R258): Issues an i4 matrix product. -/
  | mmaI4 (o : Ops)
  /-- MMA_I3I8 (R258): Issues an i3 × i8 matrix product. -/
  | mmaI3i8 (o : Ops)
  /-- SMMA_BF16 (R263): Issues a bf16 product with a sparse CSR B operand. -/
  | smmaBf16 (o : Ops)
  /-- SMMA_E4M3 (R263): Issues an e4m3 product with a sparse CSR B operand. -/
  | smmaE4m3 (o : Ops)
  /-- SMMA_Q4 (R263): Issues a q4 product with a sparse CSR B operand. -/
  | smmaQ4 (o : Ops)
  /-- MSHAPE (R252): Sets mshape when the value is valid, and returns the tile-task count or 0. -/
  | mshape (o : Ops)
  /-- MMAP_ALLOCATE (R257): Allocates the lowest free map slot with the given row-to-core parameters. -/
  | mmapAllocate (o : Ops)
  /-- MMAP_FREE (R257): Frees a map slot owned by the issuing task. -/
  | mmapFree (o : Ops)
  /-- MZERO (R265): Issues tile-tasks that fill the mapped output with a constant. -/
  | mzero (o : Ops)
  /-- SNEW (R313): Creates a new stream with a fresh root node. -/
  | snew (o : Ops)
  /-- SFORK (R313): Forks a stream in constant time by sharing its root. -/
  | sfork (o : Ops)
  /-- SPRUNE (R313): Frees a stream and drops its tree. -/
  | sprune (o : Ops)
  /-- SJGRP (R315): Creates a join group whose future resolves at completion. -/
  | sjgrp (o : Ops)
  /-- SJOIN (R315): Submits a stream's score to its join group. -/
  | sjoin (o : Ops)
  /-- SSTEP (R314): Sets a stream's layer cursor and adds the stream to an open herd group. -/
  | sstep (o : Ops)
  /-- SAQP (R314): Pops an action from a stream's action queue. -/
  | saqp (o : Ops)
  /-- SAQW (R314): Pushes an action onto a stream's action queue. -/
  | saqw (o : Ops)
  /-- SHZ (R314): Reads a stream's horizon counter. -/
  | shz (o : Ops)
  /-- SHZD (R314): Decrements a stream's horizon counter, stopping at 0. -/
  | shzd (o : Ops)
  /-- SMIG (R311): Starts the migration of an IDLE stream to another package. -/
  | smig (o : Ops)
  /-- SMAP_FRESH (R316): Maps a freshly zeroed page with a given tag into a stream's leaf entry. -/
  | smapFresh (o : Ops)
  /-- SMAP_SHARE (R316): Maps another stream's page into a stream's leaf entry. -/
  | smapShare (o : Ops)
  /-- SMAP_UNMAP (R316): Invalidates a stream's leaf entry and drops its page. -/
  | smapUnmap (o : Ops)
  /-- SMAP_FRAME (R316): Maps a given physical frame into a stream's leaf entry. -/
  | smapFrame (o : Ops)
  /-- SEND (R314): Makes a HERDED stream IDLE after writing back its checked-out neuron state. -/
  | send (o : Ops)
  /-- EPOPL (R334): Loads a population into a slot of the event unit. -/
  | epopl (o : Ops)
  /-- EPOST (R335): Posts one event to a population. -/
  | epost (o : Ops)
  /-- EPOSTV (R335): Posts up to 64 events taken from the lanes of a vector register. -/
  | epostv (o : Ops)
  /-- ERUN (R336): Adds a pending run of the domain up to an end tick. -/
  | erun (o : Ops)
  /-- ETICK (R333): Reports a domain's current tick, its population count and whether a run is pending. -/
  | etick (o : Ops)
  /-- EDRAIN (R337): Unloads a population at the next tick boundary. -/
  | edrain (o : Ops)
  /-- ALOAD (R352): Queues a job that loads words into the mason control store. -/
  | aload (o : Ops)
  /-- AGO (R353): Queues a mason attention job at an entry word. -/
  | ago (o : Ops)
  /-- ASTAT (R354): Reports the state of a mason job or of the mason's queue. -/
  | astat (o : Ops)
  /-- ASTOP (R354): Stops a queued or running mason job. -/
  | astop (o : Ops)
  /-- TLBINV_GPAGE (R107): Drops the global TLB entries that map the page of S[a] throughout the package. -/
  | tlbinvGpage (o : Ops)
  /-- TLBINV_SID (R107): Drops the stream TLB entries of one stream id. -/
  | tlbinvSid (o : Ops)
  /-- TLBINV_IDENT (R107): Drops the tag-check cache entries of one identity. -/
  | tlbinvIdent (o : Ops)
  /-- IDSET (R108): Gives the context a new identity and clearance base, and returns the old identity. -/
  | idset (o : Ops)
  /-- CTXSAVE (R404): Forces the pre-emption of the task in a context, and holds it when asked. -/
  | ctxsave (o : Ops)
  /-- CTXLOAD_RELEASE (R405): Releases a held task back to waiting. -/
  | ctxloadRelease (o : Ops)
  /-- CTXLOAD_KILL (R405): Kills a suspended or held task. -/
  | ctxloadKill (o : Ops)
  /-- PCNT (R407): Reads a core event counter, and clears it when asked. -/
  | pcnt (o : Ops)
  /-- SLEEP (R408): Stops the context from issuing for n × 2^16 cycles. -/
  | sleep (o : Ops)
  /-- PGMOV (R109): Issues the move of a 64 KiB global page to another package and frame as a future. -/
  | pgmov (o : Ops)
  /-- CLDRAIN_DRAIN (R382): Drains a cluster: no new work is given, and every running task is pre-empted. -/
  | cldrainDrain (o : Ops)
  /-- CLDRAIN_RESUME (R382): Returns a drained cluster to service. -/
  | cldrainResume (o : Ops)
  /-- CLDRAIN_WIPE (R382): Wipes the windows, control store and tables of a drained, empty cluster. -/
  | cldrainWipe (o : Ops)
  /-- ELOGR (R425): Reads one word of an error-log record, or the next SEQ. -/
  | elogr (o : Ops)
  /-- MSINK (R348): Initialises the row state from the sink, or resumes it from the checkpoint record. -/
  | msink (m : Micro)
  /-- MPAGE (R348): Translates and opens the next key/value page, and returns its token count. -/
  | mpage (m : Micro)
  /-- MLOOP (R348): Decrements gX and branches while it is nonzero. -/
  | mloop (m : Micro)
  /-- MBR (R348): Branches on a condition of gX. -/
  | mbr (m : Micro)
  /-- MWAIT (R348): Waits for the job's engine operations, or for a window granule to become full. -/
  | mwait (m : Micro)
  /-- MSET (R348): Sets gX from an immediate or from a parameter word. -/
  | mset (m : Micro)
  /-- MADD (R348): Adds two mason registers and an immediate. -/
  | madd (m : Micro)
  /-- RET (R181): Jumps to S[63] with bits [3:0] cleared. -/
  | ret
  /-- NOP (R181): Does nothing. -/
  | nop
  /-- RTT (R393): Returns from a trap handler to trappc in the recorded mode, and clears NEST. -/
  | rtt
  /-- EXIT (R195): Ends the task: waits for remote stores, returns its weight, releases pins and map slots, and frees the context. -/
  | exit
  /-- TLBINV_GALL (R107): Drops all global TLB entries of the package. -/
  | tlbinvGall
  /-- TLBINV_SALL (R107): Drops all stream TLB entries of the package. -/
  | tlbinvSall
  /-- TLBINV_IALL (R107): Drops all tag-check cache entries of the package. -/
  | tlbinvIall
  /-- TLBINV_ALL (R107): Drops all global, stream and tag-check entries of the package. -/
  | tlbinvAll
  /-- MQK (R348): Computes the Q × K scores of the open page into the score area. -/
  | mqk
  /-- MMASK (R348): Sets the scores of disallowed tokens to minus infinity. -/
  | mmask
  /-- MMAX (R348): Updates the pending maximum m′ from the scaled scores. -/
  | mmax
  /-- MEXP (R348): Replaces each score with exp2 of the scaled score minus m′. -/
  | mexp
  /-- MSUM (R348): Sums the exponentiated scores into s. -/
  | msum
  /-- MSCL (R348): Rescales l and the committed buffer into l′ and the working buffer. -/
  | mscl
  /-- MPV (R348): Accumulates P × V of the open page into the working buffer. -/
  | mpv
  /-- MCHK (R349): Commits the pending state and writes the checkpoint record. -/
  | mchk
  /-- MNORM (R348): Divides the committed buffer by l. -/
  | mnorm
  /-- MOUT (R348): Writes the output rows and makes their granules full. -/
  | mout
  /-- MEND (R348): Ends the mason job and resolves its future. -/
  | mend
  /-- DOORBELL (R360): A host write of CHDBn.TAIL makes the appended records of a chain available to the chain reader. -/
  | doorbell
  /-- CHAIN_ENABLE (R358): A write of CHCFGn.EN := 1 while EN = 0 sets HEAD := TAIL := 0 and starts the chain. -/
  | chainEnable
  /-- CHAIN_STOP (R358): A write of CHCFGn.EN := 0 stops the chain reader from reading further records of the chain. -/
  | chainStop
  /-- REGISTER_WRITE (R7): A write to a control-block register that has no row of its own sets its fields per their access codes. -/
  | registerWrite
  /-- PKGMODE_FULL_WRITE (R379): A write of FULL := 1 is accepted only when all clusters are drained and a stack is in service, and it starts the copy into HBM. -/
  | pkgmodeFullWrite
  /-- FULL_SERVICE_READY (R379): The memory cores finish copying SRAM memory into HBM; the L2 slices become caches and FULL reads 1. -/
  | fullServiceReady
  /-- STACK_RETIRE (R385): Clearing a bit of CAPR.STACKS starts the retirement of that stack. -/
  | stackRetire
  /-- STACK_RETIRE_DONE (R385): The memory cores finish moving the granules to the interleave of n - 1 stacks. -/
  | stackRetireDone
  /-- COMMAND_NOP (R361): The chain reader reads a NOP record, which completes when read. -/
  | commandNop
  /-- COMMAND_LAUNCH (R361): The chain reader reads a LAUNCH record and sends it to the target dispatcher's input queue. -/
  | commandLaunch
  /-- COMMAND_WAIT (R361): The chain reader reads a WAIT record, which holds the later records of its chain. -/
  | commandWait
  /-- WAIT_RELEASE (R361): Every record before a WAIT completes, so the WAIT completes and the chain continues. -/
  | waitRelease
  /-- DISPATCHER_TAKE_LAUNCH (R363): A dispatcher takes the next launch, reads and checks its header, reads the indirect counts and takes its keystone. -/
  | dispatcherTakeLaunch
  /-- TASK_CREATE (R363): The dispatcher creates the next launched task once class D admits a yard record. -/
  | taskCreate
  /-- YARD_GIVE (R366): The task yard gives the waiting task of highest yard priority to a free context. -/
  | yardGive
  /-- RESUME_COUNTER_DRAIN (R281): A resumed task's saved remote-store counter reaches zero, and it may issue its first instruction. -/
  | resumeCounterDrain
  /-- PREEMPT (R367): The scheduler pre-empts a running task, saving its region state to the save area. -/
  | preempt
  /-- PRIORITY_AGE (R58): Every 4,096 cycles of waiting, a waiting context's or task's priority rises by one level, up to 3. -/
  | priorityAge
  /-- WORK_REQUEST (R45): An idle core asks its cluster for work, and the cluster answers with a thief or a refusal. -/
  | workRequest
  /-- CELLAR_REFILL (R371): When class S is allowed, the task at the head of the yard cellar ring takes a yard record. -/
  | cellarRefill
  /-- PLUMB_TOKEN_SEND (R374): A queue that has waited on another for 1,024 cycles sends a plumb token to it. -/
  | plumbTokenSend
  /-- PLUMB_TOKEN_FORWARD (R374): A queue that receives a plumb token forwards it when it is waiting, and drops it otherwise. -/
  | plumbTokenForward
  /-- REMOTE_STORE_ACK (R117): An acknowledgement of a remote store decrements the task's remote-store counter. -/
  | remoteStoreAck
  /-- WATCHDOG (R402): A counted wait reaches 2^32 cycles, and the waiting instruction traps with cause 0x0B. -/
  | watchdog
  /-- KWAIT_COMPLETE (R59): Within 2^10 cycles after returned = issued, a waiting KWAIT completes and frees its keystone. -/
  | kwaitComplete
  /-- WAITI_TIMEOUT (R193): The n × 1,024 cycles of a WAITI pass, and the context issues again. -/
  | waitiTimeout
  /-- SLEEP_END (R408): The sleep time of a context passes. -/
  | sleepEnd
  /-- YIELD_ELIGIBLE (R200): A yielded task becomes eligible to take a context n × 64 cycles after the YIELD. -/
  | yieldEligible
  /-- TABLE_WALK_END (R90): A cluster walker finishes a walk, setting A and D by CAS, and installs or faults the translation. -/
  | tableWalkEnd
  /-- L2_FILL (R113): A memory core completes the fill of an L2 miss from HBM. -/
  | l2Fill
  /-- COW_WALK (R302): The copy-on-write walker copies the shared root, leaf and page of a write through an S = 1 entry. -/
  | cowWalk
  /-- HERD_CLOSE_TIMEOUT (R305): An open group closes 4,096 cycles after its first arrival. -/
  | herdCloseTimeout
  /-- JOIN_RESOLVE (R310): Once the skims' free walks end, the group is freed and SJGRP's future resolves. -/
  | joinResolve
  /-- STREAM_OP_RESOLVE (R312): The stream processor completes a page-14 operation and resolves its future. -/
  | streamOpResolve
  /-- COPY_START (R369): The copy engine takes the next queued operation when fewer than 8 run. -/
  | copyStart
  /-- COPY_RESOLVE (R218): A copy-family operation ends and resolves with its completion word or a failure word. -/
  | copyResolve
  /-- MCAST_RESOLVE (R124): Every destination of a multicast has acknowledged, and its future resolves. -/
  | mcastResolve
  /-- TILE_PLACE (R368): The tile generator places the next tile-task in the task yard when class M allows. -/
  | tilePlace
  /-- TILE_TASK_DISPATCH (R260): The task scheduler sends an eligible tile-task to the lowest free matrix engine. -/
  | tileTaskDispatch
  /-- ROW_SEGMENT_WRITE (R258): A tile-task writes one row segment, and its granules go full. -/
  | rowSegmentWrite
  /-- TILE_TASK_END (R258): A tile-task ends on its engine and frees its yard record. -/
  | tileTaskEnd
  /-- PIN_RESOLVE (R84): A PIN ends and resolves with its quota bit and the count of bits not pinned. -/
  | pinResolve
  /-- PGMOV_LINE_MOVE (R100): One line of a moving page is written back, invalidated and copied to the new frame. -/
  | pgmovLineMove
  /-- PGMOV_RESOLVE (R109): A page move ends, with the stub written and the leaf rewritten by CAS, and resolves with its status. -/
  | pgmovResolve
  /-- MASON_JOB_START (R340): The mason starts the next queued job once the previous one has ended. -/
  | masonJobStart
  /-- EVENT_INTEGRATE (R326): The event unit integrates an event of the current tick into its neuron and returns its weight. -/
  | eventIntegrate
  /-- EVENT_CELLAR_REFILL (R331): The least record of an event cellar ring is refilled into the event queue. -/
  | eventCellarRefill
  /-- TICK_END (R329): The current tick's weight has all returned; fire evaluation runs and T advances. -/
  | tickEnd
  /-- EVENT_OP_RESOLVE (R333): The event unit completes a page-15 operation and resolves its future. -/
  | eventOpResolve
  /-- DOMAIN_STALL (R436): A domain makes no integration or fire for 2^20 cycles while a spill waits, and is reported stalled. -/
  | domainStall
  /-- CLDRAIN_COMPLETE (R382): Every engine operation of a draining cluster has resolved, and CLDRAIN completes. -/
  | cldrainComplete
  /-- CARVEOUT_SAMPLE (R82): At the end of a 2^20-cycle interval the slice computes its gains and may move one way. -/
  | carveoutSample
  /-- CARVEOUT_LIMIT_MOVE (R81): Every 4,096 cycles a slice with FCUR outside [FMIN, FMAX] moves one way toward the nearer limit. -/
  | carveoutLimitMove
  /-- L2_WAY_MOVE_END (R83): A way finishes changing use between cache and frames, and MOVING clears. -/
  | l2WayMoveEnd
  /-- ROUTE_WINDOW_END (R122): At the end of a 4,096-cycle window, switches choose two-phase routing from their link loads. -/
  | routeWindowEnd
  /-- RDLINE (R120): A request packet asks the owner for a line. -/
  | rdline
  /-- WRLINE (R120): A request packet writes a line with a byte mask at the owner. -/
  | wrline
  /-- MERGE (R120): A request packet merges bits of one word at the owner. -/
  | merge
  /-- ATOM (R120): A request packet performs an atomic at the owner. -/
  | atom
  /-- HOTINC (R98): A request packet increments a quadrant counter of a hotness record, halving it first when due. -/
  | hotinc
  /-- MVLINE (R100): A request packet carries one line of a page move. -/
  | mvline
  /-- DATA (R120): A response packet returns a line or a word. -/
  | data
  /-- ACK (R120): A response packet acknowledges a request. -/
  | ack
  /-- SOPEN (R126): A snapshot packet opens a migration with the stream's context image. -/
  | sopen
  /-- SACC (R126): A snapshot packet accepts a migration with the destination context number. -/
  | sacc
  /-- SREF (R311): A snapshot packet refuses a migration; the stream returns to IDLE at the source. -/
  | sref
  /-- SNODE (R126): A snapshot packet carries part of a tree node. -/
  | snode
  /-- SLINE (R126): A snapshot packet carries one page line with its tag. -/
  | sline
  /-- SDONE (R126): A snapshot packet ends the transfer of the tree and pages. -/
  | sdone
  /-- SDROP (R435): A snapshot packet reports that the source dropped its references; the destination stream becomes live. -/
  | sdrop
  /-- FLIT_REPLAY (R441): A flit with a bad CRC is discarded with all later ones, and a replay is requested. -/
  | flitReplay
  /-- FLIT_ACK (R441): The receiver acknowledges flits, which leave the sender's replay buffer. -/
  | flitAck
  /-- LINK_RETRAIN_END (R441): A link's retraining ends, and traffic resumes. -/
  | linkRetrainEnd
  /-- OWNER_LOST_TIMEOUT (R414): A forwarded request unanswered for 2^24 cycles is ended by the issuing die. -/
  | ownerLostTimeout
  /-- PACKAGE_LEAVE (R386): A package leaves the system; others drop its TLB entries and end requests to it. -/
  | packageLeave
  /-- SMIG_SOURCE_TIMEOUT (R435): The source gets no answer within 2^24 cycles; the stream returns to IDLE and SMIG fails. -/
  | smigSourceTimeout
  /-- SMIG_DEST_TIMEOUT (R435): SDROP does not arrive within 2^24 cycles; the destination frees its copy and context. -/
  | smigDestTimeout
  /-- POWER_ON_RESET (R376): Power-on or reset starts the boot, with the mask ROM and the wipe. -/
  | powerOnReset
  /-- SERVICE_FIRMWARE_IMAGE (R377): The control node sends the service firmware image, which is verified. -/
  | serviceFirmwareImage
  /-- CLUSTER_SELF_TEST_END (R376): A cluster ends its self-test and joins CAPR.CLUS, or stays out of service. -/
  | clusterSelfTestEnd
  /-- MEMORY_CORE_FIRMWARE_IMAGE (R377): The memory-core firmware image is verified before stacks are trained. -/
  | memoryCoreFirmwareImage
  /-- STACK_TRAIN_END (R376): A stack finishes training and its wipe, and joins CAPR.STACKS. -/
  | stackTrainEnd
  /-- LINK_TRAIN_END (R376): A torus link finishes training, and the scope table is built. -/
  | linkTrainEnd
  /-- CALIBRATION_END (R376): Power-delivery calibration ends; CAL := 1 and the clock becomes 2.1 GHz. -/
  | calibrationEnd
  /-- WIPE_END (R381): The wipe of SRAM or of a stack ends, and the wiped units may serve. -/
  | wipeEnd
  /-- LIFECYCLE_CHANGE (R380): A verified command image advances the life-cycle state, followed by a wipe. -/
  | lifecycleChange
  /-- MC_FIRMWARE_UPDATE (R384): A new memory-core image is verified, and a stack's memory cores stop. -/
  | mcFirmwareUpdate
  /-- MC_FIRMWARE_START (R384): The stack's new memory-core firmware starts, and the waiting accesses proceed. -/
  | mcFirmwareStart
  /-- THROTTLE (R387): The junction reaches 105 °C, and the clock drops to 1.05 GHz. -/
  | throttle
  /-- THROTTLE_END (R387): The junction falls below 100 °C, and the clock returns. -/
  | throttleEnd
  /-- THERMAL_SHUTDOWN (R387): The junction reaches 115 °C, and the package resets with a wipe. -/
  | thermalShutdown
  /-- SCRUB (R423): Periodic scrubbing reads and corrects HBM and SRAM arrays. -/
  | scrub
  /-- CLUSTER_LEAVE (R443): A cluster leaves service; its tasks are killed, streams broken and launches complete lost. -/
  | clusterLeave
  /-- MEMORY_CORE_FAIL (R430): A memory core stops working; its granules go to the next memory core of its stack. -/
  | memoryCoreFail
  /-- JOIN_UNIT_FAIL (R434): A join unit leaves service, losing every group it holds. -/
  | joinUnitFail
  /-- ILLEGAL_INSTRUCTION (R403): Issue of a reserved, unassigned or illegal encoding, such as a reserved major slot, an illegal prefix chain or a PO naming page 0 or 18 to 1023, takes the illegal-instruction trap. -/
  | illegalInstruction
  /-- HOST_PORT_WRITE (R360): The host writes command records, launch headers and data into device memory through a Porva port. -/
  | hostPortWrite
  /-- PORVA_PORT_LOSS (R27): One of the two Porva optical ports is lost, and the package stays in service on the other. -/
  | porvaPortLoss
  /-- POWER_OFF (R16): Loss of package power destroys all state except the fuses. -/
  | powerOff
  /-- MINVER_RAISE (R377): A verified command image raises a MINVER fuse counter while the device is DEPLOYED. -/
  | minverRaise
  /-- COPY_UNIT_WRITE (R218): The copy engine or a memory core writes one destination unit (a 1,024-bit block or one element), and its finished granules go full. -/
  | copyUnitWrite
  /-- MULTICAST_DELIVERY (R124): A multicast payload arrives at one destination core's window, its granules go full, and the core acknowledges. -/
  | multicastDelivery
  /-- PIN_LINE (R84): A PIN fetches and pins, skips or quota-stops the next line of its range. -/
  | pinLine
  deriving DecidableEq, Repr

end Sys2Proof
end

