-- ==== Sys2Proof/Decode.lean ====
section
/-!
DEFINITION. The instruction encodings (R152 to R167): the rows of the opcode map, the decoder of a chain of words, the
encoder, and the reading of an opcode-table word. The micro-instructions of the mason (R342, R346) stand at the end.
-/

namespace Sys2Proof

/-- One row of the opcode map: where its operands stand, which of them it reads, and its reserved values. -/
structure Row where
  page : Nat
  major : Nat
  /-- the operation in [3:0] of UN, FENCE and TLBINV -/
  sub : Option Nat
  hi : Slot := .zero
  mid : Slot := .zero
  lo : Slot := .zero
  /-- the operands read as sources (R170) -/
  sa : Bool := false
  sb : Bool := false
  sc : Bool := false
  sd : Bool := false
  /-- the fields that name vector registers (R167) -/
  vd : Bool := false
  va : Bool := false
  vb : Bool := false
  useC : Bool := false
  /-- the fields that name a pair (R155, R158) -/
  pd : Bool := false
  pa : Bool := false
  pb : Bool := false
  pc : Bool := false
  imm : ImmKind := .none
  /-- the immediate without any PI word, for an entry whose base word holds none -/
  dflt : BitVec 64 := 0
  /-- the width class of page 7 without a PI word -/
  dcls : BitVec 4 := 11
  pv : PvKind := .none
  /-- the entry's own reserved values -/
  ok : Ops → Bool := fun _ => true
  make : Ops → Instr

/-- ADD. -/
def rowAdd : Row := { page := 0, major := 0, sub := none, hi := .d, mid := .a, lo := .b, sa := true, sb := true, make := .add }

/-- SUB. -/
def rowSub : Row := { page := 0, major := 1, sub := none, hi := .d, mid := .a, lo := .b, sa := true, sb := true, make := .sub }

/-- AND. -/
def rowAnd : Row := { page := 0, major := 2, sub := none, hi := .d, mid := .a, lo := .b, sa := true, sb := true, make := .and }

/-- OR. -/
def rowOr : Row := { page := 0, major := 3, sub := none, hi := .d, mid := .a, lo := .b, sa := true, sb := true, make := .or }

/-- XOR. -/
def rowXor : Row := { page := 0, major := 4, sub := none, hi := .d, mid := .a, lo := .b, sa := true, sb := true, make := .xor }

/-- ADDI. -/
def rowAddi : Row := { page := 0, major := 5, sub := none, hi := .d, mid := .a, lo := .imm, sa := true, imm := .signed, make := .addi }

/-- SLLI. -/
def rowSlli : Row := { page := 0, major := 6, sub := none, hi := .d, mid := .a, lo := .imm, sa := true, imm := .unsigned, ok := fun o => decide (o.imm.toNat < 64), make := .slli }

/-- LI. -/
def rowLi : Row := { page := 0, major := 7, sub := none, hi := .d, mid := .imm, lo := .imm, imm := .signed, make := .li }

/-- LD. -/
def rowLd : Row := { page := 0, major := 8, sub := none, hi := .d, mid := .a, lo := .imm, sa := true, imm := .signed, make := .ld }

/-- ST. -/
def rowSt : Row := { page := 0, major := 9, sub := none, hi := .d, mid := .a, lo := .imm, sd := true, sa := true, imm := .signed, make := .st }

/-- BEQZ. -/
def rowBeqz : Row := { page := 0, major := 10, sub := none, hi := .a, mid := .imm, lo := .imm, sa := true, imm := .signed, make := .beqz }

/-- BNEZ. -/
def rowBnez : Row := { page := 0, major := 11, sub := none, hi := .a, mid := .imm, lo := .imm, sa := true, imm := .signed, make := .bnez }

/-- J. -/
def rowJ : Row := { page := 0, major := 12, sub := none, hi := .imm, mid := .imm, lo := .imm, imm := .signed, make := .j }

/-- CALL. -/
def rowCall : Row := { page := 0, major := 13, sub := none, hi := .imm, mid := .imm, lo := .imm, imm := .signed, make := .call }

/-- MOV. -/
def rowMov : Row := { page := 0, major := 14, sub := some 0, hi := .d, mid := .a, lo := .sub, sa := true, make := .mov }

/-- NOT. -/
def rowNot : Row := { page := 0, major := 14, sub := some 1, hi := .d, mid := .a, lo := .sub, sa := true, make := .not }

/-- NEG. -/
def rowNeg : Row := { page := 0, major := 14, sub := some 2, hi := .d, mid := .a, lo := .sub, sa := true, make := .neg }

/-- ABS. -/
def rowAbs : Row := { page := 0, major := 14, sub := some 3, hi := .d, mid := .a, lo := .sub, sa := true, make := .abs }

/-- CLZ. -/
def rowClz : Row := { page := 0, major := 14, sub := some 4, hi := .d, mid := .a, lo := .sub, sa := true, make := .clz }

/-- CTZ. -/
def rowCtz : Row := { page := 0, major := 14, sub := some 5, hi := .d, mid := .a, lo := .sub, sa := true, make := .ctz }

/-- POPC. -/
def rowPopc : Row := { page := 0, major := 14, sub := some 6, hi := .d, mid := .a, lo := .sub, sa := true, make := .popc }

/-- BREV. -/
def rowBrev : Row := { page := 0, major := 14, sub := some 7, hi := .d, mid := .a, lo := .sub, sa := true, make := .brev }

/-- JR. -/
def rowJr : Row := { page := 0, major := 14, sub := some 8, mid := .a, lo := .sub, sa := true, make := .jr }

/-- JALR. -/
def rowJalr : Row := { page := 0, major := 14, sub := some 9, hi := .d, mid := .a, lo := .sub, sa := true, make := .jalr }

/-- RET. -/
def rowRet : Row := { page := 0, major := 14, sub := some 10, lo := .sub, make := fun _ => .ret }

/-- NOP. -/
def rowNop : Row := { page := 0, major := 14, sub := some 11, lo := .sub, make := fun _ => .nop }

/-- MUL. -/
def rowMul : Row := { page := 1, major := 0, sub := none, hi := .d, mid := .a, lo := .b, sa := true, sb := true, make := .mul }

/-- MULH. -/
def rowMulh : Row := { page := 1, major := 1, sub := none, hi := .d, mid := .a, lo := .b, sa := true, sb := true, make := .mulh }

/-- MULHN. -/
def rowMulhn : Row := { page := 1, major := 2, sub := none, hi := .d, mid := .a, lo := .b, sa := true, sb := true, make := .mulhn }

/-- DIV. -/
def rowDiv : Row := { page := 1, major := 3, sub := none, hi := .d, mid := .a, lo := .b, sa := true, sb := true, make := .div }

/-- DIVN. -/
def rowDivn : Row := { page := 1, major := 4, sub := none, hi := .d, mid := .a, lo := .b, sa := true, sb := true, make := .divn }

/-- REM. -/
def rowRem : Row := { page := 1, major := 5, sub := none, hi := .d, mid := .a, lo := .b, sa := true, sb := true, make := .rem }

/-- REMN. -/
def rowRemn : Row := { page := 1, major := 6, sub := none, hi := .d, mid := .a, lo := .b, sa := true, sb := true, make := .remn }

/-- MIN. -/
def rowMin : Row := { page := 1, major := 7, sub := none, hi := .d, mid := .a, lo := .b, sa := true, sb := true, make := .min }

/-- MAX. -/
def rowMax : Row := { page := 1, major := 8, sub := none, hi := .d, mid := .a, lo := .b, sa := true, sb := true, make := .max }

/-- MINN. -/
def rowMinn : Row := { page := 1, major := 9, sub := none, hi := .d, mid := .a, lo := .b, sa := true, sb := true, make := .minn }

/-- MAXN. -/
def rowMaxn : Row := { page := 1, major := 10, sub := none, hi := .d, mid := .a, lo := .b, sa := true, sb := true, make := .maxn }

/-- SLL. -/
def rowSll : Row := { page := 1, major := 11, sub := none, hi := .d, mid := .a, lo := .b, sa := true, sb := true, make := .sll }

/-- SRL. -/
def rowSrl : Row := { page := 1, major := 12, sub := none, hi := .d, mid := .a, lo := .b, sa := true, sb := true, make := .srl }

/-- SRA. -/
def rowSra : Row := { page := 1, major := 13, sub := none, hi := .d, mid := .a, lo := .b, sa := true, sb := true, make := .sra }

/-- ROR. -/
def rowRor : Row := { page := 1, major := 14, sub := none, hi := .d, mid := .a, lo := .b, sa := true, sb := true, make := .ror }

/-- SEQ. -/
def rowSeq : Row := { page := 2, major := 0, sub := none, hi := .d, mid := .a, lo := .b, sa := true, sb := true, make := .seq }

/-- SNE. -/
def rowSne : Row := { page := 2, major := 1, sub := none, hi := .d, mid := .a, lo := .b, sa := true, sb := true, make := .sne }

/-- SLT. -/
def rowSlt : Row := { page := 2, major := 2, sub := none, hi := .d, mid := .a, lo := .b, sa := true, sb := true, make := .slt }

/-- SLTN. -/
def rowSltn : Row := { page := 2, major := 3, sub := none, hi := .d, mid := .a, lo := .b, sa := true, sb := true, make := .sltn }

/-- SRLI. -/
def rowSrli : Row := { page := 2, major := 4, sub := none, hi := .d, mid := .a, lo := .imm, sa := true, imm := .unsigned, ok := fun o => decide (o.imm.toNat < 64), make := .srli }

/-- SRAI. -/
def rowSrai : Row := { page := 2, major := 5, sub := none, hi := .d, mid := .a, lo := .imm, sa := true, imm := .unsigned, ok := fun o => decide (o.imm.toNat < 64), make := .srai }

/-- ANDI. -/
def rowAndi : Row := { page := 2, major := 6, sub := none, hi := .d, mid := .a, lo := .imm, sa := true, imm := .signed, make := .andi }

/-- ORI. -/
def rowOri : Row := { page := 2, major := 7, sub := none, hi := .d, mid := .a, lo := .imm, sa := true, imm := .signed, make := .ori }

/-- XORI. -/
def rowXori : Row := { page := 2, major := 8, sub := none, hi := .d, mid := .a, lo := .imm, sa := true, imm := .signed, make := .xori }

/-- SLTI. -/
def rowSlti : Row := { page := 2, major := 9, sub := none, hi := .d, mid := .a, lo := .imm, sa := true, imm := .signed, make := .slti }

/-- SEXT. -/
def rowSext : Row := { page := 2, major := 10, sub := none, hi := .d, mid := .a, lo := .f4, sa := true, ok := fun o => decide (o.f.toNat < 12), make := .sext }

/-- ZEXT. -/
def rowZext : Row := { page := 2, major := 11, sub := none, hi := .d, mid := .a, lo := .f4, sa := true, ok := fun o => decide (o.f.toNat < 12), make := .zext }

/-- BEXT. -/
def rowBext : Row := { page := 2, major := 12, sub := none, hi := .d, mid := .a, lo := .b, sa := true, sb := true, make := .bext }

/-- BDEP. -/
def rowBdep : Row := { page := 2, major := 13, sub := none, hi := .d, mid := .a, lo := .b, sa := true, sb := true, make := .bdep }

/-- SEL. -/
def rowSel : Row := { page := 2, major := 14, sub := none, hi := .d, mid := .a, lo := .b, sa := true, sb := true, sc := true, useC := true, make := .sel }

/-- BADV. -/
def rowBadv : Row := { page := 3, major := 0, sub := none, hi := .d, mid := .a, lo := .f4, sd := true, sa := true, ok := fun o => decide (o.f.toNat < 15), make := .badv }

/-- BRTV. -/
def rowBrtv : Row := { page := 3, major := 1, sub := none, hi := .d, mid := .a, lo := .f4, sd := true, sa := true, ok := fun o => decide (o.f.toNat < 15), make := .brtv }

/-- BDIFF. -/
def rowBdiff : Row := { page := 3, major := 2, sub := none, hi := .d, mid := .a, lo := .f4, sd := true, sa := true, ok := fun o => decide (o.f.toNat < 15), make := .bdiff }

/-- BALN. -/
def rowBaln : Row := { page := 3, major := 3, sub := none, hi := .d, mid := .a, lo := .f4, sa := true, ok := fun o => decide (o.f.toNat < 15), make := .baln }

/-- BCHK. -/
def rowBchk : Row := { page := 3, major := 4, sub := none, hi := .d, mid := .a, lo := .f4, sa := true, ok := fun o => decide (o.f.toNat < 15), make := .bchk }

/-- BY2B. -/
def rowBy2b : Row := { page := 3, major := 5, sub := none, hi := .d, mid := .a, sa := true, make := .by2b }

/-- BB2Y. -/
def rowBb2y : Row := { page := 3, major := 6, sub := none, hi := .d, mid := .a, sa := true, make := .bb2y }

/-- BCORE. -/
def rowBcore : Row := { page := 3, major := 7, sub := none, hi := .d, mid := .a, lo := .f4, sa := true, ok := fun o => decide (o.f.toNat < 4), make := .bcore }

/-- BMKL. -/
def rowBmkl : Row := { page := 3, major := 8, sub := none, hi := .d, mid := .a, lo := .b, sa := true, sb := true, make := .bmkl }

/-- BPLC. -/
def rowBplc : Row := { page := 3, major := 9, sub := none, hi := .d, mid := .a, lo := .f4, sa := true, ok := fun o => decide (o.f.toNat < 2), make := .bplc }

/-- LIH. -/
def rowLih : Row := { page := 3, major := 10, sub := none, hi := .d, mid := .imm, lo := .imm, sd := true, imm := .unsigned, make := .lih }

/-- ADDPC. -/
def rowAddpc : Row := { page := 3, major := 11, sub := none, hi := .d, mid := .imm, lo := .imm, imm := .signed, make := .addpc }

/-- WFLD. -/
def rowWfld : Row := { page := 3, major := 12, sub := none, hi := .d, mid := .a, lo := .f4, sa := true, ok := fun o => decide (o.f.toNat < 6), make := .wfld }

/-- BEQ. -/
def rowBeq : Row := { page := 4, major := 0, sub := none, hi := .a, mid := .b, lo := .imm, sa := true, sb := true, imm := .signed, make := .beq }

/-- BNE. -/
def rowBne : Row := { page := 4, major := 1, sub := none, hi := .a, mid := .b, lo := .imm, sa := true, sb := true, imm := .signed, make := .bne }

/-- BLT. -/
def rowBlt : Row := { page := 4, major := 2, sub := none, hi := .a, mid := .b, lo := .imm, sa := true, sb := true, imm := .signed, make := .blt }

/-- BLTN. -/
def rowBltn : Row := { page := 4, major := 3, sub := none, hi := .a, mid := .b, lo := .imm, sa := true, sb := true, imm := .signed, make := .bltn }

/-- BGE. -/
def rowBge : Row := { page := 4, major := 4, sub := none, hi := .a, mid := .b, lo := .imm, sa := true, sb := true, imm := .signed, make := .bge }

/-- BGEN. -/
def rowBgen : Row := { page := 4, major := 5, sub := none, hi := .a, mid := .b, lo := .imm, sa := true, sb := true, imm := .signed, make := .bgen }

/-- BALL. -/
def rowBall : Row := { page := 4, major := 6, sub := none, hi := .a, mid := .b, lo := .imm, sa := true, sb := true, imm := .signed, make := .ball }

/-- LOOP. -/
def rowLoop : Row := { page := 4, major := 7, sub := none, hi := .a, mid := .imm, lo := .imm, sa := true, imm := .signed, make := .loop }

/-- CSRR. -/
def rowCsrr : Row := { page := 4, major := 8, sub := none, hi := .d, mid := .imm, lo := .imm, imm := .baseOnly, make := .csrr }

/-- CSRW. -/
def rowCsrw : Row := { page := 4, major := 9, sub := none, hi := .a, mid := .imm, lo := .imm, sa := true, imm := .baseOnly, make := .csrw }

/-- TRAP. -/
def rowTrap : Row := { page := 4, major := 10, sub := none, hi := .imm, mid := .imm, lo := .imm, imm := .unsigned, make := .trap }

/-- RTT. -/
def rowRtt : Row := { page := 4, major := 11, sub := none, hi := .imm, mid := .imm, lo := .imm, imm := .unsigned, ok := fun o => o.imm == 0, make := fun _ => .rtt }

/-- WAITI. -/
def rowWaiti : Row := { page := 4, major := 12, sub := none, hi := .imm, mid := .imm, lo := .imm, imm := .unsigned, make := .waiti }

/-- REGN. -/
def rowRegn : Row := { page := 4, major := 13, sub := none, mid := .a, lo := .b, sa := true, sb := true, make := .regn }

/-- EXIT. -/
def rowExit : Row := { page := 4, major := 14, sub := none, hi := .imm, mid := .imm, lo := .imm, imm := .unsigned, ok := fun o => o.imm == 0, make := fun _ => .exit }

/-- SPAWN. -/
def rowSpawn : Row := { page := 5, major := 0, sub := none, hi := .d, mid := .a, lo := .b, sd := true, sa := true, sb := true, make := .spawn }

/-- RANGE. -/
def rowRange : Row := { page := 5, major := 1, sub := none, hi := .d, mid := .a, lo := .b, sd := true, sa := true, sb := true, sc := true, useC := true, pc := true, make := .range }

/-- RNEXT. -/
def rowRnext : Row := { page := 5, major := 2, sub := none, hi := .d, make := .rnext }

/-- KSET. -/
def rowKset : Row := { page := 5, major := 3, sub := none, hi := .d, make := .kset }

/-- KWAIT. -/
def rowKwait : Row := { page := 5, major := 4, sub := none, hi := .d, mid := .a, sa := true, make := .kwait }

/-- BARV. -/
def rowBarv : Row := { page := 5, major := 5, sub := none, hi := .d, mid := .a, lo := .f4, sa := true, ok := fun o => decide (o.f.toNat < 8), make := .barv }

/-- FWAIT. -/
def rowFwait : Row := { page := 5, major := 6, sub := none, hi := .d, mid := .a, sa := true, make := .fwait }

/-- FTEST. -/
def rowFtest : Row := { page := 5, major := 7, sub := none, hi := .d, mid := .a, sa := true, make := .ftest }

/-- FCANCEL. -/
def rowFcancel : Row := { page := 5, major := 8, sub := none, hi := .d, mid := .a, sa := true, make := .fcancel }

/-- FHND. -/
def rowFhnd : Row := { page := 5, major := 9, sub := none, hi := .d, mid := .a, sa := true, make := .fhnd }

/-- YIELD. -/
def rowYield : Row := { page := 5, major := 10, sub := none, hi := .imm, mid := .imm, lo := .imm, imm := .unsigned, make := .yield }

/-- LDF. -/
def rowLdf : Row := { page := 6, major := 0, sub := none, hi := .d, mid := .a, lo := .f4, sa := true, imm := .signed, ok := fun o => decide (o.f.toNat < 12), make := .ldf }

/-- LDFS. -/
def rowLdfs : Row := { page := 6, major := 1, sub := none, hi := .d, mid := .a, lo := .f4, sa := true, imm := .signed, ok := fun o => decide (o.f.toNat < 12), make := .ldfs }

/-- STF. -/
def rowStf : Row := { page := 6, major := 2, sub := none, hi := .d, mid := .a, lo := .f4, sd := true, sa := true, imm := .signed, ok := fun o => decide (o.f.toNat < 12), make := .stf }

/-- LDFE. -/
def rowLdfe : Row := { page := 6, major := 3, sub := none, hi := .d, mid := .a, lo := .f4, sa := true, imm := .signed, ok := fun o => !(o.f.toNat % 4 == 3 && o.d == 63), make := .ldfe }

/-- STFE. -/
def rowStfe : Row := { page := 6, major := 4, sub := none, hi := .d, mid := .a, lo := .imm, sd := true, sa := true, imm := .signed, make := .stfe }

/-- LDA. -/
def rowLda : Row := { page := 6, major := 5, sub := none, hi := .d, mid := .a, lo := .f4, sa := true, imm := .signed, ok := fun o => decide (o.f.toNat < 8), make := .lda }

/-- STR. -/
def rowStr : Row := { page := 6, major := 6, sub := none, hi := .d, mid := .a, lo := .f4, sd := true, sa := true, imm := .signed, ok := fun o => decide (o.f.toNat < 8), make := .str }

/-- FENCE_ACQ. -/
def rowFenceAcq : Row := { page := 6, major := 7, sub := some 0, mid := .f4, lo := .sub, ok := fun o => decide (o.f.toNat < 8), make := .fenceAcq }

/-- FENCE_REL. -/
def rowFenceRel : Row := { page := 6, major := 7, sub := some 1, mid := .f4, lo := .sub, ok := fun o => decide (o.f.toNat < 8), make := .fenceRel }

/-- FENCE_ACQREL. -/
def rowFenceAcqrel : Row := { page := 6, major := 7, sub := some 2, mid := .f4, lo := .sub, ok := fun o => decide (o.f.toNat < 8), make := .fenceAcqrel }

/-- FENCE_SC. -/
def rowFenceSc : Row := { page := 6, major := 7, sub := some 3, mid := .f4, lo := .sub, ok := fun o => decide (o.f.toNat < 8), make := .fenceSc }

/-- FENCE_RDRAIN. -/
def rowFenceRdrain : Row := { page := 6, major := 7, sub := some 4, mid := .f4, lo := .sub, ok := fun o => decide (o.f.toNat < 8), make := .fenceRdrain }

/-- PREF. -/
def rowPref : Row := { page := 6, major := 8, sub := none, mid := .a, lo := .f4, sa := true, imm := .signed, ok := fun o => o.f == 13 || o.f == 14, make := .pref }

/-- PIN. -/
def rowPin : Row := { page := 6, major := 9, sub := none, hi := .d, mid := .a, lo := .b, sa := true, sb := true, make := .pin }

/-- UNPIN. -/
def rowUnpin : Row := { page := 6, major := 10, sub := none, hi := .d, mid := .a, lo := .b, sa := true, sb := true, make := .unpin }

/-- CFLUSH. -/
def rowCflush : Row := { page := 6, major := 11, sub := none, mid := .a, lo := .f4, sa := true, imm := .signed, ok := fun o => o.f == 13 || o.f == 14, make := .cflush }

/-- CINV. -/
def rowCinv : Row := { page := 6, major := 12, sub := none, mid := .a, lo := .f4, sa := true, imm := .signed, ok := fun o => o.f == 13 || o.f == 14, make := .cinv }

/-- LDP. -/
def rowLdp : Row := { page := 6, major := 13, sub := none, hi := .d, mid := .a, lo := .imm, sa := true, pd := true, imm := .signed, make := .ldp }

/-- STP. -/
def rowStp : Row := { page := 6, major := 14, sub := none, hi := .d, mid := .a, lo := .imm, sd := true, sa := true, pd := true, imm := .signed, make := .stp }

/-- AMOADD. -/
def rowAmoadd : Row := { page := 7, major := 0, sub := none, hi := .d, mid := .a, lo := .b, sa := true, sb := true, imm := .atomic, ok := fun o => decide (o.cls.toNat < 12) && decide (o.scope.toNat < 8), make := .amoadd }

/-- AMOAND. -/
def rowAmoand : Row := { page := 7, major := 1, sub := none, hi := .d, mid := .a, lo := .b, sa := true, sb := true, imm := .atomic, ok := fun o => decide (o.cls.toNat < 12) && decide (o.scope.toNat < 8), make := .amoand }

/-- AMOOR. -/
def rowAmoor : Row := { page := 7, major := 2, sub := none, hi := .d, mid := .a, lo := .b, sa := true, sb := true, imm := .atomic, ok := fun o => decide (o.cls.toNat < 12) && decide (o.scope.toNat < 8), make := .amoor }

/-- AMOXOR. -/
def rowAmoxor : Row := { page := 7, major := 3, sub := none, hi := .d, mid := .a, lo := .b, sa := true, sb := true, imm := .atomic, ok := fun o => decide (o.cls.toNat < 12) && decide (o.scope.toNat < 8), make := .amoxor }

/-- AMOMIN. -/
def rowAmomin : Row := { page := 7, major := 4, sub := none, hi := .d, mid := .a, lo := .b, sa := true, sb := true, imm := .atomic, ok := fun o => decide (o.cls.toNat < 12) && decide (o.scope.toNat < 8), make := .amomin }

/-- AMOMAX. -/
def rowAmomax : Row := { page := 7, major := 5, sub := none, hi := .d, mid := .a, lo := .b, sa := true, sb := true, imm := .atomic, ok := fun o => decide (o.cls.toNat < 12) && decide (o.scope.toNat < 8), make := .amomax }

/-- AMOMINN. -/
def rowAmominn : Row := { page := 7, major := 6, sub := none, hi := .d, mid := .a, lo := .b, sa := true, sb := true, imm := .atomic, ok := fun o => decide (o.cls.toNat < 12) && decide (o.scope.toNat < 8), make := .amominn }

/-- AMOMAXN. -/
def rowAmomaxn : Row := { page := 7, major := 7, sub := none, hi := .d, mid := .a, lo := .b, sa := true, sb := true, imm := .atomic, ok := fun o => decide (o.cls.toNat < 12) && decide (o.scope.toNat < 8), make := .amomaxn }

/-- AMOSWP. -/
def rowAmoswp : Row := { page := 7, major := 8, sub := none, hi := .d, mid := .a, lo := .b, sa := true, sb := true, imm := .atomic, ok := fun o => decide (o.cls.toNat < 12) && decide (o.scope.toNat < 8), make := .amoswp }

/-- CAS. -/
def rowCas : Row := { page := 7, major := 9, sub := none, hi := .d, mid := .a, lo := .b, sa := true, sb := true, sc := true, useC := true, imm := .atomic, ok := fun o => decide (o.cls.toNat < 12) && decide (o.scope.toNat < 8), make := .cas }

/-- CAS2. -/
def rowCas2 : Row := { page := 7, major := 10, sub := none, hi := .d, mid := .a, lo := .b, sa := true, sb := true, sc := true, useC := true, pd := true, pb := true, pc := true, imm := .atomic, dcls := 12, ok := fun o => o.cls == 12 && decide (o.scope.toNat < 8), make := .cas2 }

/-- AMOFADD. -/
def rowAmofadd : Row := { page := 7, major := 11, sub := none, hi := .d, mid := .a, lo := .b, sa := true, sb := true, imm := .atomic, ok := fun o => (o.cls == 7 || o.cls == 9) && decide (o.scope.toNat < 8), make := .amofadd }

/-- CP. -/
def rowCp : Row := { page := 8, major := 0, sub := none, hi := .d, mid := .a, lo := .b, sa := true, sb := true, sc := true, useC := true, imm := .unsigned, dflt := 5, ok := fun o => decide (o.imm.toNat < 8), make := .cp }

/-- CP2D. -/
def rowCp2d : Row := { page := 8, major := 1, sub := none, hi := .d, mid := .a, lo := .b, sa := true, sb := true, sc := true, useC := true, pc := true, imm := .unsigned, dflt := 5, ok := fun o => decide (o.imm.toNat < 8), make := .cp2d }

/-- CPG. -/
def rowCpg : Row := { page := 8, major := 2, sub := none, hi := .d, mid := .a, lo := .b, sa := true, sb := true, sc := true, useC := true, imm := .unsigned, dflt := 5, ok := fun o => decide (o.imm.toNat < 8), make := .cpg }

/-- CPS. -/
def rowCps : Row := { page := 8, major := 3, sub := none, hi := .d, mid := .a, lo := .b, sa := true, sb := true, sc := true, useC := true, imm := .unsigned, dflt := 5, ok := fun o => decide (o.imm.toNat < 8), make := .cps }

/-- CPFILL. -/
def rowCpfill : Row := { page := 8, major := 4, sub := none, hi := .d, mid := .a, lo := .b, sa := true, sb := true, sc := true, useC := true, imm := .unsigned, dflt := 5, ok := fun o => decide (o.imm.toNat < 8), make := .cpfill }

/-- MCAST. -/
def rowMcast : Row := { page := 8, major := 5, sub := none, hi := .d, mid := .a, lo := .b, sa := true, sb := true, sc := true, useC := true, pc := true, imm := .unsigned, dflt := 5, ok := fun o => decide (o.imm.toNat < 8), make := .mcast }

/-- MCFETCH. -/
def rowMcfetch : Row := { page := 8, major := 6, sub := none, hi := .d, mid := .a, lo := .b, sa := true, sb := true, sc := true, useC := true, imm := .unsigned, dflt := 5, ok := fun o => decide (o.imm.toNat < 8), make := .mcfetch }

/-- MCSEND. -/
def rowMcsend : Row := { page := 8, major := 7, sub := none, hi := .d, mid := .a, lo := .b, sa := true, sb := true, sc := true, useC := true, imm := .unsigned, dflt := 5, ok := fun o => decide (o.imm.toNat < 8), make := .mcsend }

/-- VADD. -/
def rowVadd : Row := { page := 9, major := 0, sub := none, hi := .d, mid := .a, lo := .b, sa := true, sb := true, vd := true, va := true, vb := true, pv := .vector, make := .vadd }

/-- VSUB. -/
def rowVsub : Row := { page := 9, major := 1, sub := none, hi := .d, mid := .a, lo := .b, sa := true, sb := true, vd := true, va := true, vb := true, pv := .vector, make := .vsub }

/-- VMUL. -/
def rowVmul : Row := { page := 9, major := 2, sub := none, hi := .d, mid := .a, lo := .b, sa := true, sb := true, vd := true, va := true, vb := true, pv := .vector, make := .vmul }

/-- VFMA. -/
def rowVfma : Row := { page := 9, major := 3, sub := none, hi := .d, mid := .a, lo := .b, sa := true, sb := true, vd := true, va := true, vb := true, pv := .addend, make := .vfma }

/-- VMIN. -/
def rowVmin : Row := { page := 9, major := 4, sub := none, hi := .d, mid := .a, lo := .b, sa := true, sb := true, vd := true, va := true, vb := true, pv := .vector, make := .vmin }

/-- VMAX. -/
def rowVmax : Row := { page := 9, major := 5, sub := none, hi := .d, mid := .a, lo := .b, sa := true, sb := true, vd := true, va := true, vb := true, pv := .vector, make := .vmax }

/-- VABS. -/
def rowVabs : Row := { page := 9, major := 6, sub := none, hi := .d, mid := .a, sa := true, vd := true, va := true, pv := .vector, make := .vabs }

/-- VNEG. -/
def rowVneg : Row := { page := 9, major := 7, sub := none, hi := .d, mid := .a, sa := true, vd := true, va := true, pv := .vector, make := .vneg }

/-- VAND. -/
def rowVand : Row := { page := 9, major := 8, sub := none, hi := .d, mid := .a, lo := .b, sa := true, sb := true, vd := true, va := true, vb := true, pv := .vector, make := .vand }

/-- VOR. -/
def rowVor : Row := { page := 9, major := 9, sub := none, hi := .d, mid := .a, lo := .b, sa := true, sb := true, vd := true, va := true, vb := true, pv := .vector, make := .vor }

/-- VXOR. -/
def rowVxor : Row := { page := 9, major := 10, sub := none, hi := .d, mid := .a, lo := .b, sa := true, sb := true, vd := true, va := true, vb := true, pv := .vector, make := .vxor }

/-- VSHL. -/
def rowVshl : Row := { page := 9, major := 11, sub := none, hi := .d, mid := .a, lo := .b, sa := true, sb := true, vd := true, va := true, vb := true, pv := .vector, make := .vshl }

/-- VSHR. -/
def rowVshr : Row := { page := 9, major := 12, sub := none, hi := .d, mid := .a, lo := .b, sa := true, sb := true, vd := true, va := true, vb := true, pv := .vector, make := .vshr }

/-- VSRA. -/
def rowVsra : Row := { page := 9, major := 13, sub := none, hi := .d, mid := .a, lo := .b, sa := true, sb := true, vd := true, va := true, vb := true, pv := .vector, make := .vsra }

/-- VDIV. -/
def rowVdiv : Row := { page := 9, major := 14, sub := none, hi := .d, mid := .a, lo := .b, sa := true, sb := true, vd := true, va := true, vb := true, pv := .vector, make := .vdiv }

/-- VCMPEQ. -/
def rowVcmpeq : Row := { page := 10, major := 0, sub := none, hi := .d, mid := .a, lo := .b, sa := true, sb := true, va := true, vb := true, pv := .vector, make := .vcmpeq }

/-- VCMPNE. -/
def rowVcmpne : Row := { page := 10, major := 1, sub := none, hi := .d, mid := .a, lo := .b, sa := true, sb := true, va := true, vb := true, pv := .vector, make := .vcmpne }

/-- VCMPLT. -/
def rowVcmplt : Row := { page := 10, major := 2, sub := none, hi := .d, mid := .a, lo := .b, sa := true, sb := true, va := true, vb := true, pv := .vector, make := .vcmplt }

/-- VCMPLE. -/
def rowVcmple : Row := { page := 10, major := 3, sub := none, hi := .d, mid := .a, lo := .b, sa := true, sb := true, va := true, vb := true, pv := .vector, make := .vcmple }

/-- VSEL. -/
def rowVsel : Row := { page := 10, major := 4, sub := none, hi := .d, mid := .a, lo := .b, sa := true, sb := true, vd := true, va := true, vb := true, pv := .vector, make := .vsel }

/-- VREDADD. -/
def rowVredadd : Row := { page := 10, major := 5, sub := none, hi := .d, mid := .a, sa := true, va := true, pv := .vector, make := .vredadd }

/-- VREDMAX. -/
def rowVredmax : Row := { page := 10, major := 6, sub := none, hi := .d, mid := .a, sa := true, va := true, pv := .vector, make := .vredmax }

/-- VREDMIN. -/
def rowVredmin : Row := { page := 10, major := 7, sub := none, hi := .d, mid := .a, sa := true, va := true, pv := .vector, make := .vredmin }

/-- VREDOR. -/
def rowVredor : Row := { page := 10, major := 8, sub := none, hi := .d, mid := .a, sa := true, va := true, pv := .vector, make := .vredor }

/-- VBCAST. -/
def rowVbcast : Row := { page := 10, major := 9, sub := none, hi := .d, mid := .a, sa := true, vd := true, pv := .vector, make := .vbcast }

/-- VEXT. -/
def rowVext : Row := { page := 10, major := 10, sub := none, hi := .d, mid := .a, lo := .b, sa := true, sb := true, va := true, pv := .vector, make := .vext }

/-- VINS. -/
def rowVins : Row := { page := 10, major := 11, sub := none, hi := .d, mid := .a, lo := .b, sa := true, sb := true, vd := true, pv := .vector, make := .vins }

/-- VPERM. -/
def rowVperm : Row := { page := 10, major := 12, sub := none, hi := .d, mid := .a, lo := .b, sa := true, sb := true, vd := true, va := true, vb := true, pv := .vector, make := .vperm }

/-- VSLIDE. -/
def rowVslide : Row := { page := 10, major := 13, sub := none, hi := .d, mid := .a, lo := .imm, sa := true, vd := true, va := true, imm := .signed, pv := .vector, make := .vslide }

/-- VTRN. -/
def rowVtrn : Row := { page := 10, major := 14, sub := none, hi := .d, mid := .a, lo := .f4, sa := true, vd := true, va := true, pv := .vector, ok := fun o => decide (o.f.toNat < 2), make := .vtrn }

/-- VLD. -/
def rowVld : Row := { page := 11, major := 0, sub := none, hi := .d, mid := .a, lo := .imm, sa := true, vd := true, imm := .signed, pv := .vector, make := .vld }

/-- VST. -/
def rowVst : Row := { page := 11, major := 1, sub := none, hi := .d, mid := .a, lo := .imm, sa := true, vd := true, imm := .signed, pv := .vector, make := .vst }

/-- VLDS. -/
def rowVlds : Row := { page := 11, major := 2, sub := none, hi := .d, mid := .a, lo := .b, sa := true, sb := true, vd := true, pv := .vector, make := .vlds }

/-- VSTS. -/
def rowVsts : Row := { page := 11, major := 3, sub := none, hi := .d, mid := .a, lo := .b, sa := true, sb := true, vd := true, pv := .vector, make := .vsts }

/-- VGATH. -/
def rowVgath : Row := { page := 11, major := 4, sub := none, hi := .d, mid := .a, lo := .b, sa := true, sb := true, vd := true, vb := true, pv := .vector, make := .vgath }

/-- VSCAT. -/
def rowVscat : Row := { page := 11, major := 5, sub := none, hi := .d, mid := .a, lo := .b, sa := true, sb := true, vd := true, vb := true, pv := .vector, make := .vscat }

/-- VAOR. -/
def rowVaor : Row := { page := 11, major := 6, sub := none, hi := .d, mid := .a, lo := .b, sa := true, sb := true, vd := true, vb := true, imm := .unsigned, dflt := 5, pv := .vector, ok := fun o => decide (o.imm.toNat < 8), make := .vaor }

/-- VAADD. -/
def rowVaadd : Row := { page := 11, major := 7, sub := none, hi := .d, mid := .a, lo := .b, sa := true, sb := true, vd := true, vb := true, imm := .unsigned, dflt := 5, pv := .vector, ok := fun o => decide (o.imm.toNat < 8), make := .vaadd }

/-- VCVT. -/
def rowVcvt : Row := { page := 11, major := 8, sub := none, hi := .d, mid := .a, lo := .f4, sa := true, vd := true, va := true, imm := .unsigned, pv := .vector, ok := fun o => decide (o.imm.toNat < 1024) && decide (o.f.toNat + 16 * (o.imm.toNat % 2) < 18), make := .vcvt }

/-- VQ. -/
def rowVq : Row := { page := 11, major := 9, sub := none, hi := .d, mid := .a, lo := .f4, sa := true, vd := true, va := true, pd := true, imm := .unsigned, pv := .unmasked, ok := fun o => decide (4 ≤ o.f.toNat) && decide (o.imm.toNat < 1024), make := .vq }

/-- VDQ. -/
def rowVdq : Row := { page := 11, major := 10, sub := none, hi := .d, mid := .a, lo := .f4, sa := true, vd := true, va := true, pa := true, imm := .unsigned, pv := .unmasked, ok := fun o => decide (4 ≤ o.f.toNat) && decide (o.f.toNat ≤ 10) && decide (o.imm.toNat < 1024) && decide (o.imm.toNat % 16 = 0), make := .vdq }

/-- VMULHN. -/
def rowVmulhn : Row := { page := 11, major := 11, sub := none, hi := .d, mid := .a, lo := .b, sa := true, sb := true, vd := true, va := true, vb := true, pv := .vector, make := .vmulhn }

/-- VSETS. -/
def rowVsets : Row := { page := 11, major := 12, sub := none, hi := .d, mid := .a, lo := .b, sa := true, sb := true, pv := .vector, make := .vsets }

/-- VPOPC. -/
def rowVpopc : Row := { page := 11, major := 13, sub := none, hi := .d, mid := .a, sa := true, va := true, pv := .vector, make := .vpopc }

/-- VEXP2. -/
def rowVexp2 : Row := { page := 11, major := 14, sub := none, hi := .d, mid := .a, sa := true, vd := true, va := true, pv := .vector, make := .vexp2 }

/-- MMA_BF16. -/
def rowMmaBf16 : Row := { page := 12, major := 0, sub := none, hi := .d, mid := .a, lo := .b, sa := true, sb := true, imm := .unsigned, dflt := 0x140, pv := .unmasked, ok := fun o => decide (o.imm.toNat < 512), make := .mmaBf16 }

/-- MMA_F16. -/
def rowMmaF16 : Row := { page := 12, major := 1, sub := none, hi := .d, mid := .a, lo := .b, sa := true, sb := true, imm := .unsigned, dflt := 0x140, pv := .unmasked, ok := fun o => decide (o.imm.toNat < 512), make := .mmaF16 }

/-- MMA_F32. -/
def rowMmaF32 : Row := { page := 12, major := 2, sub := none, hi := .d, mid := .a, lo := .b, sa := true, sb := true, imm := .unsigned, dflt := 0x140, pv := .unmasked, ok := fun o => decide (o.imm.toNat < 512), make := .mmaF32 }

/-- MMA_E4M3. -/
def rowMmaE4m3 : Row := { page := 12, major := 3, sub := none, hi := .d, mid := .a, lo := .b, sa := true, sb := true, sc := true, useC := true, pc := true, imm := .unsigned, dflt := 0x140, pv := .unmasked, ok := fun o => decide (o.imm.toNat < 512), make := .mmaE4m3 }

/-- MMA_E5M2. -/
def rowMmaE5m2 : Row := { page := 12, major := 4, sub := none, hi := .d, mid := .a, lo := .b, sa := true, sb := true, sc := true, useC := true, pc := true, imm := .unsigned, dflt := 0x140, pv := .unmasked, ok := fun o => decide (o.imm.toNat < 512), make := .mmaE5m2 }

/-- MMA_E4M3E5M2. -/
def rowMmaE4m3e5m2 : Row := { page := 12, major := 5, sub := none, hi := .d, mid := .a, lo := .b, sa := true, sb := true, sc := true, useC := true, pc := true, imm := .unsigned, dflt := 0x140, pv := .unmasked, ok := fun o => decide (o.imm.toNat < 512), make := .mmaE4m3e5m2 }

/-- MMA_I8. -/
def rowMmaI8 : Row := { page := 12, major := 6, sub := none, hi := .d, mid := .a, lo := .b, sa := true, sb := true, imm := .unsigned, dflt := 0x140, pv := .unmasked, ok := fun o => decide (o.imm.toNat < 512), make := .mmaI8 }

/-- MMA_I8N8. -/
def rowMmaI8n8 : Row := { page := 12, major := 7, sub := none, hi := .d, mid := .a, lo := .b, sa := true, sb := true, imm := .unsigned, dflt := 0x140, pv := .unmasked, ok := fun o => decide (o.imm.toNat < 512), make := .mmaI8n8 }

/-- MMA_E2M3. -/
def rowMmaE2m3 : Row := { page := 12, major := 8, sub := none, hi := .d, mid := .a, lo := .b, sa := true, sb := true, sc := true, useC := true, pc := true, imm := .unsigned, dflt := 0x140, pv := .unmasked, ok := fun o => decide (o.imm.toNat < 512), make := .mmaE2m3 }

/-- MMA_E3M2. -/
def rowMmaE3m2 : Row := { page := 12, major := 9, sub := none, hi := .d, mid := .a, lo := .b, sa := true, sb := true, sc := true, useC := true, pc := true, imm := .unsigned, dflt := 0x140, pv := .unmasked, ok := fun o => decide (o.imm.toNat < 512), make := .mmaE3m2 }

/-- MMA_Q4. -/
def rowMmaQ4 : Row := { page := 12, major := 10, sub := none, hi := .d, mid := .a, lo := .b, sa := true, sb := true, sc := true, useC := true, pc := true, imm := .unsigned, dflt := 0x140, pv := .unmasked, ok := fun o => decide (o.imm.toNat < 512), make := .mmaQ4 }

/-- MMA_Q4E4M3. -/
def rowMmaQ4e4m3 : Row := { page := 12, major := 11, sub := none, hi := .d, mid := .a, lo := .b, sa := true, sb := true, sc := true, useC := true, pc := true, imm := .unsigned, dflt := 0x140, pv := .unmasked, ok := fun o => decide (o.imm.toNat < 512), make := .mmaQ4e4m3 }

/-- MMA_BF16Q4. -/
def rowMmaBf16q4 : Row := { page := 12, major := 12, sub := none, hi := .d, mid := .a, lo := .b, sa := true, sb := true, sc := true, useC := true, pc := true, imm := .unsigned, dflt := 0x140, pv := .unmasked, ok := fun o => decide (o.imm.toNat < 512), make := .mmaBf16q4 }

/-- MMA_I4. -/
def rowMmaI4 : Row := { page := 12, major := 13, sub := none, hi := .d, mid := .a, lo := .b, sa := true, sb := true, imm := .unsigned, dflt := 0x140, pv := .unmasked, ok := fun o => decide (o.imm.toNat < 512), make := .mmaI4 }

/-- MMA_I3I8. -/
def rowMmaI3i8 : Row := { page := 12, major := 14, sub := none, hi := .d, mid := .a, lo := .b, sa := true, sb := true, imm := .unsigned, dflt := 0x140, pv := .unmasked, ok := fun o => decide (o.imm.toNat < 512), make := .mmaI3i8 }

/-- SMMA_BF16. -/
def rowSmmaBf16 : Row := { page := 13, major := 0, sub := none, hi := .d, mid := .a, lo := .b, sa := true, sb := true, imm := .unsigned, dflt := 0x140, pv := .unmasked, ok := fun o => decide (o.imm.toNat < 512), make := .smmaBf16 }

/-- SMMA_E4M3. -/
def rowSmmaE4m3 : Row := { page := 13, major := 1, sub := none, hi := .d, mid := .a, lo := .b, sa := true, sb := true, sc := true, useC := true, pc := true, imm := .unsigned, dflt := 0x140, pv := .unmasked, ok := fun o => decide (o.imm.toNat < 512), make := .smmaE4m3 }

/-- SMMA_Q4. -/
def rowSmmaQ4 : Row := { page := 13, major := 2, sub := none, hi := .d, mid := .a, lo := .b, sa := true, sb := true, sc := true, useC := true, pc := true, imm := .unsigned, dflt := 0x140, pv := .unmasked, ok := fun o => decide (o.imm.toNat < 512), make := .smmaQ4 }

/-- MSHAPE. -/
def rowMshape : Row := { page := 13, major := 3, sub := none, hi := .d, mid := .a, sa := true, make := .mshape }

/-- MMAP_ALLOCATE. -/
def rowMmapAllocate : Row := { page := 13, major := 4, sub := none, hi := .d, mid := .a, lo := .b, sa := true, sb := true, make := .mmapAllocate }

/-- MMAP_FREE. -/
def rowMmapFree : Row := { page := 13, major := 4, sub := none, hi := .d, mid := .a, lo := .b, sa := true, sb := true, make := .mmapFree }

/-- MZERO. -/
def rowMzero : Row := { page := 13, major := 5, sub := none, hi := .d, mid := .a, sa := true, imm := .unsigned, dflt := 0x140, ok := fun o => decide (o.imm.toNat < 512), make := .mzero }

/-- SNEW. -/
def rowSnew : Row := { page := 14, major := 0, sub := none, hi := .d, mid := .a, lo := .b, sa := true, sb := true, make := .snew }

/-- SFORK. -/
def rowSfork : Row := { page := 14, major := 1, sub := none, hi := .d, mid := .a, lo := .b, sa := true, sb := true, make := .sfork }

/-- SPRUNE. -/
def rowSprune : Row := { page := 14, major := 2, sub := none, hi := .d, mid := .a, sa := true, make := .sprune }

/-- SJGRP. -/
def rowSjgrp : Row := { page := 14, major := 3, sub := none, hi := .d, mid := .a, lo := .b, sa := true, sb := true, make := .sjgrp }

/-- SJOIN. -/
def rowSjoin : Row := { page := 14, major := 4, sub := none, hi := .d, mid := .a, lo := .b, sa := true, sb := true, make := .sjoin }

/-- SSTEP. -/
def rowSstep : Row := { page := 14, major := 5, sub := none, hi := .d, mid := .a, lo := .b, sa := true, sb := true, make := .sstep }

/-- SAQP. -/
def rowSaqp : Row := { page := 14, major := 6, sub := none, hi := .d, mid := .a, sa := true, make := .saqp }

/-- SAQW. -/
def rowSaqw : Row := { page := 14, major := 7, sub := none, hi := .d, mid := .a, lo := .b, sa := true, sb := true, make := .saqw }

/-- SHZ. -/
def rowShz : Row := { page := 14, major := 8, sub := none, hi := .d, mid := .a, sa := true, make := .shz }

/-- SHZD. -/
def rowShzd : Row := { page := 14, major := 9, sub := none, hi := .d, mid := .a, sa := true, make := .shzd }

/-- SMIG. -/
def rowSmig : Row := { page := 14, major := 10, sub := none, hi := .d, mid := .a, lo := .b, sa := true, sb := true, make := .smig }

/-- SMAP_FRESH. -/
def rowSmapFresh : Row := { page := 14, major := 11, sub := none, hi := .d, mid := .a, lo := .b, sa := true, sb := true, make := .smapFresh }

/-- SMAP_SHARE. -/
def rowSmapShare : Row := { page := 14, major := 11, sub := none, hi := .d, mid := .a, lo := .b, sa := true, sb := true, make := .smapShare }

/-- SMAP_UNMAP. -/
def rowSmapUnmap : Row := { page := 14, major := 11, sub := none, hi := .d, mid := .a, lo := .b, sa := true, sb := true, make := .smapUnmap }

/-- SMAP_FRAME. -/
def rowSmapFrame : Row := { page := 14, major := 11, sub := none, hi := .d, mid := .a, lo := .b, sa := true, sb := true, make := .smapFrame }

/-- SEND. -/
def rowSend : Row := { page := 14, major := 12, sub := none, hi := .d, mid := .a, sa := true, make := .send }

/-- EPOPL. -/
def rowEpopl : Row := { page := 15, major := 0, sub := none, hi := .d, mid := .a, lo := .b, sa := true, sb := true, make := .epopl }

/-- EPOST. -/
def rowEpost : Row := { page := 15, major := 1, sub := none, hi := .d, mid := .a, lo := .b, sa := true, sb := true, make := .epost }

/-- EPOSTV. -/
def rowEpostv : Row := { page := 15, major := 2, sub := none, hi := .d, mid := .a, lo := .b, sa := true, sb := true, vb := true, make := .epostv }

/-- ERUN. -/
def rowErun : Row := { page := 15, major := 3, sub := none, hi := .d, mid := .a, lo := .b, sa := true, sb := true, make := .erun }

/-- ETICK. -/
def rowEtick : Row := { page := 15, major := 4, sub := none, hi := .d, mid := .a, sa := true, make := .etick }

/-- EDRAIN. -/
def rowEdrain : Row := { page := 15, major := 5, sub := none, hi := .d, mid := .a, sa := true, make := .edrain }

/-- ALOAD. -/
def rowAload : Row := { page := 16, major := 0, sub := none, hi := .d, mid := .a, lo := .b, sa := true, sb := true, make := .aload }

/-- AGO. -/
def rowAgo : Row := { page := 16, major := 1, sub := none, hi := .d, mid := .a, lo := .b, sa := true, sb := true, make := .ago }

/-- ASTAT. -/
def rowAstat : Row := { page := 16, major := 2, sub := none, hi := .d, mid := .a, sa := true, make := .astat }

/-- ASTOP. -/
def rowAstop : Row := { page := 16, major := 3, sub := none, hi := .d, mid := .a, sa := true, make := .astop }

/-- TLBINV_GPAGE. -/
def rowTlbinvGpage : Row := { page := 17, major := 0, sub := some 0, mid := .a, lo := .sub, sa := true, make := .tlbinvGpage }

/-- TLBINV_GALL. -/
def rowTlbinvGall : Row := { page := 17, major := 0, sub := some 1, lo := .sub, make := fun _ => .tlbinvGall }

/-- TLBINV_SID. -/
def rowTlbinvSid : Row := { page := 17, major := 0, sub := some 2, mid := .a, lo := .sub, sa := true, make := .tlbinvSid }

/-- TLBINV_SALL. -/
def rowTlbinvSall : Row := { page := 17, major := 0, sub := some 3, lo := .sub, make := fun _ => .tlbinvSall }

/-- TLBINV_IDENT. -/
def rowTlbinvIdent : Row := { page := 17, major := 0, sub := some 4, mid := .a, lo := .sub, sa := true, make := .tlbinvIdent }

/-- TLBINV_IALL. -/
def rowTlbinvIall : Row := { page := 17, major := 0, sub := some 5, lo := .sub, make := fun _ => .tlbinvIall }

/-- TLBINV_ALL. -/
def rowTlbinvAll : Row := { page := 17, major := 0, sub := some 6, lo := .sub, make := fun _ => .tlbinvAll }

/-- IDSET. -/
def rowIdset : Row := { page := 17, major := 1, sub := none, hi := .d, mid := .a, sa := true, make := .idset }

/-- CTXSAVE. -/
def rowCtxsave : Row := { page := 17, major := 2, sub := none, hi := .d, mid := .a, lo := .b, sa := true, sb := true, make := .ctxsave }

/-- CTXLOAD_RELEASE. -/
def rowCtxloadRelease : Row := { page := 17, major := 3, sub := none, hi := .d, mid := .a, lo := .b, sa := true, sb := true, make := .ctxloadRelease }

/-- CTXLOAD_KILL. -/
def rowCtxloadKill : Row := { page := 17, major := 3, sub := none, hi := .d, mid := .a, lo := .b, sa := true, sb := true, make := .ctxloadKill }

/-- PCNT. -/
def rowPcnt : Row := { page := 17, major := 4, sub := none, hi := .d, mid := .a, lo := .f4, sa := true, ok := fun o => decide (o.f.toNat < 2), make := .pcnt }

/-- SLEEP. -/
def rowSleep : Row := { page := 17, major := 5, sub := none, hi := .imm, mid := .imm, lo := .imm, imm := .unsigned, ok := fun o => o.imm != 0, make := .sleep }

/-- PGMOV. -/
def rowPgmov : Row := { page := 17, major := 6, sub := none, hi := .d, mid := .a, lo := .b, sa := true, sb := true, make := .pgmov }

/-- CLDRAIN_DRAIN. -/
def rowCldrainDrain : Row := { page := 17, major := 7, sub := none, hi := .d, mid := .a, lo := .b, sa := true, sb := true, make := .cldrainDrain }

/-- CLDRAIN_RESUME. -/
def rowCldrainResume : Row := { page := 17, major := 7, sub := none, hi := .d, mid := .a, lo := .b, sa := true, sb := true, make := .cldrainResume }

/-- CLDRAIN_WIPE. -/
def rowCldrainWipe : Row := { page := 17, major := 7, sub := none, hi := .d, mid := .a, lo := .b, sa := true, sb := true, make := .cldrainWipe }

/-- ELOGR. -/
def rowElogr : Row := { page := 17, major := 8, sub := none, hi := .d, mid := .a, lo := .b, sa := true, sb := true, make := .elogr }

/-- The rows of one opcode page (R164, R165), each word once: a row that is another row by an operand value is
listed under the first of them (log 12). -/
def pageRows : Nat → List Row
  | 0 => [rowAdd, rowSub, rowAnd, rowOr, rowXor, rowAddi, rowSlli, rowLi, rowLd, rowSt, rowBeqz, rowBnez, rowJ, rowCall, rowMov, rowNot, rowNeg, rowAbs, rowClz, rowCtz, rowPopc, rowBrev, rowJr, rowJalr, rowRet, rowNop]
  | 1 => [rowMul, rowMulh, rowMulhn, rowDiv, rowDivn, rowRem, rowRemn, rowMin, rowMax, rowMinn, rowMaxn, rowSll, rowSrl, rowSra, rowRor]
  | 2 => [rowSeq, rowSne, rowSlt, rowSltn, rowSrli, rowSrai, rowAndi, rowOri, rowXori, rowSlti, rowSext, rowZext, rowBext, rowBdep, rowSel]
  | 3 => [rowBadv, rowBrtv, rowBdiff, rowBaln, rowBchk, rowBy2b, rowBb2y, rowBcore, rowBmkl, rowBplc, rowLih, rowAddpc, rowWfld]
  | 4 => [rowBeq, rowBne, rowBlt, rowBltn, rowBge, rowBgen, rowBall, rowLoop, rowCsrr, rowCsrw, rowTrap, rowRtt, rowWaiti, rowRegn, rowExit]
  | 5 => [rowSpawn, rowRange, rowRnext, rowKset, rowKwait, rowBarv, rowFwait, rowFtest, rowFcancel, rowFhnd, rowYield]
  | 6 => [rowLdf, rowLdfs, rowStf, rowLdfe, rowStfe, rowLda, rowStr, rowFenceAcq, rowFenceRel, rowFenceAcqrel, rowFenceSc, rowFenceRdrain, rowPref, rowPin, rowUnpin, rowCflush, rowCinv, rowLdp, rowStp]
  | 7 => [rowAmoadd, rowAmoand, rowAmoor, rowAmoxor, rowAmomin, rowAmomax, rowAmominn, rowAmomaxn, rowAmoswp, rowCas, rowCas2, rowAmofadd]
  | 8 => [rowCp, rowCp2d, rowCpg, rowCps, rowCpfill, rowMcast, rowMcfetch, rowMcsend]
  | 9 => [rowVadd, rowVsub, rowVmul, rowVfma, rowVmin, rowVmax, rowVabs, rowVneg, rowVand, rowVor, rowVxor, rowVshl, rowVshr, rowVsra, rowVdiv]
  | 10 => [rowVcmpeq, rowVcmpne, rowVcmplt, rowVcmple, rowVsel, rowVredadd, rowVredmax, rowVredmin, rowVredor, rowVbcast, rowVext, rowVins, rowVperm, rowVslide, rowVtrn]
  | 11 => [rowVld, rowVst, rowVlds, rowVsts, rowVgath, rowVscat, rowVaor, rowVaadd, rowVcvt, rowVq, rowVdq, rowVmulhn, rowVsets, rowVpopc, rowVexp2]
  | 12 => [rowMmaBf16, rowMmaF16, rowMmaF32, rowMmaE4m3, rowMmaE5m2, rowMmaE4m3e5m2, rowMmaI8, rowMmaI8n8, rowMmaE2m3, rowMmaE3m2, rowMmaQ4, rowMmaQ4e4m3, rowMmaBf16q4, rowMmaI4, rowMmaI3i8]
  | 13 => [rowSmmaBf16, rowSmmaE4m3, rowSmmaQ4, rowMshape, rowMmapAllocate, rowMzero]
  | 14 => [rowSnew, rowSfork, rowSprune, rowSjgrp, rowSjoin, rowSstep, rowSaqp, rowSaqw, rowShz, rowShzd, rowSmig, rowSmapFresh, rowSend]
  | 15 => [rowEpopl, rowEpost, rowEpostv, rowErun, rowEtick, rowEdrain]
  | 16 => [rowAload, rowAgo, rowAstat, rowAstop]
  | 17 => [rowTlbinvGpage, rowTlbinvGall, rowTlbinvSid, rowTlbinvSall, rowTlbinvIdent, rowTlbinvIall, rowTlbinvAll, rowIdset, rowCtxsave, rowCtxloadRelease, rowPcnt, rowSleep, rowPgmov, rowCldrainDrain, rowElogr]
  | _ => []

/-- The row and the operands of an encoded instruction; none for a micro-instruction or an event. -/
def rowOf? : Instr → Option (Row × Ops)
  | .add o => some (rowAdd, o)
  | .sub o => some (rowSub, o)
  | .and o => some (rowAnd, o)
  | .or o => some (rowOr, o)
  | .xor o => some (rowXor, o)
  | .addi o => some (rowAddi, o)
  | .slli o => some (rowSlli, o)
  | .li o => some (rowLi, o)
  | .ld o => some (rowLd, o)
  | .st o => some (rowSt, o)
  | .beqz o => some (rowBeqz, o)
  | .bnez o => some (rowBnez, o)
  | .j o => some (rowJ, o)
  | .call o => some (rowCall, o)
  | .mov o => some (rowMov, o)
  | .not o => some (rowNot, o)
  | .neg o => some (rowNeg, o)
  | .abs o => some (rowAbs, o)
  | .clz o => some (rowClz, o)
  | .ctz o => some (rowCtz, o)
  | .popc o => some (rowPopc, o)
  | .brev o => some (rowBrev, o)
  | .jr o => some (rowJr, o)
  | .jalr o => some (rowJalr, o)
  | .ret => some (rowRet, {})
  | .nop => some (rowNop, {})
  | .mul o => some (rowMul, o)
  | .mulh o => some (rowMulh, o)
  | .mulhn o => some (rowMulhn, o)
  | .div o => some (rowDiv, o)
  | .divn o => some (rowDivn, o)
  | .rem o => some (rowRem, o)
  | .remn o => some (rowRemn, o)
  | .min o => some (rowMin, o)
  | .max o => some (rowMax, o)
  | .minn o => some (rowMinn, o)
  | .maxn o => some (rowMaxn, o)
  | .sll o => some (rowSll, o)
  | .srl o => some (rowSrl, o)
  | .sra o => some (rowSra, o)
  | .ror o => some (rowRor, o)
  | .seq o => some (rowSeq, o)
  | .sne o => some (rowSne, o)
  | .slt o => some (rowSlt, o)
  | .sltn o => some (rowSltn, o)
  | .srli o => some (rowSrli, o)
  | .srai o => some (rowSrai, o)
  | .andi o => some (rowAndi, o)
  | .ori o => some (rowOri, o)
  | .xori o => some (rowXori, o)
  | .slti o => some (rowSlti, o)
  | .sext o => some (rowSext, o)
  | .zext o => some (rowZext, o)
  | .bext o => some (rowBext, o)
  | .bdep o => some (rowBdep, o)
  | .sel o => some (rowSel, o)
  | .badv o => some (rowBadv, o)
  | .brtv o => some (rowBrtv, o)
  | .bdiff o => some (rowBdiff, o)
  | .baln o => some (rowBaln, o)
  | .bchk o => some (rowBchk, o)
  | .by2b o => some (rowBy2b, o)
  | .bb2y o => some (rowBb2y, o)
  | .bcore o => some (rowBcore, o)
  | .bmkl o => some (rowBmkl, o)
  | .bplc o => some (rowBplc, o)
  | .lih o => some (rowLih, o)
  | .addpc o => some (rowAddpc, o)
  | .wfld o => some (rowWfld, o)
  | .beq o => some (rowBeq, o)
  | .bne o => some (rowBne, o)
  | .blt o => some (rowBlt, o)
  | .bltn o => some (rowBltn, o)
  | .bge o => some (rowBge, o)
  | .bgen o => some (rowBgen, o)
  | .ball o => some (rowBall, o)
  | .loop o => some (rowLoop, o)
  | .csrr o => some (rowCsrr, o)
  | .csrw o => some (rowCsrw, o)
  | .trap o => some (rowTrap, o)
  | .rtt => some (rowRtt, {})
  | .waiti o => some (rowWaiti, o)
  | .regn o => some (rowRegn, o)
  | .exit => some (rowExit, {})
  | .spawn o => some (rowSpawn, o)
  | .range o => some (rowRange, o)
  | .rnext o => some (rowRnext, o)
  | .kset o => some (rowKset, o)
  | .kwait o => some (rowKwait, o)
  | .barv o => some (rowBarv, o)
  | .fwait o => some (rowFwait, o)
  | .ftest o => some (rowFtest, o)
  | .fcancel o => some (rowFcancel, o)
  | .fhnd o => some (rowFhnd, o)
  | .yield o => some (rowYield, o)
  | .ldf o => some (rowLdf, o)
  | .ldfs o => some (rowLdfs, o)
  | .stf o => some (rowStf, o)
  | .ldfe o => some (rowLdfe, o)
  | .stfe o => some (rowStfe, o)
  | .lda o => some (rowLda, o)
  | .str o => some (rowStr, o)
  | .fenceAcq o => some (rowFenceAcq, o)
  | .fenceRel o => some (rowFenceRel, o)
  | .fenceAcqrel o => some (rowFenceAcqrel, o)
  | .fenceSc o => some (rowFenceSc, o)
  | .fenceRdrain o => some (rowFenceRdrain, o)
  | .pref o => some (rowPref, o)
  | .pin o => some (rowPin, o)
  | .unpin o => some (rowUnpin, o)
  | .cflush o => some (rowCflush, o)
  | .cinv o => some (rowCinv, o)
  | .ldp o => some (rowLdp, o)
  | .stp o => some (rowStp, o)
  | .amoadd o => some (rowAmoadd, o)
  | .amoand o => some (rowAmoand, o)
  | .amoor o => some (rowAmoor, o)
  | .amoxor o => some (rowAmoxor, o)
  | .amomin o => some (rowAmomin, o)
  | .amomax o => some (rowAmomax, o)
  | .amominn o => some (rowAmominn, o)
  | .amomaxn o => some (rowAmomaxn, o)
  | .amoswp o => some (rowAmoswp, o)
  | .cas o => some (rowCas, o)
  | .cas2 o => some (rowCas2, o)
  | .amofadd o => some (rowAmofadd, o)
  | .cp o => some (rowCp, o)
  | .cp2d o => some (rowCp2d, o)
  | .cpg o => some (rowCpg, o)
  | .cps o => some (rowCps, o)
  | .cpfill o => some (rowCpfill, o)
  | .mcast o => some (rowMcast, o)
  | .mcfetch o => some (rowMcfetch, o)
  | .mcsend o => some (rowMcsend, o)
  | .vadd o => some (rowVadd, o)
  | .vsub o => some (rowVsub, o)
  | .vmul o => some (rowVmul, o)
  | .vfma o => some (rowVfma, o)
  | .vmin o => some (rowVmin, o)
  | .vmax o => some (rowVmax, o)
  | .vabs o => some (rowVabs, o)
  | .vneg o => some (rowVneg, o)
  | .vand o => some (rowVand, o)
  | .vor o => some (rowVor, o)
  | .vxor o => some (rowVxor, o)
  | .vshl o => some (rowVshl, o)
  | .vshr o => some (rowVshr, o)
  | .vsra o => some (rowVsra, o)
  | .vdiv o => some (rowVdiv, o)
  | .vcmpeq o => some (rowVcmpeq, o)
  | .vcmpne o => some (rowVcmpne, o)
  | .vcmplt o => some (rowVcmplt, o)
  | .vcmple o => some (rowVcmple, o)
  | .vsel o => some (rowVsel, o)
  | .vredadd o => some (rowVredadd, o)
  | .vredmax o => some (rowVredmax, o)
  | .vredmin o => some (rowVredmin, o)
  | .vredor o => some (rowVredor, o)
  | .vbcast o => some (rowVbcast, o)
  | .vext o => some (rowVext, o)
  | .vins o => some (rowVins, o)
  | .vperm o => some (rowVperm, o)
  | .vslide o => some (rowVslide, o)
  | .vtrn o => some (rowVtrn, o)
  | .vld o => some (rowVld, o)
  | .vst o => some (rowVst, o)
  | .vlds o => some (rowVlds, o)
  | .vsts o => some (rowVsts, o)
  | .vgath o => some (rowVgath, o)
  | .vscat o => some (rowVscat, o)
  | .vaor o => some (rowVaor, o)
  | .vaadd o => some (rowVaadd, o)
  | .vcvt o => some (rowVcvt, o)
  | .vq o => some (rowVq, o)
  | .vdq o => some (rowVdq, o)
  | .vmulhn o => some (rowVmulhn, o)
  | .vsets o => some (rowVsets, o)
  | .vpopc o => some (rowVpopc, o)
  | .vexp2 o => some (rowVexp2, o)
  | .mmaBf16 o => some (rowMmaBf16, o)
  | .mmaF16 o => some (rowMmaF16, o)
  | .mmaF32 o => some (rowMmaF32, o)
  | .mmaE4m3 o => some (rowMmaE4m3, o)
  | .mmaE5m2 o => some (rowMmaE5m2, o)
  | .mmaE4m3e5m2 o => some (rowMmaE4m3e5m2, o)
  | .mmaI8 o => some (rowMmaI8, o)
  | .mmaI8n8 o => some (rowMmaI8n8, o)
  | .mmaE2m3 o => some (rowMmaE2m3, o)
  | .mmaE3m2 o => some (rowMmaE3m2, o)
  | .mmaQ4 o => some (rowMmaQ4, o)
  | .mmaQ4e4m3 o => some (rowMmaQ4e4m3, o)
  | .mmaBf16q4 o => some (rowMmaBf16q4, o)
  | .mmaI4 o => some (rowMmaI4, o)
  | .mmaI3i8 o => some (rowMmaI3i8, o)
  | .smmaBf16 o => some (rowSmmaBf16, o)
  | .smmaE4m3 o => some (rowSmmaE4m3, o)
  | .smmaQ4 o => some (rowSmmaQ4, o)
  | .mshape o => some (rowMshape, o)
  | .mmapAllocate o => some (rowMmapAllocate, o)
  | .mmapFree o => some (rowMmapFree, o)
  | .mzero o => some (rowMzero, o)
  | .snew o => some (rowSnew, o)
  | .sfork o => some (rowSfork, o)
  | .sprune o => some (rowSprune, o)
  | .sjgrp o => some (rowSjgrp, o)
  | .sjoin o => some (rowSjoin, o)
  | .sstep o => some (rowSstep, o)
  | .saqp o => some (rowSaqp, o)
  | .saqw o => some (rowSaqw, o)
  | .shz o => some (rowShz, o)
  | .shzd o => some (rowShzd, o)
  | .smig o => some (rowSmig, o)
  | .smapFresh o => some (rowSmapFresh, o)
  | .smapShare o => some (rowSmapShare, o)
  | .smapUnmap o => some (rowSmapUnmap, o)
  | .smapFrame o => some (rowSmapFrame, o)
  | .send o => some (rowSend, o)
  | .epopl o => some (rowEpopl, o)
  | .epost o => some (rowEpost, o)
  | .epostv o => some (rowEpostv, o)
  | .erun o => some (rowErun, o)
  | .etick o => some (rowEtick, o)
  | .edrain o => some (rowEdrain, o)
  | .aload o => some (rowAload, o)
  | .ago o => some (rowAgo, o)
  | .astat o => some (rowAstat, o)
  | .astop o => some (rowAstop, o)
  | .tlbinvGpage o => some (rowTlbinvGpage, o)
  | .tlbinvGall => some (rowTlbinvGall, {})
  | .tlbinvSid o => some (rowTlbinvSid, o)
  | .tlbinvSall => some (rowTlbinvSall, {})
  | .tlbinvIdent o => some (rowTlbinvIdent, o)
  | .tlbinvIall => some (rowTlbinvIall, {})
  | .tlbinvAll => some (rowTlbinvAll, {})
  | .idset o => some (rowIdset, o)
  | .ctxsave o => some (rowCtxsave, o)
  | .ctxloadRelease o => some (rowCtxloadRelease, o)
  | .ctxloadKill o => some (rowCtxloadKill, o)
  | .pcnt o => some (rowPcnt, o)
  | .sleep o => some (rowSleep, o)
  | .pgmov o => some (rowPgmov, o)
  | .cldrainDrain o => some (rowCldrainDrain, o)
  | .cldrainResume o => some (rowCldrainResume, o)
  | .cldrainWipe o => some (rowCldrainWipe, o)
  | .elogr o => some (rowElogr, o)
  | .msink _ => none
  | .mpage _ => none
  | .mqk => none
  | .mmask => none
  | .mmax => none
  | .mexp => none
  | .msum => none
  | .mscl => none
  | .mpv => none
  | .mchk => none
  | .mloop _ => none
  | .mbr _ => none
  | .mnorm => none
  | .mout => none
  | .mwait _ => none
  | .mset _ => none
  | .madd _ => none
  | .mend => none
  | .doorbell => none
  | .chainEnable => none
  | .chainStop => none
  | .registerWrite => none
  | .pkgmodeFullWrite => none
  | .fullServiceReady => none
  | .stackRetire => none
  | .stackRetireDone => none
  | .commandNop => none
  | .commandLaunch => none
  | .commandWait => none
  | .waitRelease => none
  | .dispatcherTakeLaunch => none
  | .taskCreate => none
  | .yardGive => none
  | .resumeCounterDrain => none
  | .preempt => none
  | .priorityAge => none
  | .workRequest => none
  | .cellarRefill => none
  | .plumbTokenSend => none
  | .plumbTokenForward => none
  | .remoteStoreAck => none
  | .watchdog => none
  | .kwaitComplete => none
  | .waitiTimeout => none
  | .sleepEnd => none
  | .yieldEligible => none
  | .tableWalkEnd => none
  | .l2Fill => none
  | .cowWalk => none
  | .herdCloseTimeout => none
  | .joinResolve => none
  | .streamOpResolve => none
  | .copyStart => none
  | .copyResolve => none
  | .mcastResolve => none
  | .tilePlace => none
  | .tileTaskDispatch => none
  | .rowSegmentWrite => none
  | .tileTaskEnd => none
  | .pinResolve => none
  | .pgmovLineMove => none
  | .pgmovResolve => none
  | .masonJobStart => none
  | .eventIntegrate => none
  | .eventCellarRefill => none
  | .tickEnd => none
  | .eventOpResolve => none
  | .domainStall => none
  | .cldrainComplete => none
  | .carveoutSample => none
  | .carveoutLimitMove => none
  | .l2WayMoveEnd => none
  | .routeWindowEnd => none
  | .rdline => none
  | .wrline => none
  | .merge => none
  | .atom => none
  | .hotinc => none
  | .mvline => none
  | .data => none
  | .ack => none
  | .sopen => none
  | .sacc => none
  | .sref => none
  | .snode => none
  | .sline => none
  | .sdone => none
  | .sdrop => none
  | .flitReplay => none
  | .flitAck => none
  | .linkRetrainEnd => none
  | .ownerLostTimeout => none
  | .packageLeave => none
  | .smigSourceTimeout => none
  | .smigDestTimeout => none
  | .powerOnReset => none
  | .serviceFirmwareImage => none
  | .clusterSelfTestEnd => none
  | .memoryCoreFirmwareImage => none
  | .stackTrainEnd => none
  | .linkTrainEnd => none
  | .calibrationEnd => none
  | .wipeEnd => none
  | .lifecycleChange => none
  | .mcFirmwareUpdate => none
  | .mcFirmwareStart => none
  | .throttle => none
  | .throttleEnd => none
  | .thermalShutdown => none
  | .scrub => none
  | .clusterLeave => none
  | .memoryCoreFail => none
  | .joinUnitFail => none
  | .illegalInstruction => none
  | .hostPortWrite => none
  | .porvaPortLoss => none
  | .powerOff => none
  | .minverRaise => none
  | .copyUnitWrite => none
  | .multicastDelivery => none
  | .pinLine => none

/-- The base-immediate width of a row (R154). -/
def Row.immBase (r : Row) : Nat :=
  (if r.lo = .imm then 4 else 0) + (if r.mid = .imm then 4 else 0) + (if r.hi = .imm then 4 else 0)

/-- Is the slot kind present in the base word? -/
def Row.has (r : Row) (k : Slot) : Bool := r.hi == k || r.mid == k || r.lo == k

/-! ## The prefix chain -/

/-- The prefix words read so far, by sub-kind (R156). -/
structure Chain where
  n : Nat := 0
  pxr : Option (BitVec 9) := none
  pxc : Option (BitVec 9) := none
  po : Option (BitVec 10) := none
  pvm : Option (BitVec 9) := none
  pve : Option (BitVec 9) := none
  /-- the PI chunks, first in the chain first -/
  pi : List (BitVec 10) := []
  /-- a second word of one sub-kind was met (R163) -/
  dup : Bool := false
  deriving DecidableEq, Repr, Inhabited

/-- A prefix word has bits [15:12] = 0xF. -/
def isPrefixWord (w : IWord) : Bool := w.extractLsb' 12 4 == 15#4

/-- Record one prefix word (R156). -/
def Chain.add (c : Chain) (w : IWord) : Chain :=
  let c := { c with n := c.n + 1 }
  let p9 := w.extractLsb' 0 9
  let sub := w.getLsbD 9
  if w.extractLsb' 10 2 = 0#2 then
    if sub then { c with pxc := some p9, dup := c.dup || c.pxc.isSome }
    else { c with pxr := some p9, dup := c.dup || c.pxr.isSome }
  else if w.extractLsb' 10 2 = 1#2 then { c with pi := c.pi ++ [w.extractLsb' 0 10] }
  else if w.extractLsb' 10 2 = 2#2 then { c with po := some (w.extractLsb' 0 10), dup := c.dup || c.po.isSome }
  else if sub then { c with pve := some p9, dup := c.dup || c.pve.isSome }
  else { c with pvm := some p9, dup := c.dup || c.pvm.isSome }

/-- Outcome of reading a chain of words. -/
inductive Parsed where
  | chain (c : Chain) (base : IWord)
  /-- a fifth prefix word (R163) -/
  | fifth (w : IWord) (c : Chain)
  /-- the words ended before the base word -/
  | short
  deriving DecidableEq, Repr, Inhabited

/-- Read prefix words up to the base word (R163). -/
def parseWords : List IWord → Chain → Parsed
  | [], _ => .short
  | w :: ws, c =>
    if isPrefixWord w then
      if c.n = 4 then .fifth w c else parseWords ws (c.add w)
    else .chain c w

/-- What the illegal-instruction trap reports of an encoding (R392, R403). -/
structure Illegal where
  detail : Nat
  base : IWord
  npre : Nat
  page : Nat
  deriving DecidableEq, Repr, Inhabited

/-- Outcome of decoding. -/
inductive Decoded where
  /-- an instruction and its length in words -/
  | ok (i : Instr) (len : Nat)
  /-- a reserved encoding (R403) -/
  | illegal (x : Illegal)
  /-- fewer words than the instruction has -/
  | short

/-! ## Fields -/

/-- The high bits PX.r gives a position of the base word: 7 for [11:8], 5 for [7:4], 3 for [3:0] (R155, R157). -/
def Chain.hiBits (c : Chain) (pos : Nat) : BitVec 2 :=
  match c.pxr with
  | none => 0
  | some p => p.extractLsb' pos 2

/-- The register operand k: the slot that holds it, with its high bits; 0 where no slot holds it. -/
def Row.reg (r : Row) (k : Slot) (c : Chain) (w : IWord) : BitVec 6 :=
  if r.hi = k then c.hiBits 7 ++ w.extractLsb' 8 4
  else if r.mid = k then c.hiBits 5 ++ w.extractLsb' 4 4
  else if r.lo = k then c.hiBits 3 ++ w.extractLsb' 0 4
  else 0

/-- The f4 field, wherever the row has it. -/
def Row.fval (r : Row) (w : IWord) : BitVec 4 :=
  if r.lo = .f4 then w.extractLsb' 0 4
  else if r.mid = .f4 then w.extractLsb' 4 4
  else 0

/-- The PI chunks as one number, first most significant (R159). -/
def piValue : List (BitVec 10) → Nat → Nat
  | [], acc => acc
  | p :: ps, acc => piValue ps (acc * 1024 + p.toNat)

/-- The immediate of R159. -/
def Row.immVal (r : Row) (c : Chain) (w : IWord) : BitVec 64 :=
  match r.imm with
  | .none => 0
  | .atomic => 0
  | k =>
    let kb := r.immBase
    if kb = 0 && c.pi.isEmpty then r.dflt
    else
      let v := piValue c.pi 0 * 2 ^ kb + (w.extractLsb' 0 12).toNat % 2 ^ kb
      let n := 10 * c.pi.length + kb
      if k = .signed then BitVec.ofInt 64 (sextN v n) else BitVec.ofNat 64 v

/-- The page that the chain names (R160). -/
def Chain.page (c : Chain) : Nat :=
  match c.po with
  | none => 0
  | some p => p.toNat

/-- The operands of a chain under a row. -/
def Row.operands (r : Row) (c : Chain) (w : IWord) : Ops :=
  let d := r.reg .d c w
  let pxr := c.pxr.getD 0
  let pxc := c.pxc.getD 0
  let m := c.pvm.getD 0
  let v := c.pve.getD 0
  let pi7 := c.pi.headD 0
  { d := d
    a := r.reg .a c w
    b := r.reg .b c w
    c := pxc.extractLsb' 3 6
    ta := pxr.getLsbD 2
    tb := pxr.getLsbD 1
    tc := pxc.getLsbD 2
    imm := r.immVal c w
    f := r.fval w
    cls := if r.imm = .atomic then (if c.pi.isEmpty then r.dcls else pi7.extractLsb' 0 4) else 0
    scope := if r.imm = .atomic then (if c.pi.isEmpty then 5 else pi7.extractLsb' 4 4) else 0
    mask := m.extractLsb' 3 6
    zm := m.getLsbD 2
    rnd := m.extractLsb' 0 2
    e := if r.pv = .addend && c.pve.isNone then d.extractLsb' 0 5 else v.extractLsb' 4 5
    fzi := v.getLsbD 3
    fzo := v.getLsbD 2
    sat := v.getLsbD 1 }

/-- A register field names an existing register, and its pair exists (R155, R157). -/
def regOk (vec pair : Bool) (x : BitVec 6) : Bool :=
  if vec then decide (x.toNat < 32) && !(pair && x == 31) else !(pair && x == 63)

/-- The reserved operand values of an entry that do not depend on how the words spell them: registers, trap bits on
fields that are no sources, PV controls, and the entry's own list. -/
def Row.opsOk (r : Row) (o : Ops) : Bool :=
  regOk r.vd r.pd o.d && regOk r.va r.pa o.a && regOk r.vb r.pb o.b && regOk false r.pc o.c
  && (r.has .d || o.d == 0) && (r.has .a || o.a == 0) && (r.has .b || o.b == 0) && (r.has .f4 || o.f == 0)
  && (r.useC || o.c == 0)
  && (r.sa || !o.ta) && (r.sb || !o.tb) && (r.sc || !o.tc)
  && (o.mask != 0 || !o.zm)
  && (match r.pv with
      | .none => o.mask == 0 && o.rnd == 0 && o.e == 0 && !o.fzi && !o.fzo && !o.sat
      | .vector => o.e == 0
      | .addend => true
      | .unmasked => o.mask == 0 && o.e == 0)
  && (r.imm == .atomic || (o.cls == 0 && o.scope == 0))
  && (match r.imm with
      | .none => o.imm == 0
      | .atomic => o.imm == 0
      | .baseOnly => decide (o.imm.toNat < 2 ^ r.immBase)
      | _ => true)
  && r.ok o

/-- The reserved bits of the words themselves: unused nibbles and hi fields, zero bits of prefix words, PX.c, PI and PV
words on an entry that takes none (R155 to R163). -/
def Row.wordsOk (r : Row) (c : Chain) (w : IWord) : Bool :=
  let isReg (k : Slot) : Bool := k == .d || k == .a || k == .b
  (isReg r.hi || c.hiBits 7 == 0) && (isReg r.mid || c.hiBits 5 == 0) && (isReg r.lo || c.hiBits 3 == 0)
  && (r.hi != .zero || w.extractLsb' 8 4 == 0#4) && (r.mid != .zero || w.extractLsb' 4 4 == 0#4)
  && (r.lo != .zero || w.extractLsb' 0 4 == 0#4)
  && !(c.pxr.getD 0).getLsbD 0
  && (r.useC || c.pxc.isNone) && (c.pxc.getD 0).extractLsb' 0 2 == 0#2
  && (match r.imm with
      | .none | .baseOnly => c.pi.isEmpty
      | .atomic => (c.pi.headD 0).extractLsb' 8 2 == 0#2
      | _ => true)
  && (r.pv != .none || (c.pvm.isNone && c.pve.isNone))
  && !(c.pve.getD 0).getLsbD 0

/-- The chain rules of R163 and R160 that make detail 2. -/
def Chain.legal (c : Chain) : Bool :=
  !c.dup
  && (match c.po with
      | none => true
      | some p => decide (1 ≤ p.toNat) && decide (p.toNat ≤ 17))
  && !(c.page == 7 && decide (2 ≤ c.pi.length))
  && ((c.pvm.isNone && c.pve.isNone) || (decide (9 ≤ c.page) && decide (c.page ≤ 13)))

/-- Does the row match the page, the major opcode and, for UN, FENCE and TLBINV, the operation? -/
def Row.fits (r : Row) (major lo : Nat) : Bool :=
  r.major == major && (match r.sub with
    | none => true
    | some s => s == lo)

/-- Decode a parsed chain: detail 2, then 1, then 3 (log 14). -/
def decodeChain (c : Chain) (w : IWord) : Decoded :=
  let ill (n : Nat) : Decoded := .illegal { detail := n, base := w, npre := c.n, page := c.page }
  let major := (w.extractLsb' 12 4).toNat
  if !c.legal then ill 2
  else
    match (pageRows c.page).find? (fun r => r.fits major (w.extractLsb' 0 4).toNat) with
    | none => if (pageRows c.page).any (fun r => r.major == major) then ill 3 else ill 1
    | some r =>
      let o := r.operands c w
      if r.wordsOk c w && r.opsOk o then .ok (r.make o) (c.n + 1) else ill 3

/-- The decoder: the words from an instruction's first word on. -/
def decode (ws : List IWord) : Decoded :=
  match parseWords ws {} with
  | .short => .short
  | .fifth w c => .illegal { detail := 2, base := w, npre := 4, page := c.page }
  | .chain c w => decodeChain c w

/-- Length in words of the instruction that starts the list, as the decode of R163 counts it; a fifth prefix word counts
as the last (R403). -/
def instrWords (ws : List IWord) : Option Nat :=
  match parseWords ws {} with
  | .short => none
  | .fifth _ _ => some 5
  | .chain c _ => some (c.n + 1)

/-! ## The encoder -/

/-- Does the immediate fit n PI words and the row's base immediate? -/
def Row.immFits (r : Row) (o : Ops) (n : Nat) : Bool :=
  let k := 10 * n + r.immBase
  match r.imm with
  | .signed => if k = 0 then o.imm == 0 else BitVec.ofInt 64 (sextN o.imm.toNat k) == o.imm
  | _ => decide (o.imm.toNat < 2 ^ k)

/-- The number of PI words the encoder uses: the fewest that hold the immediate (R176); 5 where four do not. -/
def Row.piCount (r : Row) (o : Ops) : Nat :=
  match r.imm with
  | .none => 0
  | .baseOnly => 0
  | .atomic => if o.cls == r.dcls && o.scope == 5 then 0 else 1
  | _ =>
    if r.immBase = 0 && o.imm == r.dflt then 0
    else if r.immFits o 0 && r.immBase != 0 then 0
    else if r.immFits o 1 then 1 else if r.immFits o 2 then 2 else if r.immFits o 3 then 3
    else if r.immFits o 4 then 4 else 5

/-- The PI chunks of an immediate above the base bits, first most significant. -/
def piChunks : Nat → Nat → List (BitVec 10)
  | 0, _ => []
  | n + 1, v => BitVec.ofNat 10 (v / 1024 ^ n) :: piChunks n v

/-- The high bits of the register that a slot holds. -/
def slotHi (k : Slot) (o : Ops) : BitVec 2 :=
  match k with
  | .d => o.d.extractLsb' 4 2
  | .a => o.a.extractLsb' 4 2
  | .b => o.b.extractLsb' 4 2
  | _ => 0

/-- The nibble that a slot holds; the immediate's nibble starts at bit pos. -/
def slotNibble (r : Row) (k : Slot) (pos : Nat) (o : Ops) : BitVec 4 :=
  match k with
  | .d => o.d.extractLsb' 0 4
  | .a => o.a.extractLsb' 0 4
  | .b => o.b.extractLsb' 0 4
  | .f4 => o.f
  | .imm => o.imm.extractLsb' pos 4
  | .sub => BitVec.ofNat 4 (r.sub.getD 0)
  | .zero => 0

/-- The PX.r payload of the operands. -/
def Row.pxrOf (r : Row) (o : Ops) : BitVec 9 :=
  slotHi r.hi o ++ slotHi r.mid o ++ slotHi r.lo o ++ BitVec.ofBool o.ta ++ BitVec.ofBool o.tb ++ 0#1

/-- The PX.c payload of the operands. -/
def Row.pxcOf (_ : Row) (o : Ops) : BitVec 9 := o.c ++ BitVec.ofBool o.tc ++ 0#2

/-- The PV.m payload of the operands. -/
def pvmOf (o : Ops) : BitVec 9 := o.mask ++ BitVec.ofBool o.zm ++ o.rnd

/-- The PV.e payload of the operands. -/
def pveOf (o : Ops) : BitVec 9 := o.e ++ BitVec.ofBool o.fzi ++ BitVec.ofBool o.fzo ++ BitVec.ofBool o.sat ++ 0#1

/-- Does the encoding need a PV.e word? -/
def Row.needPve (r : Row) (o : Ops) : Bool :=
  (if r.pv = .addend then o.e != o.d.extractLsb' 0 5 else o.e != 0) || o.fzi || o.fzo || o.sat

/-- The PI words of the encoding. -/
def Row.pisOf (r : Row) (o : Ops) : List (BitVec 10) :=
  match r.imm with
  | .atomic => if r.piCount o = 0 then [] else [0#2 ++ o.scope ++ o.cls]
  | _ => piChunks (r.piCount o) (o.imm.toNat / 2 ^ r.immBase)

/-- The base word of the encoding. -/
def Row.baseOf (r : Row) (o : Ops) : IWord :=
  BitVec.ofNat 4 r.major ++ slotNibble r r.hi 8 o ++ slotNibble r r.mid 4 o ++ slotNibble r r.lo 0 o

/-- The words of a row with operands, prefix words in the order of R163. -/
def Row.encode (r : Row) (o : Ops) : List IWord :=
  (if r.pxrOf o = 0 then [] else [15#4 ++ 0#3 ++ r.pxrOf o])
  ++ (if r.pxcOf o = 0 then [] else [15#4 ++ 1#3 ++ r.pxcOf o])
  ++ (r.pisOf o).map (fun p => 15#4 ++ 1#2 ++ p)
  ++ (if r.page = 0 then [] else [15#4 ++ 2#2 ++ BitVec.ofNat 10 r.page])
  ++ (if pvmOf o = 0 then [] else [15#4 ++ 6#3 ++ pvmOf o])
  ++ (if r.needPve o then [15#4 ++ 7#3 ++ pveOf o] else [])
  ++ [r.baseOf o]

/-- The words of an instruction; none for a micro-instruction or an event, which have no words. -/
def encode (i : Instr) : Option (List IWord) :=
  match rowOf? i with
  | none => none
  | some (r, o) => some (r.encode o)

/-- The operands hold only what the encoding of the row admits, within four prefix words. -/
def Row.opsWf (r : Row) (o : Ops) : Bool :=
  r.opsOk o && decide (r.piCount o ≤ 4) && decide ((r.encode o).length ≤ 5)

/-- The number of 16-bit words a table word of nbits holds. -/
def tableWords : Nat → Nat → List IWord
  | 0, _ => []
  | n + 1, w => BitVec.ofNat 16 w :: tableWords n (w / 2 ^ 16)

/-- The words of an opcode-table number in the order the hardware stores them: the table writes the PO word of a paged
row in the high half; a number whose low half is a prefix word is taken low half first (log 11). -/
def tableOrder (nbits w : Nat) : List IWord :=
  let ws := tableWords (nbits / 16) w
  match ws with
  | [x, y] => if isPrefixWord x then [x, y] else [y, x]
  | _ => ws

/-! ## Micro-instructions of the mason (R342, R346 to R348) -/

/-- The fields of a control-store word. -/
def microOf (w : Word) : Micro :=
  { x := w.extractLsb' 54 4, y := w.extractLsb' 50 4, z := w.extractLsb' 46 4, imm := w.extractLsb' 0 32 }

/-- The micro-instruction of a control-store word; none for a reserved word. A field that the entry does not use is
reserved when it is nonzero. -/
def decodeMicro (w : Word) : Option Instr :=
  let m := microOf w
  let only (x y z i : Bool) : Bool :=
    w.extractLsb' 32 14 == 0#14 && (x || m.x == 0) && (y || m.y == 0) && (z || m.z == 0) && (i || m.imm == 0)
  let plain (i : Instr) : Option Instr := if only false false false false then some i else none
  match (w.extractLsb' 58 6).toNat with
  | 0x01 => if only true false false false then some (.msink m) else none
  | 0x02 => if only true false false false then some (.mpage m) else none
  | 0x03 => plain .mqk
  | 0x04 => plain .mmask
  | 0x05 => plain .mmax
  | 0x06 => plain .mexp
  | 0x07 => plain .msum
  | 0x08 => plain .mscl
  | 0x09 => plain .mpv
  | 0x0A => plain .mchk
  | 0x0B => if only true false false true then some (.mloop m) else none
  | 0x0C => if only true true false true && decide (m.y.toNat < 4) then some (.mbr m) else none
  | 0x0D => plain .mnorm
  | 0x0E => plain .mout
  | 0x0F => if only false (m.imm == 1) false true && decide (m.imm.toNat < 2) then some (.mwait m) else none
  | 0x10 => if only true false true true && (m.z == 0 || (m.z == 1 && decide (m.imm.toNat < 8))) then some (.mset m)
            else none
  | 0x11 => if only true true true true then some (.madd m) else none
  | 0x12 => plain .mend
  | _ => none

/-- The control-store word of an operation and its fields (R342). -/
def microWord (op : Nat) (m : Micro) : Word :=
  BitVec.ofNat 6 op ++ m.x ++ m.y ++ m.z ++ 0#14 ++ m.imm

/-- The control-store word of a micro-instruction; none for any other instruction. -/
def encodeMicro : Instr → Option Word
  | .msink m => some (microWord 0x01 m)
  | .mpage m => some (microWord 0x02 m)
  | .mqk => some (microWord 0x03 {})
  | .mmask => some (microWord 0x04 {})
  | .mmax => some (microWord 0x05 {})
  | .mexp => some (microWord 0x06 {})
  | .msum => some (microWord 0x07 {})
  | .mscl => some (microWord 0x08 {})
  | .mpv => some (microWord 0x09 {})
  | .mchk => some (microWord 0x0A {})
  | .mloop m => some (microWord 0x0B m)
  | .mbr m => some (microWord 0x0C m)
  | .mnorm => some (microWord 0x0D {})
  | .mout => some (microWord 0x0E {})
  | .mwait m => some (microWord 0x0F m)
  | .mset m => some (microWord 0x10 m)
  | .madd m => some (microWord 0x11 m)
  | .mend => some (microWord 0x12 {})
  | _ => none

/-- The fields of a micro-instruction hold only what its word admits. -/
def microWf : Instr → Bool
  | .msink m => m.y == 0 && m.z == 0 && m.imm == 0
  | .mpage m => m.y == 0 && m.z == 0 && m.imm == 0
  | .mloop m => m.y == 0 && m.z == 0
  | .mbr m => m.z == 0 && decide (m.y.toNat < 4)
  | .mwait m => m.x == 0 && m.z == 0 && (m.imm == 1 || (m.imm == 0 && m.y == 0))
  | .mset m => m.y == 0 && (m.z == 0 || (m.z == 1 && decide (m.imm.toNat < 8)))
  | _ => true

/-- The instruction that the decoder reads from a table word: of 64 bits, a word of a mason's control store. -/
def decodeTableWord (nbits w : Nat) : Option Instr :=
  if nbits = 64 then decodeMicro (wordOfNat w)
  else match decode (tableOrder nbits w) with
    | .ok i _ => some i
    | _ => none

end Sys2Proof
end

