-- ==== Sys2Proof/Config.lean ====
section
/-!
DEFINITION. The constants of the package (R12, R65, R70, R227) and the free values: constants without a body, of which
nothing can be proved (R9, log 2, log 3, log 10).
-/

namespace Sys2Proof

/-- Whose turn the next step is. -/
inductive Turn where
  /-- the context with this ctxid issues its next instruction -/
  | issue (cx : Nat)
  /-- the mason of this cluster runs its next micro-instruction -/
  | mason (cl : Nat)
  /-- an event row of the opcode table, with its operands -/
  | event (i : Instr) (x : EvArg)
  deriving DecidableEq, Repr, Inhabited

/-- Which agent acts next: the manual fixes no order among concurrent agents (log 2). -/
opaque Config.nextTurn : Nat → Turn

/-- Cycles that pass in a step: the manual fixes none for the model's steps (log 3). -/
opaque Config.elapsed : Nat → Nat

/-- Which entry a full TLB replaces: pseudo-LRU, whose state the manual does not give (log 10). -/
opaque Config.tlbVictim : Nat → Nat

/-- Which entry of a full set of a cache leaves: the replacement state is not given (log 9, log 10). -/
opaque Config.victim : Nat → Nat

/-- The set of a tag-check cache that holds an identity, clearance base and tag: the manual gives none (log 10). -/
opaque Config.tagSet : Nat → Nat → Nat → Nat

/-- The set of a slice that holds a line in full service, mod 12,288: the manual gives none (log 9). -/
opaque Config.l2Set : Nat → Nat

/-- The set of a home directory that holds the entry of a line, mod 8,192: the manual gives none (log 9). -/
opaque Config.homeSet : Nat → Nat

/-- Entries of the fill queue of a die: the manual gives none (R211, log 103). -/
opaque Config.fillQueue : Nat

/-- The slice whose frames take a state page, mod 16: the manual gives none (log 9). -/
opaque Config.frameSlice : Nat → Nat

/-- FREE VALUE (log 32). Word k of the 1,024 bits that a spilled task takes in the yard cellar ring: R371 gives the size of the
record and no layout. -/
opaque Config.cellarWord : Nat → Nat → BitVec 64

/-- FREE VALUE (log 110). What the sensors of power and of temperature show in a cycle (R388). -/
opaque Config.sensor : Nat → Nat

/-- The choice of a random intermediate (R122): the manual draws it at random (log 15). -/
opaque Config.draw : Nat → Nat

/-- Which of two rows of one instruction stands where a map lays them on the same bits (R256; log 16). -/
opaque Config.overlapWins : Nat → Bool

/-- Widths of the width classes 0 to 14 in bits (R70); class 15 is reserved. -/
def classWidth : Nat → Nat
  | 0 => 1 | 1 => 2 | 2 => 3 | 3 => 4 | 4 => 6 | 5 => 8 | 6 => 12 | 7 => 16 | 8 => 24 | 9 => 32 | 10 => 48 | 11 => 64
  | 12 => 128 | 13 => 1024 | 14 => 524288 | _ => 0

/-- Width of an element type code of vshape (R227); 0 for a reserved code. -/
def typeWidth : Nat → Nat
  | 0 => 32 | 1 => 16 | 2 => 16 | 3 => 8 | 4 => 8 | 5 => 6 | 6 => 6 | 7 => 4 | 8 => 8 | 9 => 16 | 10 => 32 | 11 => 64
  | 12 => 8 | 13 => 16 | 14 => 32 | 15 => 64 | 16 => 3 | 17 => 6 | 18 => 4 | _ => 0

/-- Elements of a type in one 64-bit lane (R227). -/
def typeLane (t : Nat) : Nat := if typeWidth t = 0 then 0 else 64 / typeWidth t

/-- Byte keys of the memory list. Physical byte a stands at a; window bytes of core q at 2^40 + q × 2^20, the W window
first, then A, then C (R65); the full/empty bits of core q, eight to a byte, at 2^40 + 2^31 + q × 2^13 (R75). -/
def windowBase : Nat := 2 ^ 40
def feBase : Nat := 2 ^ 40 + 2 ^ 31

/-- What an unlisted byte reads as: the wipes leave every granule full (R75, R381) and the rest zero (log 5). -/
def unlistedByte (a : Nat) : Byte := if feBase ≤ a then 0xFF else 0

end Sys2Proof
end

