-- ==== Sys2Proof/Machine/State.lean ====
section
/-!
DEFINITION. The state of one package (R12 and the chapters named at each field), as plain data, and the state after
reset (R7, R381).
-/

namespace Sys2Proof.Machine

/-- A sparse map: keys strictly rising. -/
abbrev Assoc (α : Type) := List (Nat × α)

/-! ## Contexts and tasks -/

/-- A scalar register (R36, R168, R391): an empty one holds its handle in `val`. -/
structure SReg where
  val : Word := 0
  full : Bool := true
  fail : Bool := false
  deriving DecidableEq, Repr, Inhabited

/-- The CSRs that a context holds (R36, R169); `cycle` and `ctxid` are derived. -/
structure Csrs where
  vshape : Word := 0
  mshape : Word := 0
  fcsr : Word := 0
  lcnt : Word := 0
  lbeg : Word := 0
  lend : Word := 0
  wid : Word := 0
  wfmt : Word := 0
  twt : Word := 0
  kst : Word := 0
  sid : Word := 0
  ident : BitVec 24 := 0
  /-- prio [1:0] and [3:2] (R58) -/
  base : BitVec 2 := 0
  eff : BitVec 2 := 0
  trapcause : Word := 0
  trappc : Word := 0
  trapval : Word := 0
  trapctl : Word := 0
  deriving DecidableEq, Repr, Inhabited

/-- The region record (R36, R53). -/
structure Region where
  entry : Word := 0
  smask : Word := 0xFFFFFFFFFFFFFFFF
  vmask : BitVec 32 := 0xFFFFFFFF
  lcnt : Word := 0
  lbeg : Word := 0
  lend : Word := 0
  fcsr : Word := 0
  deriving DecidableEq, Repr, Inhabited

/-- The range record of a range task (R36, R42, R43). -/
structure RangeRec where
  cur : Word := 0
  hi : Word := 0
  arg : Word := 0
  s61 : Word := 0
  wid : Word := 0
  vshape : Word := 0
  entry : Word := 0
  deriving DecidableEq, Repr, Inhabited

/-- What a context waits on (R58, R170, R402). The first six kinds are counted by the watchdog. -/
inductive WaitKind where
  | source | granule | barv | kwait | fwait | kset
  /-- queue space, range locks, remote stores, a packet, a walker: not counted (R402) -/
  | other
  deriving DecidableEq, Repr, Inhabited

/-- A wait in progress. -/
structure WaitRec where
  kind : WaitKind := .other
  /-- address of the waiting instruction, and its length in words -/
  pc : Word := 0
  len : Nat := 1
  /-- the handle, bit address or keystone waited on -/
  what : Word := 0
  /-- cycle at which the wait, or its present part, began -/
  since : Nat := 0
  /-- cycles counted before a pre-emption (R402) -/
  base : Nat := 0
  /-- order in which waits began (R77) -/
  ord : Nat := 0
  deriving DecidableEq, Repr, Inhabited

/-- A context stopped by WAITI or SLEEP (R193, R408). -/
inductive Pause where
  | none
  /-- until a notification, or the cycle if one is given -/
  | waiti (till : Option Nat)
  | sleep (till : Nat)
  deriving DecidableEq, Repr, Inhabited

/-- A context that holds a task (R36). -/
structure Ctx where
  /-- yard record number of its task (R364) and the model's name of the task -/
  yr : Nat := 0
  uid : Nat := 0
  pc : Word := 0
  sregs : Vector SReg 64 := Vector.replicate 64 {}
  vregs : Vector (BitVec 4096) 32 := Vector.replicate 32 0
  vfull : BitVec 32 := 0xFFFFFFFF
  csrs : Csrs := {}
  region : Region := {}
  range : Option RangeRec := none
  /-- the remote-store counter (R117) -/
  rcount : Nat := 0
  /-- physical byte address of the clearance bitmap (R101) -/
  cbase : Option Nat := none
  wait : Option WaitRec := none
  /-- watchdog count carried over a pre-emption, and the instruction it belongs to (R402) -/
  carry : Option (Nat × Word) := none
  pause : Pause := .none
  /-- destination register of a waiting KWAIT (R202) -/
  kdst : BitVec 6 := 0
  /-- a resumed task waits for its saved counter (R281) -/
  drain : Bool := false
  /-- cycle since which the context has waited to issue (R58), and since which it holds its task (R367) -/
  since : Nat := 0
  taken : Nat := 0
  /-- is it ready (R58), and the cycle at which that last changed -/
  ready : Bool := true
  turned : Nat := 0
  deriving DecidableEq, Repr, Inhabited

/-- How a task came into being (R35); a tile-task holds a record too (R364). -/
inductive TaskKind where
  | launched | spawned | range | herd | tile | firmware
  deriving DecidableEq, Repr, Inhabited

/-- Where the task of a yard record is (R364). -/
inductive Place where
  /-- created, with its starting state (R42) -/
  | fresh (c : Ctx)
  | running (cx : Nat)
  /-- in the save area of its record (R370) -/
  | suspended
  /-- a memory-core task, whose saved state stands in the firmware yard (log 17) -/
  | kept (c : Ctx)
  /-- a tile-task (R260) -/
  | tile
  deriving DecidableEq, Repr, Inhabited

/-- A task-yard record (R364). -/
structure YRec where
  uid : Nat := 0
  kind : TaskKind := .spawned
  base : BitVec 2 := 0
  place : Place := .suspended
  /-- wait age, and the cycle since which it counts while the task waits in the yard (R366) -/
  age : Nat := 0
  since : Nat := 0
  /-- held by supervisor action (R397) -/
  held : Bool := false
  /-- first cycle at which it may take a context (R200) -/
  elig : Nat := 0
  /-- inherited stack size in 4 KiB (R42) -/
  stack : Nat := 0
  launch : Option Nat := none
  /-- BARV: per scope, the last instance joined and its scope instance (R51) -/
  joins : Assoc (Nat × Nat) := []
  /-- keystones made by this task's KSET and not yet waited, newest first (R46) -/
  ksets : List Nat := []
  /-- the context whose SPAWN or RANGE made it, for the cellar charge (R372) -/
  maker : Nat := 0
  /-- a herd task's slot (R306) -/
  slot : Option Nat := none
  /-- killed, and waiting for its remote stores (R395) -/
  dying : Bool := false
  /-- the bounded queue at which it waited at issue when it was suspended (R373); 0 for none -/
  waitq : Nat := 0
  deriving DecidableEq, Repr, Inhabited

/-- A keystone (R46). -/
structure Keystone where
  issued : Word := 0
  returned : Word := 0
  pkst : Word := 0
  pwt : Word := 0
  /-- the task whose KSET made it; none for a launch -/
  owner : Option Nat := none
  /-- its KSET task has ended: hardware frees it at completion (R46) -/
  orphan : Bool := false
  /-- the launch it belongs to (R47) -/
  launch : Option Nat := none
  deriving DecidableEq, Repr, Inhabited

/-- One BARV instance: of a launch at sc.cluster and wider, of a scope instance below that (R51). -/
structure Barrier where
  /-- the launch, at sc.cluster and wider; scope level, scope-instance number, instance number -/
  launch : Option Nat := none
  scope : Nat := 0
  inst : Nat := 0
  num : Nat := 1
  /-- tasks that have joined, and the OR of their votes -/
  joined : List Nat := []
  vote : Word := 0
  /-- complete; the tasks that have not yet read the result -/
  result : Option Word := none
  deriving DecidableEq, Repr, Inhabited

/-- A launch from its dispatch to its completion (R39, R41, R47, R51). -/
structure Launch where
  chain : Nat := 0
  /-- the name of its record in the chain (R362) -/
  recNo : Nat := 0
  hdr : Nat := 0
  cl : Nat := 0
  /-- header words 0 to 7, once the dispatcher has read them (R39) -/
  words : List Word := []
  /-- effective extents e0 to e5 (R41) -/
  ext : List Nat := []
  kst : Option Nat := none
  /-- coordinates of the next task, innermost first; none when all are created -/
  next : Option (List Nat) := none
  total : Nat := 0
  created : Nat := 0
  exited : Nat := 0
  /-- the indirect counts, once they are read (R41) -/
  counts : Option Nat := none
  done : Bool := false
  deriving DecidableEq, Repr, Inhabited

/-! ## Command chains -/

/-- A command chain and its registers (R358 to R362). -/
structure CmdChain where
  base : BitVec 28 := 0
  lsz : BitVec 5 := 0
  en : Bool := false
  wb : BitVec 37 := 0
  tail : BitVec 32 := 0
  head : BitVec 32 := 0
  cseq : BitVec 32 := 0
  /-- stopped on an offending record (R360) -/
  stopped : Bool := false
  /-- records read and not yet below the completion point, oldest first: a name, SEQ, complete (R362) -/
  recs : List (Nat × BitVec 32 × Bool) := []
  /-- records read since reset: the name of the next; and that number when EN last rose (R358) -/
  read : Nat := 0
  start : Nat := 0
  /-- the completion point (R362) -/
  point : Nat := 0
  /-- a WAIT record holds the chain (R361) -/
  held : Bool := false
  deriving DecidableEq, Repr, Inhabited

/-! ## Translation, caches, fabric -/

/-- An L1 TLB entry (R93). -/
structure TlbEntry where
  stream : Bool := false
  /-- page number at the page's size; for stream space sid × 2^18 + page -/
  key : Nat := 0
  sid : Nat := 0
  own : Nat := 0
  /-- physical byte address of the page, and its size as a power of two of bytes -/
  frame : Nat := 0
  size : Nat := 16
  tag : Nat := 0
  rd : Bool := false
  wr : Bool := false
  ex : Bool := false
  /-- the D bit recorded at the walk (R415) -/
  dirty : Bool := false
  /-- shared (R92) -/
  s : Bool := false
  deriving DecidableEq, Repr, Inhabited

/-- A tag-check cache entry (R104). -/
structure TagEntry where
  ident : BitVec 24 := 0
  cbase : Nat := 0
  tag : Nat := 0
  allow : Bool := false
  deriving DecidableEq, Repr, Inhabited

/-- A line of a core's L1D (R78, R105). -/
structure L1Line where
  tag : Nat := 0
  /-- its way of its set -/
  way : Nat := 0
  /-- the L1D holds it exclusive, and it has been written (R115) -/
  excl : Bool := false
  dirty : Bool := false
  deriving DecidableEq, Repr, Inhabited

/-- State of a line in an L2 slice toward the rest of the package (R115). -/
inductive LineState where
  | m | e | s | i
  deriving DecidableEq, Repr, Inhabited

/-- A line of an L2 slice (R79, R84, R105, R115). A line that is not listed is in state I; one in state I is listed while a
pin keeps its slot. -/
structure L2Line where
  tag : Nat := 0
  st : LineState := .s
  /-- it lies in the state-page frame that holds its page (R79), else in the cache way given -/
  framed : Bool := false
  way : Nat := 15
  /-- the slice directory: the quads of the die whose L1Ds hold the line, and whether one L1D holds it exclusive -/
  quads : BitVec 64 := 0
  excl : Bool := false
  /-- names of the tasks that pin it (R84) -/
  pins : List Nat := []
  /-- pins of the tile fetch units: handle × 2^16 + 4,096 × operand + band of 128 rows or columns (R262) -/
  fetch : List Nat := []
  deriving DecidableEq, Repr, Inhabited

/-- A home directory entry (R114): the dies that hold the line, and whether one holds it exclusive. -/
structure HomeEntry where
  dies : BitVec 4 := 0
  excl : Bool := false
  deriving DecidableEq, Repr, Inhabited

/-- A fill that an L2 miss has asked for (R113): the memory core that makes it, and where in its stack the line lies. -/
structure Fill where
  die : Nat := 0
  line : Nat := 0
  tag : Nat := 0
  /-- the core whose L1D receives it too -/
  core : Option Nat := none
  mc : Nat := 0
  ofs : Nat := 0
  /-- the line is of a stream-space page (R79) -/
  stream : Bool := false
  deriving DecidableEq, Repr, Inhabited

/-- A remote store that has retired and is not yet acknowledged (R117, R280). -/
structure RStore where
  cx : Nat := 0
  uid : Nat := 0
  /-- the bank, slice or package that performs it: a flow is performed in order (R111) -/
  dst : Nat := 0
  /-- byte key of the granule, the bits it writes, their values -/
  key : Nat := 0
  mask : Word := 0
  val : Word := 0
  /-- full/empty granules that go full with it (R208) -/
  fill : List Nat := []
  addr : Word := 0
  /-- the second word of an STFE that crosses a word, performed in the same step (R208): its key, bits and values -/
  more : Option (Nat × Word × Word) := none
  /-- the scope of an STR (R278) -/
  rel : Option Nat := none
  /-- performed in the L1D of its core (R74) -/
  l1 : Bool := false
  done : Bool := false
  /-- name of the forwarded request, when another package owns the page (R96), and the words that it writes, as issued -/
  req : Option Nat := none
  words : List Nat := []
  sent : Nat := 0
  deriving DecidableEq, Repr, Inhabited

/-- A forwarded request of this package that awaits its answer (R96, R414). -/
structure Fwd where
  id : Nat := 0
  cx : Nat := 0
  uid : Nat := 0
  own : Nat := 0
  /-- physical byte address of the line at the owner -/
  line : Nat := 0
  op : Nat := 0
  /-- what an RDLINE is for, as in its packet, and 3 for an LDFE; the lane of a vector atomic -/
  use : Nat := 0
  lane : Nat := 0
  /-- the request that this one takes back: an LDFE that waits at its owner (R207) -/
  drop : Option Nat := none
  sent : Nat := 0
  /-- the words of the answer -/
  resp : Option (List Word) := none
  /-- ended by loss of the owner: the data is poisoned (R414) -/
  lost : Bool := false
  deriving DecidableEq, Repr, Inhabited

/-- One flow of sequenced packets (R111, R121). -/
structure Flow where
  src : Nat := 0
  dst : Nat := 0
  agent : Nat := 0
  cls : Nat := 0
  next : BitVec 16 := 0
  held : List Packet := []
  deriving DecidableEq, Repr, Inhabited

/-- One link of a fabric with its CRC and replay (R441, R442): a quarter of a torus link, a die-to-die link, or a link of the
die and cluster fabrics. -/
structure Lane where
  /-- flits in the replay buffer, and on a die-to-die link in that of the other direction: from the die of the higher number -/
  replay : Nat := 0
  replayBack : Nat := 0
  /-- failures in a row of the flit that is being sent -/
  badCrc : Nat := 0
  training : Bool := false
  /-- failed retrainings: the cycles at which they ended -/
  failures : List Nat := []
  out : Bool := false
  deriving DecidableEq, Repr, Inhabited

/-- A torus link (R119). -/
structure Link where
  up : Bool := false
  flits : Nat := 0
  deriving DecidableEq, Repr, Inhabited

/-- The fabric between packages (R119 to R126). -/
structure Net where
  /-- packets in the replay buffers of the links, oldest first (R441) -/
  out : List Packet := []
  /-- packets that wait at a link that trains, or whose replay buffer has no room (R441), oldest first -/
  wait : List Packet := []
  /-- packets of this package's flows that have left its replay buffers, and are not yet delivered (R121) -/
  gone : List Packet := []
  /-- packets that wait at their source while 2^15 of their flow are undelivered (R121) -/
  back : List Packet := []
  fwds : List Fwd := []
  /-- sequence numbers sent per flow, and flows received -/
  sent : List Flow := []
  recv : List Flow := []
  links : Vector Link 6 := Vector.replicate 6 {}
  /-- by number: 4 × torus link + quarter, then 24 to 29 for die-to-die links and 30 and above for the fabrics within a die -/
  lanes : Assoc Lane := []
  /-- flits counted per outgoing die-to-die link in the present window (R122) -/
  dieFlits : List (Nat × Nat) := []
  /-- links whose next packets go in two phases: switch and link -/
  marked : List (Nat × Nat) := []
  windowEnd : Nat := 0
  /-- the name of the next request (log 24) -/
  nextName : Nat := 1
  deriving DecidableEq, Repr, Inhabited

/-- What an LDFE that waits at a granule has got: a value, or the poison at a bit offset of its operand (R77, R421). -/
inductive LdfeGot where
  | pending
  | value (v : Nat)
  | poisoned (ofs : Nat)
  deriving DecidableEq, Repr, Inhabited

/-- An LDFE with block that waits at its granule, or has been served there and has yet to complete (R77). -/
structure LdfeWait where
  /-- the task, and the address of its instruction -/
  uid : Nat := 0
  pc : Word := 0
  /-- the request of another package, whose task waits there -/
  req : Option Packet := none
  gran : Nat := 0
  /-- the operand: byte key of its word, offset in it, width -/
  key : Nat := 0
  off : Nat := 0
  w : Nat := 0
  clr : Bool := false
  got : LdfeGot := .pending
  deriving DecidableEq, Repr, Inhabited

/-! ## Range locks, engines -/

/-- A range-lock entry (R223): global and stream addresses as issued; windows after placement. A blocked range names a core
and in-core bit offsets; an interleaved one names 1,024 + cluster and the offsets OFS of R68. -/
structure RangeLock where
  op : Nat := 0
  dest : Bool := false
  /-- none: addresses as issued; some: package, core (or 1,024 + cluster), window code -/
  win : Option (Nat × Nat × Nat) := none
  lo : Nat := 0
  hi : Nat := 0
  deriving DecidableEq, Repr, Inhabited

/-- With whose rights an engine acts (R103, R217). -/
structure Rights where
  cx : Nat := 0
  uid : Nat := 0
  ident : BitVec 24 := 0
  cbase : Option Nat := none
  sid : Word := 0
  deriving DecidableEq, Repr, Inhabited

/-- The instructions of page 8 (R219 to R221). -/
inductive CopyKind where
  | cp | cp2d | cpg | cps | cpfill | mcast | mcfetch | mcsend
  deriving DecidableEq, Repr, Inhabited

/-- A copy-family operation (R217 to R222, R369). -/
structure CopyOp where
  handle : Word := 0
  kind : CopyKind := .cp
  rights : Rights := {}
  dst : Word := 0
  src : Word := 0
  len : Nat := 0
  rows : Nat := 0
  dstr : Int := 0
  sstr : Int := 0
  cls : Nat := 0
  pat : Word := 0
  scope : Nat := 0
  running : Bool := false
  cancel : Bool := false
  /-- destination cores of a multicast still to be delivered (R124) -/
  dests : List Nat := []
  /-- words that the operation has overwritten, with their poison: its own reads see them as they were (R219) -/
  undo : Assoc (Word × Bool) := []
  /-- the payload of a multicast, and the positions and lengths of its poisoned parts (R124, R429) -/
  snap : Nat := 0
  bad : List (Nat × Nat) := []
  /-- units already written (R218), and for CPS the granules that go full when the last is (R76) -/
  written : List Nat := []
  grans : List Nat := []
  doneBits : Nat := 0
  den : Bool := false
  failed : Option Word := none
  /-- pages whose denial is already logged (R103) -/
  logged : List Nat := []
  deriving DecidableEq, Repr, Inhabited

/-- A PIN in progress (R84, R212). -/
structure PinOp where
  handle : Word := 0
  rights : Rights := {}
  lo : Word := 0
  len : Nat := 0
  next : Nat := 0
  notPin : Nat := 0
  quota : Bool := false
  cancel : Bool := false
  deriving DecidableEq, Repr, Inhabited

/-- A page move in progress (R100, R109). -/
structure MoveOp where
  handle : Word := 0
  rights : Rights := {}
  va : Word := 0
  /-- what the issuing package's leaf named when the move was judged (R415) -/
  old : Nat × Nat := (0, 0)
  own : Nat := 0
  frame : Nat := 0
  dpkg : Nat := 0
  dframe : Nat := 0
  /-- the old owner has judged it and the move runs; the next line, and the packet that carries it while it is in transit -/
  begun : Bool := false
  next : Nat := 0
  flying : Option Nat := none
  /-- name of its request to the package that owns the page -/
  req : Option Nat := none
  sent : Nat := 0
  /-- status once known (R109) -/
  status : Option Nat := none
  /-- the package and agent that asked, and their name of the request, for a move asked by another package -/
  asker : Option (Nat × Nat × Nat) := none
  deriving DecidableEq, Repr, Inhabited

/-- A row-to-core map (R256, R257). -/
structure MapSlot where
  cb : Nat := 0
  cs : Nat := 1
  g : Nat := 0
  ob : Nat := 0
  rs : Nat := 0
  owner : Nat := 0
  deriving DecidableEq, Repr, Inhabited

/-- An MMA, SMMA or MZERO from its issue to its resolution (R258 to R265). -/
structure MmaOp where
  handle : Word := 0
  rights : Rights := {}
  /-- 0 to 14: the formats of page 12; 16 to 18: those of SMMA; 32: MZERO -/
  fmt : Nat := 0
  a : Word := 0
  b : Word := 0
  sa : Word := 0
  sb : Word := 0
  mshape : Word := 0
  map : MapSlot := {}
  scope : Nat := 5
  rnd : Nat := 0
  fzi : Bool := false
  fzo : Bool := false
  sat : Bool := false
  prio : BitVec 2 := 0
  /-- SMMA: ROWP, COLI, VALS of the record (R263) -/
  rowp : Word := 0
  coli : Word := 0
  vals : Word := 0
  /-- tile-tasks placed so far, and those that ran to their end -/
  placed : Nat := 0
  ran : Nat := 0
  /-- an output word took a poisoned product (R431) -/
  tainted : Bool := false
  den : Bool := false
  flg : BitVec 6 := 0
  cancel : Bool := false
  failed : Option Word := none
  /-- pages whose denial is already logged (R103) -/
  logged : List Nat := []
  deriving DecidableEq, Repr, Inhabited

/-- A tile-task in the yard or on an engine (R258, R260). -/
structure Tile where
  handle : Word := 0
  tm : Nat := 0
  tn : Nat := 0
  yr : Nat := 0
  ord : Nat := 0
  /-- next row segment to write, once on an engine -/
  row : Nat := 0
  /-- it has met a fault and writes no more (R431) -/
  stop : Bool := false
  deriving DecidableEq, Repr, Inhabited

/-- A wait of one bounded queue on another, with its plumb token (R373, R374). -/
structure QueueWait where
  src : Nat := 0
  dst : Nat := 0
  /-- the entry that cannot leave -/
  what : Nat := 0
  since : Nat := 0
  deriving DecidableEq, Repr, Inhabited

/-- A plumb token in flight (R374). -/
structure Token where
  cl : Nat := 0
  src : Nat := 0
  at_ : Nat := 0
  hops : Nat := 0
  deriving DecidableEq, Repr, Inhabited

/-! ## Streams and joins -/

/-- State of a stream context (R296, R297). -/
inductive StreamState where
  | free | idle | arrived | herded | migrating
  deriving DecidableEq, Repr, Inhabited

/-- A stream context: the fields of the context image (R296) and the generation of its slot (R295). -/
structure StreamCtx where
  id : BitVec 32 := 0
  ident : BitVec 24 := 0
  state : StreamState := .free
  prio : BitVec 2 := 0
  aqn : BitVec 4 := 0
  qb : BitVec 37 := 0
  jg : Word := 0
  hz : BitVec 32 := 0
  p : BitVec 16 := 0
  l : BitVec 16 := 0
  qhead : BitVec 32 := 0
  qtail : BitVec 32 := 0
  /-- physical byte address of the root node -/
  root : Nat := 0
  gen : BitVec 16 := 0
  /-- the herd it is HERDED in: slot, or closure-queue group -/
  herd : Option Nat := none
  deriving DecidableEq, Repr, Inhabited

/-- An open or closed herd group (R305, R306). -/
structure Group where
  num : Nat := 0
  p : BitVec 16 := 0
  l : BitVec 16 := 0
  ident : BitVec 24 := 0
  /-- members in arrival order -/
  members : List (BitVec 32) := []
  first : Nat := 0
  size : Nat := 256
  /-- greatest priority among the members that hold a slot (R306) -/
  prio : BitVec 2 := 0
  entry : Word := 0
  args : Word := 0
  stack : Nat := 0
  deriving DecidableEq, Repr, Inhabited

/-- An operation of pages 14 or 15 waiting in its unit's queue (R369). -/
structure EngOp where
  handle : Word := 0
  rights : Rights := {}
  /-- major opcode of the page -/
  op : Nat := 0
  a : Word := 0
  b : Word := 0
  vec : BitVec 4096 := 0
  /-- the poster's count of posted events (R323); for SMIG the status found at issue (R317) -/
  posts : Nat := 0
  /-- EPOSTV: lanes posted so far, and of these accepted, late, refused (R335) -/
  lane : Nat := 0
  took : Nat := 0
  late : Nat := 0
  refused : Nat := 0
  /-- an SMAP has changed the tree and waits on an empty ring: it is in progress (R298, R433) -/
  begun : Bool := false
  deriving DecidableEq, Repr, Inhabited

/-- A migration at its source (R126, R311, R435). -/
structure MigSrc where
  handle : Word := 0
  rights : Rights := {}
  slot : Nat := 0
  pkg : Nat := 0
  /-- the model's name of the transfer, which every packet of it carries (log 24) -/
  name : Nat := 0
  /-- the destination has accepted, and the tree and the pages have been sent -/
  accepted : Bool := false
  newId : BitVec 32 := 0
  sent : Nat := 0
  /-- the destination has acknowledged, and the stream's mason jobs are to stop first (R355) -/
  acked : Bool := false
  deriving DecidableEq, Repr, Inhabited

/-- A migration at its destination (R126, R311, R435). -/
structure MigDst where
  slot : Nat := 0
  pkg : Nat := 0
  agent : Nat := 0
  name : Nat := 0
  /-- the context as it will stand once SDROP has arrived -/
  ctx : StreamCtx := {}
  /-- cycle of the acknowledgement -/
  since : Nat := 0
  installed : Bool := false
  /-- frames taken for the tree, by index in the transfer -/
  nodes : Assoc Nat := []
  pages : Assoc Nat := []
  deriving DecidableEq, Repr, Inhabited

/-- A copy-on-write walk that a write waits for (R92, R302). -/
structure CowReq where
  sid : BitVec 32 := 0
  off : Nat := 0
  deriving DecidableEq, Repr, Inhabited

/-- The stream processor of a cluster (R295 to R317). -/
structure StreamProc where
  /-- contexts that are not FREE, or whose generation is not 0, by number -/
  ctxs : Assoc StreamCtx := []
  open_ : List Group := []
  closure : List Group := []
  /-- herd slots in use: the group of each, and those whose herd task waits for a yard record, in order -/
  slots : Assoc Group := []
  herdq : List Nat := []
  /-- the cycle of the last arrival, with the arrivals of that cycle: program, layer, identity, stream (R305) -/
  arrivedAt : Nat := 0
  arrivals : List (BitVec 16 × BitVec 16 × BitVec 24 × BitVec 32) := []
  /-- the last closure: its cycle, the group's first arrival, its first member (R305) -/
  closed : Nat × Nat × Nat := (0, 0, 0)
  queue : List EngOp := []
  cows : List CowReq := []
  out : List MigSrc := []
  inn : List MigDst := []
  deriving DecidableEq, Repr, Inhabited

/-- One return of a join group (R310). -/
structure JoinRet where
  id : BitVec 32 := 0
  score : BitVec 32 := 0
  deriving DecidableEq, Repr, Inhabited

/-- A join group (R309, R310). -/
structure JoinGroup where
  key : Word := 0
  handle : Word := 0
  rights : Rights := {}
  policy : Word := 0
  returns : List JoinRet := []
  wdr : Nat := 0
  /-- streams that have withdrawn -/
  gone : List (BitVec 32) := []
  /-- complete: its completion word, and the streams still to skim -/
  word : Option Word := none
  skims : List (BitVec 32) := []
  deriving DecidableEq, Repr, Inhabited

/-! ## Event unit -/

/-- An event with its source key (R323). -/
structure Ev where
  pop : Nat := 0
  neu : Nat := 0
  pay : BitVec 32 := 0
  tick : Nat := 0
  wgt : Nat := 0
  key : Word := 0
  /-- it was posted late (R330) -/
  late : Bool := false
  /-- the count of its record in the cellar ring (log 105) -/
  place : Nat := 0
  deriving DecidableEq, Repr, Inhabited

/-- A loaded population (R321, R334). -/
structure Pop where
  words : List Word := []
  rights : Rights := {}
  stream : BitVec 32 := 0
  deriving DecidableEq, Repr, Inhabited

/-- A pending ERUN (R336). -/
structure Run where
  handle : Word := 0
  /-- the issuing context, and the population it named -/
  cx : Nat := 0
  ident : BitVec 24 := 0
  pop : Nat := 0
  till : Nat := 0
  sat : Bool := false
  den : Bool := false
  late : Bool := false
  fires : Nat := 0
  /-- its domain has failed, and its failure waits for the domain's writes (R333, R437) -/
  dead : Bool := false
  deriving DecidableEq, Repr, Inhabited

/-- A pending unloading of a population slot with the EDRAIN futures that wait for it (R337, R332). -/
structure Unload where
  slot : Nat := 0
  handles : List Word := []
  /-- its tick boundary has come; the next record to write back; records written back, events discarded -/
  began : Bool := false
  next : Nat := 0
  wrote : Nat := 0
  gone : Nat := 0
  /-- pages whose denial is already logged (R103) -/
  logged : List Nat := []
  deriving DecidableEq, Repr, Inhabited

/-- The event unit of a cluster (R319 to R337). -/
structure EventUnit where
  pops : Assoc Pop := []
  tick : Nat := 0
  /-- tick keystones by u mod 256: issued, returned (R328) -/
  keys : Assoc (Word × Word) := []
  /-- event queues by core of the cluster, in (TICK, key) order (R331) -/
  queues : Assoc (List Ev) := []
  /-- spilled events by core, in (TICK, key) order: the content of the cellar rings (R331) -/
  spilled : Assoc (List Ev) := []
  /-- what has happened in the current tick: a saturation, a denial, a late event (R336) -/
  sat : Bool := false
  den : Bool := false
  late : Bool := false
  /-- cores whose queue waits to spill, and since when (R372, R436) -/
  spillWait : Assoc Nat := []
  runs : List Run := []
  unloads : List Unload := []
  /-- pages whose denial this tick has logged (R103) -/
  logged : List Nat := []
  queue : List EngOp := []
  failed : Bool := false
  stalled : Bool := false
  /-- cycle of the last integration or fire (R436) -/
  last : Nat := 0
  deriving DecidableEq, Repr, Inhabited

/-! ## Mason -/

/-- An ALOAD or AGO in the mason's job queue (R340, R352, R353). -/
structure Job where
  handle : Word := 0
  rights : Rights := {}
  load : Bool := false
  src : Word := 0
  /-- ALOAD: first control-store word and count; AGO: entry -/
  first : Nat := 0
  count : Nat := 0
  res : Bool := false
  /-- parameter words 0 to 7 (R345) -/
  params : List Word := []
  map : MapSlot := {}
  den : Bool := false
  /-- its stream is to end (R355); ASTOP or FCANCEL has stopped it (R350) -/
  stop : Bool := false
  cancel : Bool := false
  /-- an ALOAD whose turn has come, and whose reads wait (R354) -/
  begun : Bool := false
  deriving DecidableEq, Repr, Inhabited

/-- Committed and pending state of one row (R348), f32 codes. -/
structure RowState where
  m : BitVec 32 := 0
  l : BitVec 32 := 0
  m' : BitVec 32 := 0
  s : BitVec 32 := 0
  l' : BitVec 32 := 0
  deriving DecidableEq, Repr, Inhabited

/-- Where the header word of a checkpoint record lies, as MCHK translated it before its commit (R439). -/
structure ChkSpot where
  own : Nat := 0
  key : Nat := 0
  tag : Nat := 0
  page : Nat := 0
  denied : Bool := false
  deriving DecidableEq, Repr, Inhabited

/-- A running mason job (R343, R348). -/
structure JobRun where
  job : Job := {}
  upc : Int := 0
  g : Vector Word 16 := Vector.replicate 16 0
  rows : List RowState := []
  buf : Nat := 0
  p : Nat := 0
  pgs : Nat := 0
  isOpen : Bool := false
  /-- the open page is denied, so fully masked (R346) -/
  masked : Bool := false
  flg : BitVec 6 := 0
  den : Bool := false
  /-- key and value page frames of the open page -/
  kfrm : Nat := 0
  vfrm : Nat := 0
  /-- failure words of a translation that MPAGE holds with the page (R439) -/
  kfail : Option Word := none
  vfail : Option Word := none
  /-- ASTOP futures that resolve once the job has stopped (R354) -/
  stops : List Word := []
  ktag : Nat := 0
  vtag : Nat := 0
  /-- pages whose denial is already logged (R103) -/
  logged : List Nat := []
  /-- yard record of the tile-task of the micro-operation that runs (R341, R364) -/
  tile : Option Nat := none
  /-- words 1 on of MCHK's record are written, and its header waits for their acknowledgements (R341, R349) -/
  chk : Option ChkSpot := none
  /-- failure word of a store at another package that has been lost (R414, R428) -/
  lost : Option Word := none
  deriving DecidableEq, Repr, Inhabited

/-- The mason of a cluster (R340 to R355). -/
structure Mason where
  /-- nonzero words of the control store (R342) -/
  store : Assoc Word := []
  /-- words with a parity error (R440) -/
  parity : List Nat := []
  queue : List Job := []
  run : Option JobRun := none
  deriving DecidableEq, Repr, Inhabited

/-! ## Clusters, dies, package -/

/-- A cluster and its shared units (R12). -/
structure Cluster where
  inService : Bool := false
  drained : Bool := false
  /-- cycle at which the cluster was drained (R383) -/
  drainedAt : Nat := 0
  /-- a CLDRAIN waits for the engines (R382) -/
  draining : Bool := false
  yard : Assoc YRec := []
  /-- charges of the yard cellar ring per maker (R372), and the uids of its records in order -/
  cellar : List (Nat × YRec) := []
  /-- the ring stopped spilling on a fault (R398) -/
  cellarStop : Bool := false
  /-- the ring has filled, and that is reported (R438) -/
  cellarFull : Bool := false
  disp : List Nat := []
  /-- the launch being dispatched -/
  cur : Option Nat := none
  barriers : List Barrier := []
  /-- members of the scope instances below sc.cluster: scope level, scope instance, task (R51) -/
  members : List (Nat × Nat × Nat) := []
  /-- cycle of the last taking of a yard record, and the rank of its class: D 0, S and T 1, M 2, H 3 (R365) -/
  took : Nat × Nat := (0, 3)
  pinq : BitVec 16 := 256
  spool : BitVec 28 := 0
  shtb : BitVec 17 := 0
  shtv : BitVec 34 := 0
  stkaBase : BitVec 41 := 0
  stkaSlot : BitVec 16 := 0
  sva : BitVec 14 := 0
  celb : BitVec 28 := 0
  maps : Assoc MapSlot := []
  locks : List RangeLock := []
  tagCache : List TagEntry := []
  gen : List MmaOp := []
  tiles : List Tile := []
  engines : Vector (Option Tile) 4 := Vector.replicate 4 none
  copies : List CopyOp := []
  streams : StreamProc := {}
  events : EventUnit := {}
  mason : Mason := {}
  waits : List QueueWait := []
  tokens : List Token := []
  grants : List Nat := []
  /-- cycle of the last pre-emption started (R367) -/
  lastPreempt : Nat := 0
  /-- placements of tile-tasks so far: the order of R260 -/
  nextOrd : Nat := 0
  deriving DecidableEq, Repr, Inhabited

/-- A memory core: its firmware yard and its copy queue (R60, R369). -/
structure MemCore where
  inService : Bool := false
  yard : Assoc YRec := []
  copies : List CopyOp := []
  /-- cycle of the last pre-emption started -/
  lastPreempt : Nat := 0
  deriving DecidableEq, Repr, Inhabited

/-- A state page held in a state-page frame (R79). -/
structure PageFrame where
  /-- physical 64 KiB frame number of the page -/
  page : Nat := 0
  /-- the frame: 24 × frame way + place -/
  slot : Nat := 0
  tag : Nat := 0
  /-- its copy of the page tag is lost: the next access brings it anew from its leaf (R423) -/
  stale : Bool := false
  dirty : Bool := false
  /-- counted in FL in the present interval (R82) -/
  counted : Bool := false
  /-- pins of its lines: task and line of the page (R84) -/
  pins : List (Nat × Nat) := []
  deriving DecidableEq, Repr, Inhabited

/-- A slice: its carve-out, frames, and the sampling of R82 (R79 to R83). -/
structure Slice where
  last : BitVec 2 := 0
  moving : Bool := false
  fcur : BitVec 5 := 0
  target : BitVec 5 := 0
  /-- state pages held in frames, the most recently used first (R79) -/
  frames : List PageFrame := []
  /-- frames that are never used again (R426) -/
  deadFrames : List Nat := []
  /-- the pages spilled last, newest first: at most 24 (R82) -/
  spilled : List Nat := []
  /-- the shadow directory: per sampled set the lines in stack order, at most 17 (R82) -/
  shadow : Assoc (List Nat) := []
  /-- the counters of R82 -/
  cl : Nat := 0
  cg : Nat := 0
  fg : Nat := 0
  fl : Nat := 0
  /-- retired line slots: 16 × set + way (R426) -/
  retired : List Nat := []
  /-- cycles at which the sampling interval began and at which the last move toward a limit did -/
  sampled : Nat := 0
  moved : Nat := 0
  deriving DecidableEq, Repr, Inhabited

/-- A die (R12). -/
structure Die where
  frz : Bool := false
  fmax : BitVec 5 := 0
  fmin : BitVec 5 := 0
  yq : BitVec 16 := 64
  eq : BitVec 16 := 4096
  slices : Vector Slice 16 := Vector.replicate 16 {}
  joinUp : Bool := true
  groups : List JoinGroup := []
  deriving DecidableEq, Repr, Inhabited

/-- The package control block (R375). -/
structure PkgRegs where
  /-- the chain that the chain reader serves next (R360) -/
  nextChain : Nat := 0
  gvtbRoot : BitVec 19 := 0
  gvtbEn : Bool := false
  hotbBase : BitVec 10 := 0
  hotbTbl : Bool := false
  hotbEn : Bool := false
  iddb : BitVec 13 := 0
  routeThr : BitVec 8 := 0x18
  routeLast : BitVec 8 := 0x10
  routeForce : Bool := false
  routeEn : Bool := true
  refb : BitVec 9 := 0
  slpt : BitVec 21 := 0
  cal : Bool := false
  full : Bool := false
  capStacks : BitVec 12 := 0
  tj : BitVec 8 := 0
  thr : Bool := false
  watts : BitVec 16 := 0
  /-- the model's own: the cycle in which TJ and WATTS were last reported (log 110) -/
  measured : Nat := 0
  dlogBase : BitVec 28 := 0
  dlogLsz : BitVec 5 := 0
  dlogHead : BitVec 32 := 0
  dlogTail : BitVec 32 := 0
  dlost : BitVec 32 := 0
  retNret : BitVec 24 := 0
  retBase : BitVec 19 := 0
  retEn : Bool := false
  deriving DecidableEq, Repr, Inhabited

/-- The stages of the boot (R376). -/
inductive BootStage where
  | rom | firmware | selfTest | sramService | stackTrain | linkTrain | halted | off
  deriving DecidableEq, Repr, Inhabited

/-- The scope table (R267, R268): the clusters, memory cores and join units in service, and the packages of sc.near and of sc.sys. -/
structure ScopeTable where
  clusters : List Nat := []
  mcores : List Nat := []
  joins : List Nat := []
  near : List Nat := []
  all : List Nat := []
  deriving DecidableEq, Repr, Inhabited

/-- Boot and service state (R376 to R385). -/
structure Boot where
  stage : BootStage := .rom
  wiping : Bool := true
  /-- the copy into HBM before full service runs (R379) -/
  copying : Bool := false
  firmware : Option Nat := none
  mcFirmware : Option Image := none
  /-- stacks whose wipe runs, whose memory cores are stopped for new firmware, or that are being retired -/
  stackWipe : List Nat := []
  stackStop : List (Nat × Image) := []
  retiring : List Nat := []
  /-- memory cores that have failed, and clusters that have left (R430, R443) -/
  failed : List Nat := []
  left : List Nat := []
  trained : List Nat := []
  /-- clusters that have ended their self-test -/
  tested : List Nat := []
  calibrating : Bool := true
  /-- built at step 6 of the boot -/
  scope : Option ScopeTable := none
  ports : List Nat := [0, 1]
  deriving DecidableEq, Repr, Inhabited

/-- The fuses (R16, R377, R380). -/
structure Fuses where
  lcs : BitVec 2 := 0
  minver : Vector (BitVec 32) 3 := Vector.replicate 3 0
  digest : BitVec 384 := 0
  deriving DecidableEq, Repr, Inhabited

/-- The system that this package belongs to (R28, R98). -/
structure Sys where
  self : Nat := 0
  ext : Nat × Nat × Nat := (1, 1, 1)
  /-- the other packages: id and coordinates -/
  others : Assoc (Nat × Nat × Nat) := []
  /-- packages that have left, at whose places a replacement may join (R386) -/
  gone : Assoc (Nat × Nat × Nat) := []
  coord : Nat × Nat × Nat := (0, 0, 0)
  deriving DecidableEq, Repr, Inhabited

/-- The error log ring (R424). -/
structure ErrLog where
  next : Nat := 0
  recs : Assoc (List Word) := []
  /-- error banks by unit: corrected errors not yet recorded, uncorrectable ones, last address, cycle of the last record of a
  corrected one (R424) -/
  banks : Assoc (Nat × Nat × Nat × Nat) := []
  /-- corrected errors that may still retire their storage: its key, the word, and the cycle (R426) -/
  fixes : List (Nat × Nat × Nat) := []
  /-- 64 KiB frames of HBM retired since reset -/
  retired : List Nat := []
  deriving DecidableEq, Repr, Inhabited

/-- Translation caches, the caches of lines, and the home directories. The data of a line is the one copy in memory (log 9). -/
structure Caches where
  /-- TLBs by core; memory core m at 1,024 + m (R93) -/
  tlbs : Assoc (List TlbEntry) := []
  /-- L1D lines: core × 2^33 + line (R78) -/
  l1 : Assoc L1Line := []
  /-- retired line slots of the L1Ds: 16 × (core × 1,024 + set) + way (R426) -/
  l1dead : List Nat := []
  /-- lines in instruction caches: core × 2^33 + line, memory core m at 1,024 + m (R15, R18) -/
  icache : List Nat := []
  /-- L2 lines: die × 2^33 + line -/
  l2 : Assoc L2Line := []
  /-- home directory entries by line (R114) -/
  home : Assoc HomeEntry := []
  fills : List Fill := []
  deriving DecidableEq, Repr, Inhabited

/-- The instruction that `exec` runs: its context, address, length and words as decoded (R152, R392). -/
structure Cur where
  cx : Nat := 0
  addr : Word := 0
  len : Nat := 1
  base : IWord := 0
  page : Nat := 0
  deriving DecidableEq, Repr, Inhabited

/-- What the present step runs (log 2). -/
inductive Running where
  | none
  | core (c : Cur)
  | mason (cl : Nat)
  | event
  deriving DecidableEq, Repr, Inhabited

/-- The state of the package. -/
structure State where
  /-- contexts that hold a task, by ctxid; memory core m, context c at 8,192 + 8m + c (R36, log 18) -/
  ctxs : Assoc Ctx := []
  clusters : Vector Cluster 16 := Vector.replicate 16 {}
  mcores : Assoc MemCore := []
  dies : Vector Die 4 := Vector.replicate 4 {}
  /-- keystones in use, by handle (R46) -/
  keystones : Assoc Keystone := []
  launches : Assoc Launch := []
  chains : Vector CmdChain 16 := Vector.replicate 16 {}
  /-- all memory: physical bytes, windows, full/empty bits (R65, R75, R113) -/
  mem : List Host.Cell := []
  /-- byte keys of poisoned granules, rising (R420) -/
  poison : List Nat := []
  /-- physical addresses of nodes and pages whose reference count is frozen, rising (R432) -/
  frozen : List Nat := []
  caches : Caches := {}
  rstores : List RStore := []
  /-- LDFE that wait at full/empty granules, in the order in which they began (R77) -/
  ldfes : List LdfeWait := []
  pins : List PinOp := []
  moves : List MoveOp := []
  /-- pages whose denial each engine operation, or the engine read of an instruction that waits, has logged (R103) -/
  opDenials : Assoc (List Nat) := []
  /-- events posted by each context so far, by ctxid, mod 2^50 (R323) -/
  posts : Assoc Nat := []
  /-- bytes pinned per task (R84, R85) -/
  charges : Assoc Nat := []
  net : Net := {}
  regs : PkgRegs := {}
  log : ErrLog := {}
  boot : Boot := {}
  fuses : Fuses := {}
  sys : Sys := {}
  /-- event counters by core × 8 + n (R407) -/
  perf : Assoc Word := []
  /-- cycle of the last issue in each pipe: 2 × core, plus 1 for the vector pipe (R58) -/
  pipes : Assoc Nat := []
  /-- per cluster (16 and above: per memory core), the cycle of its last split and the name of the victim (R44, R45) -/
  splits : Assoc (Nat × Nat) := []
  /-- cycles since the last package reset (R169) -/
  cycle : Nat := 0
  /-- the model's own: turns already chosen (log 2) -/
  agenda : List Turn := []
  /-- the model's own: argument of the free values (log 3) -/
  fresh : Nat := 0
  /-- the model's own: what the step runs, and an event's operands (log 2) -/
  cur : Running := .none
  arg : EvArg := {}
  /-- the model's own: names not yet used (log 4) -/
  nextHandle : Nat := 1
  nextUid : Nat := 1
  deriving DecidableEq, Repr, Inhabited

/-- The package right after reset (R7, R376, R381): every register at its reset value, every table and queue empty,
memory wiped, no context holding a task, the boot at its first step. -/
def State.reset : State := {}

/-- Ways a run can stop without a next state. None of them is in the manual: each is a place the manual leaves out. -/
inductive Fault where
  /-- raised when a row is executed outside the turn that runs it: no step does so. Safe: it stops a run. -/
  | notInTurn
  deriving DecidableEq, Repr

/-- Refusals: the model gives no meaning. -/
inductive Refusal where
  /-- raised by an instruction that the model does not yet describe. Safe: it stops a run. -/
  | notModelled (mnemonic : String)
  deriving DecidableEq, Repr

/-- Outcome of a step. -/
abbrev Result := Host.Outcome State Fault Refusal

end Sys2Proof.Machine
end

