-- ==== Sys2Proof/Machine/Base.lean ====
section
/-!
DEFINITION. The named accesses to the state: sparse maps, bytes and words of memory, registers of a context, units by
number, and the numbering of contexts, cores, clusters and dies (R13, R36).
-/

namespace Sys2Proof.Machine

/-! ## Sparse maps -/

/-- The value at a key. -/
def aget {α : Type} : Assoc α → Nat → Option α
  | [], _ => none
  | (k, v) :: rest, i => if i = k then some v else aget rest i

/-- Set the value at a key, keeping the keys rising. -/
def aset {α : Type} : Assoc α → Nat → α → Assoc α
  | [], i, x => [(i, x)]
  | (k, v) :: rest, i, x =>
    if i = k then (i, x) :: rest else if i < k then (i, x) :: (k, v) :: rest else (k, v) :: aset rest i x

/-- Remove a key. -/
def adel {α : Type} (m : Assoc α) (i : Nat) : Assoc α := m.filter (fun x => x.1 != i)

/-- Change the value at a key that is there. -/
def amod {α : Type} (m : Assoc α) (i : Nat) (f : α → α) : Assoc α :=
  match aget m i with
  | none => m
  | some v => aset m i (f v)

/-- The keys rise strictly. -/
def keysRise {α : Type} : Assoc α → Bool
  | [] => true
  | [_] => true
  | (a, _) :: (b, y) :: rest => decide (a < b) && keysRise ((b, y) :: rest)

/-! ## Memory (log 5) -/

/-- The byte at a key. -/
def memByte : List Host.Cell → Nat → Byte
  | [], a => unlistedByte a
  | (k, v) :: rest, a => if a = k then v else memByte rest a

/-- Remove a key from the list. -/
def memDrop (m : List Host.Cell) (a : Nat) : List Host.Cell := m.filter (fun c => c.1 != a)

/-- List a byte at a key. -/
def memList : List Host.Cell → Nat → Byte → List Host.Cell
  | [], a, x => [(a, x)]
  | (k, v) :: rest, a, x =>
    if a = k then (a, x) :: rest else if a < k then (a, x) :: (k, v) :: rest else (k, v) :: memList rest a x

/-- Write a byte, keeping the canonical form: a byte equal to what an unlisted one reads as is not listed. -/
def memPut (m : List Host.Cell) (a : Nat) (x : Byte) : List Host.Cell :=
  if x = unlistedByte a then memDrop m a else memList m a x

/-- The canonical form: keys rising, no entry equal to what its key reads as when unlisted. -/
def memOk (m : List Host.Cell) : Bool :=
  keysRise m && m.all (fun c => c.2 != unlistedByte c.1)

/-- n bytes from a key, little-endian (R6), as a number. -/
def memBytes (m : List Host.Cell) : Nat → Nat → Nat
  | 0, _ => 0
  | n + 1, a => (memByte m a).toNat + 256 * memBytes m n (a + 1)

/-- The 64-bit granule at a byte key (R6, R72). -/
def memWord (m : List Host.Cell) (a : Nat) : Word := BitVec.ofNat 64 (memBytes m 8 a)

/-- Write the bits of n bytes that the mask selects; a byte with no mask bit is not written. -/
def memMask (m : List Host.Cell) : Nat → Nat → Nat → Nat → List Host.Cell
  | 0, _, _, _ => m
  | n + 1, a, mask, val =>
    let k := BitVec.ofNat 8 mask
    let m' := if k = 0 then m else memPut m a ((memByte m a &&& ~~~k) ||| (BitVec.ofNat 8 val &&& k))
    memMask m' n (a + 1) (mask / 256) (val / 256)

/-- Write the bits of the granule at a byte key that the mask selects. -/
def memMerge (m : List Host.Cell) (a : Nat) (mask val : Word) : List Host.Cell :=
  memMask m 8 a mask.toNat val.toNat

/-- Write a whole granule. -/
def memSet (m : List Host.Cell) (a : Nat) (val : Word) : List Host.Cell :=
  memMerge m a 0xFFFFFFFFFFFFFFFF val

/-- Write words from a byte key upward. -/
def memSetWords (m : List Host.Cell) (a : Nat) : List Word → List Host.Cell
  | [] => m
  | w :: ws => memSetWords (memSet m a w) (a + 8) ws

/-- Drop the poison of a byte range that is written whole (R420). -/
def State.unpoison (s : State) (a n : Nat) : State := { s with poison := s.poison.filter (fun k => !(decide (a ≤ k) && decide (k < a + n))) }

/-- Read n words from a byte key upward. -/
def memWords (m : List Host.Cell) : Nat → Nat → List Word
  | 0, _ => []
  | n + 1, a => memWord m a :: memWords m n (a + 8)

/-- Drop every byte with a key in [lo, hi). -/
def memClear (m : List Host.Cell) (lo hi : Nat) : List Host.Cell :=
  m.filter (fun c => !(decide (lo ≤ c.1) && decide (c.1 < hi)))

/-- The physical word at a byte address, with no translation and no tag check. -/
def State.phys (s : State) (a : Nat) : Word := memWord s.mem a

/-- Write the physical word at a byte address; a whole-word write clears its poison (R420). -/
def State.setPhys (s : State) (a : Nat) (v : Word) : State :=
  { s with mem := memSet s.mem a v, poison := s.poison.filter (fun p => p != a) }

/-- Write words from a physical byte address on; each is written whole (R420). -/
def State.setPhysWords (s : State) (a : Nat) (ws : List Word) : State :=
  ({ s with mem := memSetWords s.mem a ws } : State).unpoison a (8 * ws.length)

/-- Is the granule at this byte key poisoned? -/
def State.poisoned (s : State) (key : Nat) : Bool := s.poison.contains key

/-- Add a key to a rising list. -/
def insertKey (x : Nat) : List Nat → List Nat
  | [] => [x]
  | y :: ys => if x = y then y :: ys else if x < y then x :: y :: ys else y :: insertKey x ys

/-- Poison the granule at a byte key (R420). -/
def State.setPoison (s : State) (key : Nat) : State := { s with poison := insertKey key s.poison }

/-- Write bits of a granule: a partial write of a poisoned granule is not performed (R422); a whole one clears the poison
(R420). The flag says whether the write was dropped. -/
def State.mergeWord (s : State) (key : Nat) (mask val : Word) : State × Bool :=
  if s.poisoned key then
    if mask = 0xFFFFFFFFFFFFFFFF then (s.setPhys key val, false) else (s, true)
  else ({ s with mem := memMerge s.mem key mask val }, false)

/-! ## Window keys (R65, R75) -/

/-- Spans of the windows in bits: W, A, C, full/empty state. -/
def windowSpan (win : Nat) : Nat :=
  match win with
  | 0 => 2 ^ 22
  | 1 => 2 ^ 21
  | 2 => 2 ^ 21
  | 3 => 2 ^ 16
  | _ => 0

/-- Byte key of bit offset ofs (a multiple of 8) of a window of a core. -/
def windowKey (core win ofs : Nat) : Nat :=
  match win with
  | 0 => windowBase + core * 2 ^ 20 + ofs / 8
  | 1 => windowBase + core * 2 ^ 20 + 2 ^ 19 + ofs / 8
  | 2 => windowBase + core * 2 ^ 20 + 2 ^ 19 + 2 ^ 18 + ofs / 8
  | _ => feBase + core * 2 ^ 13 + ofs / 8

/-- State offset of the full/empty granule that holds bit offset ofs of window win (R75). -/
def granuleOf (win ofs : Nat) : Nat :=
  match win with
  | 0 => ofs / 128
  | 1 => 32768 + ofs / 128
  | _ => 49152 + ofs / 128

/-- Number of a granule of the package: core × 2^16 + state offset. -/
def granuleId (core win ofs : Nat) : Nat := core * 65536 + granuleOf win ofs

/-- Is the granule full? -/
def State.granFull (s : State) (g : Nat) : Bool :=
  (memByte s.mem (feBase + g / 8)).getLsbD (g % 8)

/-- Make a granule full or empty. -/
def State.setGran (s : State) (g : Nat) (full : Bool) : State :=
  let k := BitVec.ofNat 8 (2 ^ (g % 8))
  let a := feBase + g / 8
  let old := memByte s.mem a
  { s with mem := memPut s.mem a (if full then old ||| k else old &&& ~~~k) }

/-- Does the task of the entry still wait at its granule? -/
def State.ldfeLive (s : State) (e : LdfeWait) : Bool :=
  e.req.isSome || s.ctxs.any (fun y => y.2.uid == e.uid && (match y.2.wait with
    | some w => w.kind == .granule && w.pc == e.pc
    | none => false))

/-- What an LDFE reads at its bank: its operand may reach into the second word of its granule (R76). -/
def State.ldfeReads (s : State) (e : LdfeWait) : LdfeGot :=
  if s.poisoned e.key then .poisoned 0
  else if e.off + e.w ≤ 64 then .value ((s.phys e.key).toNat / 2 ^ e.off % 2 ^ e.w)
  else if s.poisoned (e.key + 8) then .poisoned (64 - e.off)
  else .value (((s.phys e.key).toNat + (s.phys (e.key + 8)).toNat * 2 ^ 64) / 2 ^ e.off % 2 ^ e.w)

/-- Serve the LDFE that wait at a full granule (R77): every one without clear, and the first with clear that reads; the
flag says whether one has emptied the granule. -/
def serveWaits (s : State) (g : Nat) : List LdfeWait → Bool → List LdfeWait × Bool
  | [], done => ([], done)
  | e :: es, done =>
    if e.gran ≠ g ∨ e.got ≠ .pending ∨ s.ldfeLive e = false ∨ (e.clr = true ∧ done = true) then
      let (r, d) := serveWaits s g es done
      (e :: r, d)
    else
      let v := s.ldfeReads e
      let (r, d) := serveWaits s g es (done || (e.clr && (match v with | .value _ => true | _ => false)))
      ({ e with got := v } :: r, d)

/-- Serve the LDFE that wait at granule g. -/
def State.serveGran (s : State) (g : Nat) : State :=
  if s.ldfes.any (fun e => e.gran == g && e.got == .pending) then
    match serveWaits s g s.ldfes false with
    | (l, true) => ({ s with ldfes := l } : State).setGran g false
    | (l, false) => { s with ldfes := l }
  else s

/-- Serve the LDFE that wait at granules that have become full. -/
def State.serveLdfes (s : State) : State :=
  s.ldfes.foldl (fun s e => if s.granFull e.gran then s.serveGran e.gran else s) s

/-- Has an LDFE of the task been served that has yet to complete? -/
def State.ldfeServed (s : State) (uid : Nat) : Bool :=
  s.ldfes.any (fun e => e.uid == uid && e.req.isNone && e.got != .pending && s.ldfeLive e)

/-- Make granules full, and serve the LDFE that wait at them (R77). -/
def State.fillGrans (s : State) (gs : List Nat) : State := gs.foldl (fun s g => (s.setGran g true).serveGran g) s

/-- A write of bits of a granule as `mergeWord` has it; in the full/empty window it may fill granules (R75, R77). -/
def State.putWord (s : State) (key : Nat) (mask val : Word) : State × Bool :=
  match s.mergeWord key mask val with
  | (s, d) => (if feBase ≤ key then s.serveLdfes else s, d)

/-! ## Numbering (R13, R36) -/

/-- Contexts of memory cores are numbered from here (log 18). -/
def memCtxBase : Nat := 8192

/-- Does the ctxid name a context of a memory core? -/
def isMemCtx (cx : Nat) : Bool := decide (memCtxBase ≤ cx)

/-- Memory core of a memory-core context. -/
def memCoreOf (cx : Nat) : Nat := (cx - memCtxBase) / 8

/-- Core package index of a context; for a memory core m, 1,024 + m. -/
def coreOf (cx : Nat) : Nat := cx / 8

/-- Cluster of a context of a core. -/
def clusterOf (cx : Nat) : Nat := cx / 512

/-- Die of a context (R13: stack s lies on die floor(s / 3)). -/
def dieOf (cx : Nat) : Nat := if isMemCtx cx then memCoreOf cx / 24 else cx / 2048

/-! ## Units -/

/-- Cluster by package index. -/
def State.cluster (s : State) (cl : Nat) : Cluster := s.clusters[cl % 16]'(Nat.mod_lt _ (by decide))

/-- Replace a cluster. -/
def State.setCluster (s : State) (cl : Nat) (c : Cluster) : State :=
  { s with clusters := s.clusters.set (cl % 16) c (Nat.mod_lt _ (by decide)) }

/-- Change a cluster. -/
def State.modCluster (s : State) (cl : Nat) (f : Cluster → Cluster) : State := s.setCluster cl (f (s.cluster cl))

/-- Die by number. -/
def State.die (s : State) (d : Nat) : Die := s.dies[d % 4]'(Nat.mod_lt _ (by decide))

/-- Change a die. -/
def State.modDie (s : State) (d : Nat) (f : Die → Die) : State :=
  { s with dies := s.dies.set (d % 4) (f (s.die d)) (Nat.mod_lt _ (by decide)) }

/-- Slice by 16 × die + slice. -/
def State.slice (s : State) (n : Nat) : Slice := (s.die (n / 16)).slices[n % 16]'(Nat.mod_lt _ (by decide))

/-- Change a slice. -/
def State.modSlice (s : State) (n : Nat) (f : Slice → Slice) : State :=
  s.modDie (n / 16) (fun d => { d with slices := d.slices.set (n % 16) (f (s.slice n)) (Nat.mod_lt _ (by decide)) })

/-- Command chain by number. -/
def State.chain (s : State) (n : Nat) : CmdChain := s.chains[n % 16]'(Nat.mod_lt _ (by decide))

/-- Change a command chain. -/
def State.modChain (s : State) (n : Nat) (f : CmdChain → CmdChain) : State :=
  { s with chains := s.chains.set (n % 16) (f (s.chain n)) (Nat.mod_lt _ (by decide)) }

/-- Memory core by number. -/
def State.mcore (s : State) (m : Nat) : MemCore := (aget s.mcores m).getD {}

/-- Change a memory core. -/
def State.modMcore (s : State) (m : Nat) (f : MemCore → MemCore) : State :=
  { s with mcores := aset s.mcores m (f (s.mcore m)) }

/-- Change the context cx, if it holds a task. -/
def State.modCtx (s : State) (cx : Nat) (f : Ctx → Ctx) : State := { s with ctxs := amod s.ctxs cx f }

/-- Replace the context cx. -/
def State.setCtx (s : State) (cx : Nat) (c : Ctx) : State := { s with ctxs := aset s.ctxs cx c }

/-- The context cx; a free context reads as an empty one. -/
def State.ctx (s : State) (cx : Nat) : Ctx := (aget s.ctxs cx).getD {}

/-- Does the context hold a task? -/
def State.holds (s : State) (cx : Nat) : Bool := (aget s.ctxs cx).isSome

/-- The yard of a context: of its cluster, or its memory core's own (R60, R364). -/
def State.yardOf (s : State) (cx : Nat) : Assoc YRec :=
  if isMemCtx cx then (s.mcore (memCoreOf cx)).yard else (s.cluster (clusterOf cx)).yard

/-- Replace the yard of a context. -/
def State.setYardOf (s : State) (cx : Nat) (y : Assoc YRec) : State :=
  if isMemCtx cx then s.modMcore (memCoreOf cx) (fun m => { m with yard := y })
  else s.modCluster (clusterOf cx) (fun c => { c with yard := y })

/-- The yard record of the task in context cx. -/
def State.recOf (s : State) (cx : Nat) : YRec := (aget (s.yardOf cx) (s.ctx cx).yr).getD {}

/-- Change the yard record of the task in context cx. -/
def State.modRecOf (s : State) (cx : Nat) (f : YRec → YRec) : State :=
  s.setYardOf cx (amod (s.yardOf cx) (s.ctx cx).yr f)

/-- Add to an event counter of a core (R407). -/
def State.count (s : State) (core n : Nat) : State :=
  { s with perf := aset s.perf (core * 8 + n) ((aget s.perf (core * 8 + n)).getD 0 + 1) }

/-- Has the package power, and has its boot not halted (R376, R380)? -/
def State.powered (s : State) : Bool := s.boot.stage != .off && s.boot.stage != .halted

/-- Does the package serve accesses: it runs, and its wipe has ended (R376, R381)? -/
def State.alive (s : State) : Bool := s.powered && !s.boot.wiping

/-- Has the boot reached SRAM-only service, so that chains and launches are served (R376)? -/
def State.serving (s : State) : Bool :=
  s.alive && (s.boot.stage == .sramService || s.boot.stage == .stackTrain || s.boot.stage == .linkTrain)

/-- Clusters in service (R388). -/
def State.clusBits (s : State) : Nat :=
  (List.range 16).foldl (fun n c => if (s.cluster c).inService then n + 2 ^ c else n) 0

/-- Stacks in service, ascending (R113). -/
def State.stackList (s : State) : List Nat := (List.range 12).filter (fun k => s.regs.capStacks.getLsbD k)

/-- The first byte above device memory: 1.5 GiB during SRAM-only service (R378), else n × 64 GiB (R113). -/
def State.memTop (s : State) : Nat :=
  if s.regs.full then s.stackList.length * 2 ^ 36 else 3 * 2 ^ 29

/-! ## Registers of a context (R168 to R172) -/

/-- Scalar register r. -/
def Ctx.sreg (c : Ctx) (r : BitVec 6) : SReg := c.sregs[r.toNat]'r.isLt

/-- S[r]: s0 reads as zero (R168). -/
def Ctx.readS (c : Ctx) (r : BitVec 6) : Word := if r = 0 then 0 else (c.sreg r).val

/-- Is register r full? s0 always is (R168). -/
def Ctx.fullS (c : Ctx) (r : BitVec 6) : Bool := r == 0 || (c.sreg r).full

/-- Is the fail bit of register r set (R391)? -/
def Ctx.failS (c : Ctx) (r : BitVec 6) : Bool := r != 0 && (c.sreg r).fail

/-- S[r] := v: the register is full and its fail bit clear (R172, R391); a write to s0 is discarded (R168). -/
def Ctx.writeS (c : Ctx) (r : BitVec 6) (v : Word) : Ctx :=
  if r = 0 then c else { c with sregs := c.sregs.set r.toNat { val := v } r.isLt }

/-- S[r] := a future: the register holds the handle and is empty (R171); with s0 the future is abandoned (R172). -/
def Ctx.emptyS (c : Ctx) (r : BitVec 6) (handle : Word) : Ctx :=
  if r = 0 then c else { c with sregs := c.sregs.set r.toNat { val := handle, full := false } r.isLt }

/-- Vector register r. -/
def Ctx.readV (c : Ctx) (r : BitVec 6) : BitVec 4096 :=
  c.vregs[r.toNat % 32]'(Nat.mod_lt _ (by decide))

/-- V[r] := v. -/
def Ctx.writeV (c : Ctx) (r : BitVec 6) (v : BitVec 4096) : Ctx :=
  { c with vregs := c.vregs.set (r.toNat % 32) v (Nat.mod_lt _ (by decide)) }

/-- trapctl.MODE: supervisor (R390). -/
def Ctx.super (c : Ctx) : Bool := c.csrs.trapctl.getLsbD 0

/-- trapctl.NTF (R396). -/
def Ctx.ntf (c : Ctx) : Bool := c.csrs.trapctl.getLsbD 3

/-- OR flags into fcsr [5:0] (R140). -/
def Ctx.orFlags (c : Ctx) (f : BitVec 6) : Ctx :=
  { c with csrs := { c.csrs with fcsr := c.csrs.fcsr ||| f.setWidth 64 } }

/-- Open a region at entry with every register live (R53). -/
def Ctx.boundary (c : Ctx) (entry : Word) : Ctx :=
  { c with region := { entry := entry, lcnt := c.csrs.lcnt, lbeg := c.csrs.lbeg, lend := c.csrs.lend,
                       fcsr := c.csrs.fcsr } }

/-! ## Where a physical address lies (R112, R113, R378) -/

/-- The slice of a physical byte address within any die (R112). -/
def sliceOf (a : Nat) : Nat :=
  let l := (a >>> 7) % 2 ^ 33
  (List.range 10).foldl (fun x j => Nat.xor x (bits l (4 * j + 3) (4 * j))) 0

/-- Stack of a physical byte address (R113). -/
def State.stackOf (s : State) (a : Nat) : Nat :=
  match s.stackList with
  | [] => 0
  | l => l.getD ((a >>> 12) % l.length) 0

/-- Home die of a physical byte address: that of its stack, or during SRAM-only service of its slice (R113, R378). -/
def State.homeDie (s : State) (a : Nat) : Nat := if s.regs.full then s.stackOf a / 3 else a / 402653184 % 4

/-- The slice of a line within a die (R112), and where the line lies during SRAM-only service (R378). -/
def State.sliceIn (s : State) (a : Nat) : Nat := if s.regs.full then sliceOf a else a % 402653184 / 128 % 16

/-! ## CSRs (R8, R169) -/

/-- Is a vshape value valid (R226)? -/
def vshapeOk (v : Word) : Bool :=
  let cols := if Wbits v 17 12 = 0 then 64 else Wbits v 17 12
  Wbits v 63 18 == 0 && !v.getLsbD 5 && decide (Wbits v 4 0 ≤ 18) && decide ((Wbits v 11 6 + 1) * cols ≤ 64)

/-- Is an mshape value valid (R251)? -/
def mshapeOk (v : Word) : Bool := decide (Wbits v 3 0 ≤ 6)

/-- trapctl after a supervisor write: STEP and PM are written, NTF is cleared by 1 (R390). -/
def ctlWrite (old v : Word) : Word := (old &&& ~~~(6 : Word) &&& ~~~(v &&& 8)) ||| (v &&& 6)

/-- A write of a CSR that a context's own record holds. -/
def Csrs.write (k : Csrs) (n : Nat) (v : Word) : Csrs :=
  match n with
  | 0x00 => if vshapeOk v then { k with vshape := v } else k
  | 0x01 => if mshapeOk v then { k with mshape := v } else k
  | 0x02 => { k with fcsr := v &&& 0x3F }
  | 0x03 => { k with lcnt := v }
  | 0x04 => { k with lbeg := v }
  | 0x05 => { k with lend := v }
  | 0x06 => { k with wid := v }
  | 0x07 => { k with wfmt := v &&& 0x3FFFFFFFFFF }
  | 0x08 => { k with twt := v }
  | 0x09 => { k with kst := v }
  | 0x0A => { k with sid := v &&& 0xFFFFFFFF }
  | 0x0C => { k with base := v.extractLsb' 0 2, eff := v.extractLsb' 0 2 }
  | 0x10 => { k with trapcause := v &&& 0x3F01FFFF }
  | 0x11 => { k with trappc := v }
  | 0x12 => { k with trapval := v }
  | 0x13 => { k with trapctl := ctlWrite k.trapctl v }
  | _ => k

/-- A 1 at bit i for every i below n for which the test holds. -/
def bitsWhere (n : Nat) (p : Nat → Bool) : Nat := (List.range n).foldl (fun x i => if p i then x + 2 ^ i else x) 0

end Sys2Proof.Machine
end

