-- ==== Sys2Proof/Machine/Task.lean ====
section
/-!
DEFINITION. Tasks from creation to their end: the error log and notifications (R396, R424), keystones (R46 to R50),
command-chain completion (R362), starting states (R42), the task yard and herd slots (R306, R364 to R366), BARV
instances (R51), save areas (R55, R370), futures (R171 to R173, R401), EXIT's and kill's common part (R195, R395).
-/

namespace Sys2Proof.Machine

/-! ## Error log and notifications -/

/-- Append a record to the error log ring (R424). -/
def State.logRec (s : State) (cause ukind unit : Nat) (ident : BitVec 24) (addr info : Word) : State :=
  let w0 := s.log.next * 2 ^ 32 + cause * 2 ^ 24 + ukind * 2 ^ 20 + unit
  let w1 := ident.toNat * 2 ^ 40 + s.cycle % 2 ^ 40
  { s with log := { s.log with next := (s.log.next + 1) % 2 ^ 32,
                               recs := aset s.log.recs (s.log.next % 4096) [wordOfNat w0, wordOfNat w1, addr, info] } }

/-- Lowest-numbered cluster in service among those for which the test holds. -/
def State.lowestCluster (s : State) (p : Nat → Bool) : Option Nat :=
  (List.range 16).find? (fun c => (s.cluster c).inService && p c)

/-- Physical byte address of a cluster's trap block (R394). -/
def State.trapBlock (s : State) (cl : Nat) : Nat := (s.cluster cl).sva.toNat * 2 ^ 26 + 1025 * 32768

/-- Deliver a notification through a cluster's trap block (R396). -/
def State.notify (s : State) (cl : Nat) : State :=
  let w := s.phys (s.trapBlock cl + 8)
  let n := Wbits w 12 0
  if w.getLsbD 63 && clusterOf n == cl && !isMemCtx n then
    s.modCtx n (fun c => { c with csrs := { c.csrs with trapctl := c.csrs.trapctl ||| 8 } })
  else s

/-- Notify through an optional cluster. -/
def State.notifyOpt (s : State) : Option Nat → State
  | none => s
  | some cl => s.notify cl

/-- Notify for a unit of a die (R396). -/
def State.notifyDie (s : State) (d : Nat) : State := s.notifyOpt (s.lowestCluster (fun c => c / 4 == d))

/-- Notify for a package-level unit (R396). -/
def State.notifyPkg (s : State) : State := s.notifyOpt (s.lowestCluster (fun _ => true))

/-- The cluster whose trap block serves a context: its own, or for a memory core the lowest-numbered in service on its
die (R394). -/
def State.blockCluster (s : State) (cx : Nat) : Option Nat :=
  if isMemCtx cx then s.lowestCluster (fun c => c / 4 == dieOf cx) else some (clusterOf cx)

/-- Notify for a context (R396). -/
def State.notifyCtx (s : State) (cx : Nat) : State := s.notifyOpt (s.blockCluster cx)

/-- A word of memory that cannot be read: in the HBM stack, or in SRAM-only service in its slice; the record names the identity
and the address as issued, and notifies (R396, R413, R424). -/
def State.damagedRec (s : State) (a : Nat) (ident : BitVec 24) (addr : Word) : State :=
  if s.regs.full then (s.logRec 0x23 5 (s.stackOf a) ident (wordOfNat a) addr).notifyDie (s.stackOf a / 3)
  else (s.logRec 0x21 2 (16 * s.homeDie a + s.sliceIn a) ident (wordOfNat a) addr).notifyDie (s.homeDie a)

/-- The place of R74 at which a store to a key is performed, as a record names it: the bank of a window, the L1D of a core, or the
slice of a die. -/
def State.placeUnit (s : State) (key die : Nat) (l1 : Option Nat) : Nat × Nat :=
  if windowBase ≤ key then (4, (key - windowBase) / 2 ^ 20 % 1024)
  else match l1 with
    | some core => (3, core)
    | none => (2, 16 * die + s.sliceIn key)

/-- A store on a poisoned word is not performed: the record names the place that dropped it, and notifies (R396, R422, R424). -/
def State.droppedRec (s : State) (key : Nat) (addr : Word) (die : Nat) (l1 : Option Nat) : State :=
  let u := s.placeUnit key die l1
  let s := s.logRec 0x25 u.1 u.2 0 (wordOfNat key) addr
  if u.1 = 2 then s.notifyDie die else s.notify (u.2 / 64)

/-! ## Command-chain completion (R361, R362) -/

/-- Take complete records off the front: the new list, how many count toward the completion point, and the last SEQ. -/
def popDone (start : Nat) : List (Nat × BitVec 32 × Bool) → Nat × Option (BitVec 32) → List (Nat × BitVec 32 × Bool) × Nat × Option (BitVec 32)
  | [], (n, q) => ([], n, q)
  | (k, seq, done) :: rest, (n, q) =>
    if done then popDone start rest (if start ≤ k then n + 1 else n, some seq) else ((k, seq, done) :: rest, n, q)

/-- Let the completion point rise; a rise writes the SEQ of the last record to the completion word and CSEQ (R362). -/
def State.settleChain (s : State) (n : Nat) : State :=
  let ch := s.chain n
  match popDone ch.start ch.recs (0, none) with
  | (_, _, none) => s
  | (recs, rose, some seq) =>
    (s.modChain n (fun c => { c with recs := recs, point := c.point + rose, cseq := seq })).setPhys (ch.wb.toNat * 8)
      (seq.setWidth 64)

/-- A command record completes. -/
def State.completeRec (s : State) (n key : Nat) : State :=
  (s.modChain n (fun c => { c with recs := c.recs.map (fun r => if r.1 = key then (r.1, r.2.1, true) else r) })).settleChain n

/-- A launch completes: its LAUNCH record does (R361), and nothing is kept of the launch but its tasks' barriers. -/
def State.launchDone (s : State) (l : Nat) : State :=
  match aget s.launches l with
  | none => s
  | some la =>
    if la.done then s
    else ({ s with launches := aset s.launches l { la with done := true } }).completeRec la.chain la.recNo

/-! ## Keystones (R46 to R50) -/

/-- Handle of keystone slot i of a cluster, and of a memory core (R46, R60). -/
def keyHandle (cl i : Nat) : Nat := 0x8000 + 64 * cl + i
def keyHandleMem (mc i : Nat) : Nat := 0x8400 + 8 * mc + i

/-- Lowest free keystone handle of the pool of a context. -/
def State.freeKey (s : State) (cx : Nat) : Option Nat :=
  if isMemCtx cx then ((List.range 8).map (keyHandleMem (memCoreOf cx))).find? (fun h => (aget s.keystones h).isNone)
  else ((List.range 64).map (keyHandle (clusterOf cx))).find? (fun h => (aget s.keystones h).isNone)

/-- Free or report a keystone whose weight has all returned: an orphan is freed by hardware, a launch's completes the
launch (R46, R47). -/
def State.keySettle (s : State) (k : Nat) : State :=
  match aget s.keystones k with
  | none => s
  | some K =>
    if K.returned = K.issued then
      match K.launch with
      | some l => ({ s with keystones := adel s.keystones k }).launchDone l
      | none => if K.orphan then { s with keystones := adel s.keystones k } else s
    else s

/-- Return weight to a keystone (R46, R48). -/
def State.keyReturn (s : State) (k : Nat) (w : Word) : State :=
  ({ s with keystones := amod s.keystones k (fun K => { K with returned := K.returned + w }) }).keySettle k

/-- Raise `issued`, after the rebase of R48 where it would pass 2^64 − 1; none where even that does not suffice. -/
def keyGrant (K : Keystone) (amount : Nat) : Option Keystone :=
  if K.issued.toNat + amount < 2 ^ 64 then some { K with issued := K.issued + wordOfNat amount }
  else
    let K' := { K with issued := K.issued - K.returned, returned := 0 }
    if K'.issued.toNat + amount < 2 ^ 64 then some { K' with issued := K'.issued + wordOfNat amount } else none

/-- Grant weight from a keystone in the state. -/
def State.keyIssue (s : State) (k : Nat) (amount : Nat) : Option State :=
  match aget s.keystones k with
  | none => some s
  | some K =>
    match keyGrant K amount with
    | none => none
    | some K' => some { s with keystones := aset s.keystones k K' }

/-- Split a weight for a new task (R46, R50): the draw at weight 1, then the child's half. Answers the state, the
creator's new weight and the child's; none when the draw would overflow. -/
def State.splitWeight (s : State) (kst twt : Word) : Option (State × Word × Word) :=
  if kst = 0 then some (s, twt, 0)
  else if twt = 1 then
    match s.keyIssue kst.toNat (2 ^ 32) with
    | none => none
    | some s' => let t := twt + 0x100000000; some (s', t - t / 2, t / 2)
  else some (s, twt - twt / 2, twt / 2)

/-- EXIT's unwinding: give back the saved parent weights of the task's own keystones, newest first, and leave each to be
freed once its weight has returned (R46). -/
def unwindKeys : List Nat → Nat → State → State
  | [], _, s => s
  | k :: ks, kst, s =>
    if kst = k then
      let K := (aget s.keystones k).getD {}
      let s1 := s.keyReturn K.pkst.toNat K.pwt
      let s2 := ({ s1 with keystones := amod s1.keystones k (fun K => { K with orphan := true }) }).keySettle k
      unwindKeys ks K.pkst.toNat s2
    else s

/-! ## Identities (R101, R102) -/

/-- Physical byte address of an identity's entry in the package's directory (R102). -/
def State.identEntry (s : State) (ident : BitVec 24) : Nat := s.regs.iddb.toNat * 2 ^ 27 + 8 * ident.toNat

/-- Clearance base of an identity, from its directory entry; an entry that cannot be read gives none (R413). -/
def State.clearance (s : State) (ident : BitVec 24) : Option Nat :=
  let e := s.phys (s.identEntry ident)
  if s.poisoned (s.identEntry ident) then none else if e.getLsbD 0 then some (Wbits e 39 17 * 2 ^ 17) else none

/-- The record of an identity's entry that cannot be read (R413). -/
def State.identRead (s : State) (ident : BitVec 24) : State :=
  if s.poisoned (s.identEntry ident) then s.damagedRec (s.identEntry ident) ident 0 else s

/-! ## The task yard (R364 to R366) -/

/-- Free records of a cluster's yard, the corbel record not counted (R365). -/
def Cluster.freeRecs (c : Cluster) : Nat := 1024 - (c.yard.filter (fun r => decide (r.1 < 1024))).length

/-- Threshold of the class in which a queue takes yard records, by queue number (R365, R373): the dispatcher 0, the tile
generator 1, the mason 2, the stream processor 3. -/
def yardThreshold : Nat → Nat
  | 0 => 256
  | 1 => 32
  | _ => 0

/-- Free a yard record of a cluster: the corbel record's grant ends with it (R374), and so do the waits for records that the
thresholds now allow. -/
def Cluster.freeRec (c : Cluster) (yr : Nat) : Cluster :=
  let free := c.freeRecs + b2n (yr < 1024)
  { c with yard := adel c.yard yr, grants := if yr = 1024 then c.grants.filter (fun g => decide (4 ≤ g)) else c.grants
           waits := c.waits.filter (fun w => !(w.dst == 4 && decide (yardThreshold w.src < free)) && w.src != 4) }

/-- The lowest free record number below n (log 19). -/
def lowestFree {α : Type} (m : Assoc α) (n : Nat) : Option Nat := (List.range n).find? (fun k => (aget m k).isNone)

/-- A record for the next entry of a queue in its class, or the corbel record where it is granted to the queue (R365,
R374). -/
def Cluster.recordFor (c : Cluster) (threshold queue : Nat) : Option Nat :=
  if threshold < c.freeRecs then lowestFree c.yard 1024
  else if c.grants.contains queue && (aget c.yard 1024).isNone then some 1024 else none

/-- The grant of the corbel record is for the next entry of a queue: one that takes an ordinary record ends it (R374, log 53). -/
def Cluster.spendGrant (c : Cluster) (queue yr : Nat) : Cluster :=
  if yr < 1024 then { c with grants := c.grants.filter (fun g => g != queue) } else c

/-- May a source of a class take a record in this cycle: none of a lower class has (R365)? -/
def Cluster.mayTake (c : Cluster) (cycle rank : Nat) : Bool := c.took.1 != cycle || decide (rank ≤ c.took.2)

/-- A source of a class takes a record (R365). -/
def State.take (s : State) (cl rank : Nat) : State := s.modCluster cl (fun c => { c with took := (s.cycle, rank) })

/-- Is a queue's place beyond its bound granted to this task (R373, R374)? Grants of records are queue numbers below 4; those
of a place are 4 for the tile generator, 34 for the mason and 35 for the stream processor, with the task's name times 64. -/
def Cluster.placeFor (c : Cluster) (queue uid : Nat) : Bool := c.grants.contains (queue + 64 * uid)

/-- The place beyond a queue's bound is free again, and its waits are over. -/
def Cluster.placeFree (c : Cluster) (queue dst : Nat) : Cluster :=
  { c with grants := c.grants.filter (fun g => g % 64 != queue), waits := c.waits.filter (fun w => w.dst != dst) }

/-- Place a task in a record of the yard of context rep's cluster or memory core. -/
def State.placeRec (s : State) (rep yr : Nat) (r : YRec) : State := s.setYardOf rep (aset (s.yardOf rep) yr r)

/-- Take a name for a new task. -/
def State.newUid (s : State) : Nat × State := (s.nextUid, { s with nextUid := s.nextUid + 1 })

/-- The starting state common to every task (R42): full registers, zero but for s1 and s61, every register live. -/
def startCtx (pc s1 s61 : Word) (csrs : Csrs) : Ctx :=
  let c : Ctx := { pc := pc, csrs := csrs }
  ((c.writeS 1 s1).writeS 61 s61).boundary pc

/-! ## Herd slots (R305, R306) -/

/-- The words of a herd slot record (R306). -/
def herdRecord (g : Group) (ids : List (BitVec 32)) : List Word :=
  let w0 := g.p.toNat * 2 ^ 32 + g.l.toNat * 2 ^ 16 + ids.length
  let rec pairs : List (BitVec 32) → List Word
    | [] => []
    | [x] => [x.setWidth 64]
    | x :: y :: rest => wordOfNat (x.toNat + y.toNat * 2 ^ 32) :: pairs rest
  wordOfNat w0 :: g.ident.setWidth 64 :: pairs ids

/-- Is the stream with this id live in the cluster? -/
def StreamProc.find (sp : StreamProc) (id : BitVec 32) : Option (Nat × StreamCtx) :=
  match aget sp.ctxs (id.toNat % 4096) with
  | none => none
  | some c => if c.state != .free && c.id == id && id != 0 then some (id.toNat % 4096, c) else none

/-- The members of a group that are HERDED in it at this moment. -/
def herdedOf (sp : StreamProc) (g : Group) : List (BitVec 32) :=
  g.members.filter (fun id => match sp.find id with
    | some (_, c) => c.state == .herded && c.herd == some g.num
    | none => false)

/-- Give free herd slots to the closed groups that wait, in order of closure: the slot's record is written, and lists the
members that are still HERDED in the group (R306). -/
def giveSlots (cl : Nat) : Nat → State → State
  | 0, s => s
  | n + 1, s =>
    let C := s.cluster cl
    let sp := C.streams
    match sp.closure with
    | [] => s
    | g :: rest =>
      let ids := herdedOf sp g
      if ids.isEmpty then giveSlots cl n (s.modCluster cl (fun c => { c with streams := { c.streams with closure := rest } }))
      else
        match lowestFree sp.slots 4096 with
        | none => s
        | some k =>
          let prio := ids.foldl (fun (p : BitVec 2) id => match sp.find id with
            | some (_, c) => if p.toNat < c.prio.toNat then c.prio else p
            | none => p) 0
          let s := s.modCluster cl (fun c => { c with streams := { c.streams with
            closure := rest, slots := aset c.streams.slots k { g with members := ids, prio := prio }, herdq := c.streams.herdq ++ [k] } })
          giveSlots cl n (s.setPhysWords (C.shtb.toNat * 2 ^ 23 + 2048 * k) (herdRecord g ids))

/-- The starting state of the herd task of slot k of a cluster (R306). -/
def State.herdCtx (s : State) (cl k : Nat) (g : Group) : Ctx :=
  let csrs : Csrs := { wid := wordOfNat k, wfmt := 12, sid := (g.members.headD 0).setWidth 64, ident := g.ident, base := g.prio, eff := g.prio }
  { startCtx g.entry (wordOfNat (8 * ((s.cluster cl).shtv.toNat * 2 ^ 23 + 2048 * k))) g.args csrs with cbase := s.clearance g.ident }

/-- Place the herd tasks that wait for a yard record, in order, while class H allows: not in a cycle in which a lower class has
taken one (R365, log 97). -/
def placeHerds (cl : Nat) : List Nat → State → State
  | [], s => s.modCluster cl (fun c => { c with streams := { c.streams with herdq := [] } })
  | k :: rest, s =>
    match aget (s.cluster cl).streams.slots k with
    | none => placeHerds cl rest s
    | some g =>
      match (if (s.cluster cl).mayTake s.cycle 3 then (s.cluster cl).recordFor 0 3 else none) with
      | none => s.modCluster cl (fun c => { c with streams := { c.streams with herdq := k :: rest } })
      | some yr =>
        let (uid, s) := s.newUid
        let s := s.identRead g.ident
        let c := { s.herdCtx cl k g with uid := uid, yr := yr }
        let r : YRec := { uid := uid, kind := .herd, base := g.prio, place := .fresh c, since := s.cycle, elig := s.cycle, stack := g.stack, slot := some k }
        placeHerds cl rest (((s.take cl 3).modCluster cl (fun c => c.spendGrant 3 yr)).placeRec (cl * 512) yr r)

/-- Serve the closed groups of a cluster with slots and yard records; while it is drained, herding stops (R383). -/
def State.serveHerds (s : State) (cl : Nat) : State :=
  if (s.cluster cl).drained then s
  else
    let t := giveSlots cl (s.cluster cl).streams.closure.length s
    if (t.cluster cl).streams.herdq.isEmpty then t else placeHerds cl (t.cluster cl).streams.herdq t

/-- A herd task ends: its slot is freed and the members still HERDED under it become IDLE (R195, R306). -/
def State.freeHerd (s : State) (cl : Nat) : Option Nat → State
  | none => s
  | some k =>
    match aget (s.cluster cl).streams.slots k with
    | none => s
    | some g =>
      s.modCluster cl (fun c => { c with streams := { c.streams with
        slots := adel c.streams.slots k
        ctxs := c.streams.ctxs.map (fun x =>
          if x.2.state == .herded && x.2.herd == some g.num then (x.1, { x.2 with state := .idle, herd := none }) else x) } })

/-! ## BARV instances (R51) -/

/-- Does a task of the cluster's yard with this name exist? -/
def Cluster.alive (c : Cluster) (uid : Nat) : Bool := c.yard.any (fun r => r.2.uid == uid && r.2.kind != .tile)

/-- Has every participant of the instance joined or exited (R51)? At sc.cluster and wider these are the launch's tasks, below
that the members of the scope instance. -/
def State.barrierDone (s : State) (cl : Nat) (b : Barrier) : Bool :=
  let C := s.cluster cl
  match b.launch with
  | some l =>
    match aget s.launches l with
    | none => true
    | some la => (b.joined.filter C.alive).length + la.exited == la.total
  | none => C.members.all (fun m => !(m.1 == b.scope && m.2.1 == b.inst) || !C.alive m.2.2 || b.joined.contains m.2.2)

/-- Complete the instances of a cluster whose participants have all joined or exited. -/
def State.settleBarriers (s : State) (cl : Nat) : State :=
  s.modCluster cl (fun c => { c with barriers := c.barriers.map (fun b =>
    if b.result.isNone && s.barrierDone cl b then { b with result := some b.vote } else b) })

/-! ## Futures (R171 to R173, R401) -/

/-- The handles of the operations of a cluster's engines. -/
def Cluster.handles (c : Cluster) : List Word :=
  c.gen.map (·.handle) ++ c.copies.map (·.handle) ++ c.streams.queue.map (·.handle) ++ c.streams.out.map (·.handle) ++
    c.events.queue.map (·.handle) ++ c.events.runs.map (·.handle) ++ c.events.unloads.flatMap (·.handles) ++
    c.mason.queue.map (·.handle) ++ (match c.mason.run with | some r => r.job.handle :: r.stops | none => [])

/-- The handles of the futures that are pending (R173). -/
def State.handles (s : State) : List Word :=
  s.clusters.toList.flatMap (·.handles) ++ s.mcores.flatMap (fun m => m.2.copies.map (·.handle)) ++
    s.dies.toList.flatMap (fun d => d.groups.map (·.handle)) ++ s.pins.map (·.handle) ++ s.moves.map (·.handle)

/-- The handle with a number (R173). -/
def State.handleOf (s : State) (kind cx n : Nat) : Word :=
  wordOfNat (kind * 2 ^ 60 + s.sys.self * 2 ^ 48 + (cx % 8192) * 2 ^ 32 + n % 2 ^ 32)

/-- The number of the next handle: the first from nextHandle on that no pending future has (R173, log 4). -/
def State.handleNum (s : State) (kind cx : Nat) : Nat :=
  let l := s.handles
  s.nextHandle + ((List.range (l.length + 1)).find? (fun k => !l.contains (s.handleOf kind cx (s.nextHandle + k)))).getD 0

/-- The handle of a new future (R173). -/
def State.newHandle (s : State) (kind cx : Nat) : Word × State :=
  let n := s.handleNum kind cx
  (s.handleOf kind cx n, { s with nextHandle := n + 1 })

/-- Make full the empty register of a context that holds the handle. -/
def Ctx.resolve (c : Ctx) (handle v : Word) (fail : Bool) : Ctx :=
  { c with sregs := c.sregs.map (fun r => if !r.full && r.val == handle then { val := v, full := true, fail := fail } else r) }

/-- Physical byte address of the save area of a yard record (R370). -/
def Cluster.saveArea (c : Cluster) (yr : Nat) : Nat := c.sva.toNat * 2 ^ 26 + 32768 * yr

/-- Make full the empty register of a suspended task whose save area holds the handle (R171, R370). -/
def State.resolveSaved (s : State) (base : Nat) (handle v : Word) (fail : Bool) : State :=
  let fe := s.phys (base + 0x18)
  match (List.range 64).find? (fun i => !fe.getLsbD i && s.phys (base + 0x200 + 8 * i) == handle) with
  | none => s
  | some i =>
    let s := (s.setPhys (base + 0x200 + 8 * i) v).setPhys (base + 0x18) (fe ||| wordOfNat (2 ^ i))
    if fail then s.setPhys (base + 0xD0) (s.phys (base + 0xD0) ||| wordOfNat (2 ^ i)) else s

/-- Resolve a future in the suspended tasks of one cluster's yard. -/
def resolveYard (sva : Cluster) (handle v : Word) (fail : Bool) : Assoc YRec → State → State
  | [], s => s
  | (k, r) :: rest, s =>
    resolveYard sva handle v fail rest
      (match r.place with
       | .suspended => s.resolveSaved (sva.saveArea k) handle v fail
       | _ => s)

/-- Resolve a future in the suspended tasks of the clusters below n. -/
def resolveClusters (handle v : Word) (fail : Bool) : Nat → State → State
  | 0, s => s
  | n + 1, s => resolveYard (s.cluster n) handle v fail (s.cluster n).yard (resolveClusters handle v fail n s)

/-- Resolve a future in a record of a memory core's firmware yard. -/
def YRec.resolve (r : YRec) (handle v : Word) (fail : Bool) : YRec :=
  match r.place with
  | .kept c => { r with place := .kept (c.resolve handle v fail) }
  | _ => r

/-- Resolve a future wherever its register is: in a running task, or in a suspended one (R171). -/
def State.resolve (s : State) (handle v : Word) (fail : Bool) : State :=
  let s1 : State := { s with ctxs := s.ctxs.map (fun (x : Nat × Ctx) => (x.1, x.2.resolve handle v fail)) }
  let s2 := resolveClusters handle v fail 16 s1
  { s2 with mcores := s2.mcores.map (fun (m : Nat × MemCore) =>
      (m.1, { m.2 with yard := m.2.yard.map (fun (r : Nat × YRec) => (r.1, r.2.resolve handle v fail)) })) }

/-- The failure word (R401, R428). -/
def failureWord (kind why : Nat) (info : Nat) : Word := wordOfNat (kind * 2 ^ 60 + why * 2 ^ 52 + info % 2 ^ 52)

/-! ## Suspension and resumption (R55, R370) -/

/-- CSR number n as a save area holds it: loop CSRs and fcsr are the shadows, cycle and ctxid 0 (R370). -/
def savedCsr (c : Ctx) : Nat → Word
  | 0x00 => c.csrs.vshape
  | 0x01 => c.csrs.mshape
  | 0x02 => c.region.fcsr
  | 0x03 => c.region.lcnt
  | 0x04 => c.region.lbeg
  | 0x05 => c.region.lend
  | 0x06 => c.csrs.wid
  | 0x07 => c.csrs.wfmt
  | 0x08 => c.csrs.twt
  | 0x09 => c.csrs.kst
  | 0x0A => c.csrs.sid
  | 0x0B => c.csrs.ident.setWidth 64
  | 0x0C => (c.csrs.base ++ c.csrs.base : BitVec 4).setWidth 64
  | 0x10 => c.csrs.trapcause
  | 0x11 => c.csrs.trappc
  | 0x12 => c.csrs.trapval
  | 0x13 => c.csrs.trapctl
  | _ => 0

/-- The watchdog count of a counted wait in progress, and the instruction that waits; else the count carried on (R402). -/
def Ctx.watch (c : Ctx) (cycle : Nat) : Nat × Word :=
  match c.wait with
  | some w => if w.kind = .other then c.carry.getD (0, 0) else (w.base + (cycle - w.since), w.pc)
  | none => c.carry.getD (0, 0)

/-- The cycles from one on do not count in the wait of a context (R402). -/
def Ctx.skip (c : Ctx) (first cycle : Nat) : Ctx :=
  { c with wait := c.wait.map (fun w => { w with since := w.since + (cycle - max w.since first) }) }

/-- A context with its wait as the watchdog counts it: not in the cycles in which its cluster is drained (R402). -/
def State.counted (s : State) (cx : Nat) : Ctx :=
  if !isMemCtx cx && (s.cluster (clusterOf cx)).drained then (s.ctx cx).skip (s.cluster (clusterOf cx)).drainedAt s.cycle else s.ctx cx

/-- The context as it resumes from its region entry: only live-in registers keep their values (R55). -/
def Ctx.discard (c : Ctx) (cycle : Nat) : Ctx :=
  let sregs := Vector.ofFn (fun (i : Fin 64) => if c.region.smask.getLsbD i.val || i.val == 0 then c.sregs[i] else {})
  let vregs := Vector.ofFn (fun (i : Fin 32) => if c.region.vmask.getLsbD i.val then c.vregs[i] else 0)
  let w := c.watch cycle
  { c with pc := c.region.entry, sregs := sregs, vregs := vregs, wait := none, pause := .none,
           carry := if w.1 = 0 then none else some w,
           csrs := { c.csrs with lcnt := c.region.lcnt, lbeg := c.region.lbeg, lend := c.region.lend,
                                 fcsr := c.region.fcsr, eff := c.csrs.base } }

/-- Does writing the save area of a context write the word at this offset (R370)? -/
def Ctx.saves (c : Ctx) (o : Nat) : Bool :=
  if o < 0xE8 then true
  else if o < 0x100 then false
  else if o < 0x138 then c.range.isSome
  else if o < 0x200 then false
  else if o < 0x400 then c.region.smask.getLsbD ((o - 0x200) / 8) && decide (0x208 ≤ o)
  else decide (o < 0x4400) && c.region.vmask.getLsbD ((o - 0x400) / 512)

/-- Write the save area of a context (R55, R370): live-in registers only; the other bytes keep their content. -/
def State.writeSave (s : State) (base : Nat) (c : Ctx) : State :=
  let m := memSetWords s.mem base
    [c.region.entry, c.region.smask, c.region.vmask.setWidth 64,
     wordOfNat (bitsWhere 64 (fun i => !c.region.smask.getLsbD i || (c.sregs.getD i {}).full || i == 0)),
     wordOfNat c.rcount, (match c.cbase with | some a => wordOfNat (a * 8) | none => 0xFFFFFFFFFFFFFFFF)]
  let m := memSetWords m (base + 0x30) ((List.range 0x14).map (savedCsr c))
  let w := c.watch s.cycle
  let m := memSetWords m (base + 0xD0)
    [wordOfNat (bitsWhere 64 (fun i => (c.sregs.getD i {}).fail)), wordOfNat w.1, w.2]
  let m := match c.range with
    | none => m
    | some r => memSetWords m (base + 0x100) [r.cur, r.hi, r.arg, r.s61, r.wid, r.vshape, r.entry]
  let m := (List.range 64).foldl (fun m i =>
    if c.region.smask.getLsbD i && i != 0 then memSet m (base + 0x200 + 8 * i) (c.sregs.getD i {}).val else m) m
  let m := (List.range 32).foldl (fun m j =>
    if c.region.vmask.getLsbD j then
      memSetWords m (base + 0x400 + 512 * j) ((List.range 64).map (fun i => (c.vregs.getD j 0).extractLsb' (64 * i) 64))
    else m) m
  { s with mem := m, poison := s.poison.filter (fun k => !(decide (base ≤ k) && c.saves (k - base))) }

/-- Read a save area back as the context of the resuming task (R55, R370); reserved bits and values of a CSR do not come
back (R8). -/
def State.readSave (s : State) (base : Nat) (kind : TaskKind) : Ctx :=
  let w (k : Nat) : Word := s.phys (base + k)
  let csr (n : Nat) : Word := w (0x30 + 8 * n)
  let smask := w 0x08
  let vmask := (w 0x10).setWidth 32
  let fe := w 0x18
  let fb := w 0xD0
  let sregs := Vector.ofFn (fun (i : Fin 64) =>
    if smask.getLsbD i.val && i.val != 0 then
      { val := w (0x200 + 8 * i.val), full := fe.getLsbD i.val, fail := fb.getLsbD i.val : SReg }
    else {})
  let vregs := Vector.ofFn (fun (j : Fin 32) =>
    if vmask.getLsbD j.val then BitVec.ofNat 4096 (memBytes s.mem 512 (base + 0x400 + 512 * j.val)) else 0)
  let entry := w 0 &&& ~~~(0xF : Word)
  { pc := entry, sregs := sregs, vregs := vregs
    csrs := { (List.range 0x13).foldl (fun (k : Csrs) n => k.write n (csr n)) {} with
              ident := (csr 0x0B).setWidth 24, trapctl := csr 0x13 &&& 0xFF }
    region := { entry := entry, smask := smask, vmask := vmask, lcnt := csr 0x03, lbeg := csr 0x04, lend := csr 0x05, fcsr := csr 0x02 &&& 0x3F }
    range := if kind = .range then some { cur := w 0x100, hi := w 0x108, arg := w 0x110, s61 := w 0x118, wid := w 0x120, vshape := if vshapeOk (w 0x128) then w 0x128 else 0, entry := w 0x130 } else none
    rcount := Wbits (w 0x20) 9 0
    cbase := if w 0x28 = 0xFFFFFFFFFFFFFFFF then none else some ((w 0x28).toNat / 8)
    carry := if w 0xD8 = 0 then none else some ((w 0xD8).toNat, w 0xE0) }

/-- The bounded queue at which a context waits at issue, as its wait record codes it; 0 for none. -/
def Ctx.waitq (c : Ctx) : Nat :=
  match c.wait with
  | some w => if w.kind = .other then w.what.toNat else 0
  | none => 0

/-- The task of a context leaves it for the yard (R55): its state is saved, as its region's entry has it, and it returns at its
base priority with its age kept. -/
def State.park (s : State) (cx : Nat) : State :=
  let c := s.counted cx
  let r := s.recOf cx
  let place := if isMemCtx cx then .kept (c.discard s.cycle) else .suspended
  let s := if isMemCtx cx then s else s.writeSave ((s.cluster (clusterOf cx)).saveArea c.yr) c
  let s := s.placeRec cx c.yr { r with base := c.csrs.base, place := place, since := s.cycle, waitq := c.waitq }
  { s with ctxs := adel s.ctxs cx, net := { s.net with fwds := s.net.fwds.filter (fun f => f.uid != c.uid) } }

/-- Pre-empt the task of a context: its region is discarded (R55, R407). -/
def State.suspend (s : State) (cx : Nat) : State := ((s.park cx).count (coreOf cx) 6).count (coreOf cx) 7

/-- The state a task takes a context with: its starting state or its saved one (R42, R55, R281). -/
def State.entering (s : State) (cx yr : Nat) (r : YRec) : Option Ctx :=
  let own (c : Ctx) : Ctx := { c with yr := yr, uid := r.uid, since := s.cycle, taken := s.cycle }
  match r.place with
  | .fresh c =>
    let C := s.cluster (clusterOf cx)
    let top := 8 * (C.stkaBase.toNat * 2 ^ 16 + (cx % 512 + 1) * C.stkaSlot.toNat * 4096)
    some (own (if r.stack = 0 || isMemCtx cx then c else c.writeS 62 (wordOfNat top)))
  | .suspended =>
    let c := s.readSave ((s.cluster (clusterOf cx)).saveArea yr) r.kind
    some { own c with drain := true }
  | .kept c => some { own c with drain := true }
  | _ => none

/-- Give a context to the task of a yard record. -/
def State.giveCtx (s : State) (cx yr : Nat) : State :=
  match aget (s.yardOf cx) yr with
  | none => s
  | some r =>
    match s.entering cx yr r with
    | none => s
    | some c => (s.placeRec cx yr { r with place := .running cx, age := r.age + (s.cycle - r.since), waitq := 0 }).setCtx cx c

/-! ## Remote stores (R117, R280) -/

/-- Perform one word of a remote store; a partial write of a poisoned word is not performed and is logged (R422). -/
def State.performWord (s : State) (r : RStore) (key : Nat) (mask val : Word) : State :=
  match s.putWord key mask val with
  | (s, false) => s
  | (s, true) => s.droppedRec key r.addr (r.dst / 16 % 4) (if r.l1 then some (coreOf r.cx) else none)

/-- Perform a remote store at its place (R280), with the second word of an STFE and the granules it makes full (R208). -/
def State.performStore (s : State) (r : RStore) : State :=
  let s := s.performWord r r.key r.mask r.val
  (match r.more with
   | none => s
   | some (k, m, v) => s.performWord r k m v).fillGrans r.fill

/-- Perform every remote store of the list that satisfies the test, oldest first, marking it done. -/
def performWhere (p : RStore → Bool) : List RStore → State → List RStore × State
  | [], s => ([], s)
  | r :: rest, s =>
    let go := p r && !r.done && r.req.isNone
    let s1 := if go then s.performStore r else s
    let (rs, s2) := performWhere p rest s1
    ((if go then { r with done := true } else r) :: rs, s2)

/-- Perform the pending remote stores that satisfy the test. -/
def State.flush (s : State) (p : RStore → Bool) : State :=
  let (rs, s') := performWhere p s.rstores s
  { s' with rstores := rs }

/-- Lower the remote-store counter of a task, wherever it is (R117). -/
def State.ackTask (s : State) (cx uid n : Nat) : State :=
  match s.ctxs.find? (fun x => x.2.uid == uid) with
  | some x => s.modCtx x.1 (fun c => { c with rcount := c.rcount - n })
  | none =>
    match (s.yardOf cx).find? (fun r => r.2.uid == uid) with
    | none => s
    | some (yr, r) =>
      match r.place with
      | .suspended =>
        let a := (s.cluster (clusterOf cx)).saveArea yr + 0x20
        s.setPhys a (wordOfNat (Wbits (s.phys a) 9 0 - n))
      | .kept c => s.placeRec cx yr { r with place := .kept { c with rcount := c.rcount - n } }
      | _ => s

/-- Perform the flows that hold a store of the kind asked for, each in order: its core to its bank or slice (R110, R111). -/
def State.flushFlows (s : State) (p : RStore → Bool) : State :=
  let flows := (s.rstores.filter p).map (fun r => (coreOf r.cx, r.dst))
  s.flush (fun r => flows.contains (coreOf r.cx, r.dst))

/-- Perform and acknowledge every remote store of a task that this package performs (R395: a kill waits for them). -/
def State.drainTask (s : State) (cx uid : Nat) : State :=
  let s := s.flushFlows (fun r => r.uid == uid)
  let n := (s.rstores.filter (fun r => r.uid == uid && r.done)).length
  ({ s with rstores := s.rstores.filter (fun r => !(r.uid == uid && r.done)) }).ackTask cx uid n

/-! ## The end of a task (R195, R395) -/

/-- A line without its pins: one in state I goes with the last. -/
def L2Line.kept (l : L2Line) : Bool := l.st != .i || !l.pins.isEmpty || !l.fetch.isEmpty

/-- Release every L2 pin of a task and its charge (R86), also of lines in state-page frames (R84). -/
def State.unpinAll (s : State) (uid : Nat) : State :=
  let free (x : Slice) : Slice := { x with frames := x.frames.map (fun f => { f with pins := f.pins.filter (fun p => p.1 != uid) }) }
  { s with caches := { s.caches with l2 := (s.caches.l2.map (fun x => (x.1, { x.2 with pins := x.2.pins.filter (· != uid) }))).filter (fun x => x.2.kept) }
           dies := s.dies.map (fun d => { d with slices := d.slices.map free })
           charges := adel s.charges uid }

/-- What EXIT and kill do with a task once its remote stores are acknowledged: its weight returns and its keystones
unwind, pins, map slots and herd slot are freed, its record is freed, and its launch counts it. -/
def State.retire (s : State) (rep yr : Nat) (r : YRec) (kst twt : Word) : State :=
  let s := if kst = 0 then s else s.keyReturn kst.toNat twt
  let s := unwindKeys r.ksets kst.toNat s
  let s := s.unpinAll r.uid
  if isMemCtx rep then s.setYardOf rep (adel (s.yardOf rep) yr)
  else
    let cl := clusterOf rep
    let s := s.modCluster cl (fun c => { c.freeRec yr with
      maps := c.maps.filter (fun m => m.2.owner != r.uid), members := c.members.filter (fun m => m.2.2 != r.uid), grants := (c.freeRec yr).grants.filter (fun g => g / 64 != r.uid) })
    let s := s.freeHerd cl r.slot
    let s := match r.launch with
      | none => s
      | some l => { s with launches := amod s.launches l (fun la => { la with exited := la.exited + 1 }) }
    (s.settleBarriers cl).serveHerds cl

/-- Kill, once the remote stores are acknowledged (R395): the task ends and a kill record is logged and notified. -/
def State.finishKill (s : State) (cx yr : Nat) (r : YRec) (c : Ctx) : State :=
  let s := s.retire cx yr r c.csrs.kst c.csrs.twt
  let s := s.logRec (Wbits c.csrs.trapcause 7 0) 0 (cx % 8192) c.csrs.ident c.csrs.trapval c.csrs.trappc
  s.notifyCtx cx

/-- Kill the task of a running context (R395): its region is discarded, and where another package still owes acknowledgements its
context waits for them, taking no turn. -/
def State.killRunning (s : State) (cx : Nat) : State :=
  let s := s.drainTask cx (s.ctx cx).uid
  let c := s.ctx cx
  let r := s.recOf cx
  let s := s.count (coreOf cx) 7
  if c.rcount = 0 then ({ s with ctxs := adel s.ctxs cx } : State).finishKill cx c.yr r c
  else
    let s := (s.modRecOf cx (fun r => { r with held := true, dying := true })).setCtx cx { c.discard s.cycle with drain := true }
    { s with net := { s.net with fwds := s.net.fwds.filter (fun f => f.uid != c.uid) } }

/-- Kill the task of a yard record that does not run, or end one that is being killed in its context (R395, R405). -/
def State.killSuspended (s : State) (rep yr : Nat) : State :=
  match aget (s.yardOf rep) yr with
  | none => s
  | some r =>
    let s := s.drainTask rep r.uid
    let c : Ctx := match r.place with
      | .fresh c => c
      | .kept c => c
      | .running cx => s.ctx cx
      | _ => s.readSave ((s.cluster (clusterOf rep)).saveArea yr) r.kind
    if c.rcount = 0 then
      match r.place with
      | .running cx => ({ s with ctxs := adel s.ctxs cx } : State).finishKill cx yr r c
      | _ => s.finishKill rep yr r c
    else s.placeRec rep yr { r with held := true, dying := true }

/-- Hold the task of a running context: suspended, and never given a context until released (R397). -/
def State.holdRunning (s : State) (cx : Nat) : State :=
  let c := s.ctx cx
  let s := (s.modRecOf cx (fun r => { r with held := true })).suspend cx
  (s.logRec 0x09 0 (cx % 8192) c.csrs.ident c.csrs.trapval c.csrs.trappc).notifyCtx cx

end Sys2Proof.Machine
end

