-- ==== Sys2Proof/Machine/Ops.lean ====
section
/-!
DEFINITION. Issuing one instruction (R58, R152, R170, R191, R202): its sources, its completion, the hardware loop, region
boundaries and breakpoints; and taking a trap (R393) with the return from one beside it.
-/

namespace Sys2Proof.Machine

/-- A trap that an instruction takes: cause, detail, lane and value of R392. -/
structure Trap where
  cause : Nat := 0
  detail : Nat := 0
  lane : Nat := 0
  fetch : Bool := false
  val : Word := 0
  deriving DecidableEq, Repr, Inhabited

/-- No cause of R392: the access waits, since its stream is migrating (R311). -/
def Trap.hold : Trap := {}

/-- Live-in masks of a region (R53). -/
abbrev Masks := Word × BitVec 32

/-- Every register live. -/
def allLive : Masks := (0xFFFFFFFFFFFFFFFF, 0xFFFFFFFF)

/-- What the body of an instruction comes to. -/
inductive Res where
  /-- completed; a target where control is transferred; the masks where it is a region boundary (R53, R54) -/
  | done (s : State) (tgt : Option Word) (bdry : Option Masks)
  | trap (s : State) (t : Trap)
  /-- the context waits, and the instruction issues again at a later turn -/
  | wait (s : State) (k : WaitKind) (what : Word)
  /-- the context no longer runs the task -/
  | leave (s : State)

/-- Completed, no transfer, no boundary. -/
def Res.ok (s : State) : Res := .done s none none

/-- Completed as an implicit region boundary (R54). -/
def Res.okB (s : State) : Res := .done s none (some allLive)

/-! ## Taking a trap, and the return (R393) -/

/-- trapcause as trap entry writes it. -/
def Trap.word (t : Trap) : Word :=
  wordOfNat (t.cause + t.detail * 2 ^ 8 + b2n t.fetch * 2 ^ 16 + t.lane * 2 ^ 24)

/-- trapctl of a handler: NEST, LEN, PM and MODE change, NTF and STEP stay. -/
def handlerCtl (ctl : Word) (len : Nat) : Word :=
  (ctl &&& 0xC) ||| (0x81 : Word) ||| wordOfNat (len % 8 * 16) ||| wordOfNat (Wbits ctl 0 0 * 2)

/-- trapctl after RTT: MODE := PM, NEST := 0. -/
def rttCtl (ctl : Word) : Word := (ctl &&& ~~~(0x81 : Word)) ||| wordOfNat (Wbits ctl 1 1)

/-- The three trap CSRs, written first in every case. -/
def Ctx.noteTrap (c : Ctx) (t : Trap) (pc : Word) : Ctx :=
  { c with wait := none, csrs := { c.csrs with trapcause := t.word, trappc := pc, trapval := t.val } }

/-- Enter a handler: mode, NEST, LEN, the pc, and a region boundary with every register live. -/
def Ctx.enter (c : Ctx) (vec : Word) (len : Nat) : Ctx :=
  let pc := vec &&& ~~~(0xF : Word)
  ({ c with pc := pc, csrs := { c.csrs with trapctl := handlerCtl c.csrs.trapctl len } } : Ctx).boundary pc

/-- The VEC word of the trap block that serves a context; 0 where there is no block (R394). -/
def State.trapVec (s : State) (cx : Nat) : Word :=
  match s.blockCluster cx with
  | none => 0
  | some cl => s.phys (s.trapBlock cl)

/-- Trap entry (R393), with the kill of a double trap and the default action where there is no handler (R395). -/
def State.trapEntry (s : State) (cx : Nat) (t : Trap) (pc : Word) (len : Nat) : State :=
  let s := (s.modCtx cx (fun c => c.noteTrap t pc)).count (coreOf cx) 5
  let v := s.trapVec cx
  if (s.ctx cx).csrs.trapctl.getLsbD 7 then s.killRunning cx
  else if v = 0 then (if t.cause = 0x09 then s.holdRunning cx else s.killRunning cx)
  else s.modCtx cx (fun c => { c.enter v len with since := s.cycle })

/-- RTT's part in the context: the mode returns, and control goes to trappc. -/
def Ctx.returnTrap (c : Ctx) : Ctx := { c with csrs := { c.csrs with trapctl := rttCtl c.csrs.trapctl } }

/-- Where RTT goes: trappc with its low four bits cleared (R393). -/
def Ctx.rttPc (c : Ctx) : Word := c.csrs.trappc &&& ~~~(0xF : Word)

/-! ## Sources (R170, R391, R399, R401) -/

/-- The first source at fault, in the order a, b, c, d, e, mask: a failed one traps, an empty one traps with its trap bit
set and waits without. Vector registers are always full (R168). -/
def Ctx.sources (c : Ctx) : List (BitVec 6 × Bool) → Option (Word × Option Trap)
  | [] => none
  | (r, t) :: rest =>
    if c.failS r then some (0, some { cause := 0x08, detail := r.toNat, val := (c.sreg r).val })
    else if c.fullS r then c.sources rest
    else if t then some (0, some { cause := 0x06, detail := r.toNat, val := (c.sreg r).val })
    else some ((c.sreg r).val, none)

/-! ## Completion -/

/-- Is the wait one that the watchdog counts (R402)? -/
def WaitKind.counted (k : WaitKind) : Bool := k != .other

/-- DETAIL of a watchdog trap (R392). -/
def WaitKind.code : WaitKind → Nat
  | .source => 0 | .granule => 1 | .barv => 2 | .kwait => 3 | .fwait => 4 | .kset => 5 | .other => 0

/-- The context waits at the instruction at pc: a wait of the same kind at the same instruction goes on; a new counted one
starts from the count carried over at that address, which another wait there keeps (R402). -/
def Ctx.waitAt (c : Ctx) (cycle ord : Nat) (pc : Word) (len : Nat) (k : WaitKind) (what : Word) : Ctx :=
  let carry := match c.wait with
    | some w => if w.kind.counted && w.pc == pc then some (w.base + (cycle - w.since), pc) else c.carry
    | none => c.carry
  let fresh : WaitRec :=
    { kind := k, pc := pc, len := len, what := what, since := cycle, ord := ord
      base := match carry with
        | some (n, p) => if k.counted && p == pc then n else 0
        | none => 0 }
  let new := { c with wait := some fresh, carry := if k.counted then none else carry }
  match c.wait with
  | none => new
  | some w => if w.pc = pc ∧ w.kind = k then { c with wait := some { w with what := what } } else new

/-- The pc after an instruction, with the check of the hardware loop where control is not transferred (R191). lend is as
it stood at issue; the low four bits of lbeg count as clear, as every pc is a multiple of 16 (R190, log 21). -/
def Ctx.advance (c : Ctx) (addr : Word) (len : Nat) (lend : Word) (tgt : Option Word) : Ctx :=
  let next := addr + wordOfNat (16 * len)
  match tgt with
  | some pc => { c with pc := pc }
  | none =>
    if addr = lend ∧ c.csrs.lcnt ≠ 0 then
      { c with pc := if c.csrs.lcnt = 1 then next else c.csrs.lbeg &&& ~~~(0xF : Word), csrs := { c.csrs with lcnt := c.csrs.lcnt - 1 } }
    else { c with pc := next }

/-- Open a region at the pc with the masks given (R53). -/
def Ctx.region? (c : Ctx) : Option Masks → Ctx
  | none => c
  | some m => let x := c.boundary c.pc; { x with region := { x.region with smask := m.1, vmask := m.2 } }

/-- The futures of registers that are not live in are abandoned at a boundary (R56, R172): such a register is full and reads
zero, as it does after a pre-emption (R55, log 85). -/
def Ctx.abandonDead (c : Ctx) (smask : Word) : Ctx :=
  { c with sregs := Vector.ofFn (fun (i : Fin 64) => if smask.getLsbD i.val || c.sregs[i].full then c.sregs[i] else {}) }

/-- An instruction has issued and completed: no wait is left, the watchdog count of its address is dropped, and the
effective priority is the base again (R58, R402). -/
def Ctx.issued (c : Ctx) (cycle : Nat) (addr : Word) : Ctx :=
  { c with wait := none, since := cycle, csrs := { c.csrs with eff := c.csrs.base },
           carry := match c.carry with
             | some (n, p) => if p = addr then none else some (n, p)
             | none => none }

/-- Completion of an instruction in its context. -/
def Ctx.finish (c : Ctx) (cycle : Nat) (addr : Word) (len : Nat) (lend : Word) (tgt : Option Word) (b : Option Masks) : Ctx :=
  ((c.issued cycle addr).advance addr len lend tgt).region? b

/-- Drop the requests to other packages that a task has made (R96). -/
def State.dropFwds (s : State) (uid : Nat) : State :=
  { s with net := { s.net with fwds := s.net.fwds.filter (fun f => f.uid != uid) } }

/-- The instruction of a task ends: nothing is left of its requests and of what it has logged. -/
def State.endInstr (s : State) (uid : Nat) : State := { s.dropFwds uid with opDenials := adel s.opDenials uid }

/-- What the turn of a context comes to, given what its instruction's body came to. -/
def State.settle (s0 : State) (c : Cur) : Res → State
  | .done s tgt b =>
    let old := s0.ctx c.cx
    let s := ((s.endInstr old.uid).modCtx c.cx (fun x => x.finish s.cycle c.addr c.len old.csrs.lend tgt b)).count (coreOf c.cx) 0
    if old.super || !old.csrs.trapctl.getLsbD 2 || !s.holds c.cx then s
    else s.trapEntry c.cx { cause := 0x0C, val := c.addr } (s.ctx c.cx).pc c.len
  | .trap s t =>
    if t.cause = 0 then s.modCtx c.cx (fun x => x.waitAt s.cycle s.fresh c.addr c.len .other 0)
    else ((s.endInstr (s0.ctx c.cx).uid).count (coreOf c.cx) 0).trapEntry c.cx t c.addr c.len
  | .wait s k what => s.modCtx c.cx (fun x => x.waitAt s.cycle s.fresh c.addr c.len k what)
  | .leave s => s.count (coreOf c.cx) 0

/-- trapval of an illegal instruction (R392). -/
def Cur.illegalVal (c : Cur) : Word := wordOfNat (c.base.toNat + (c.len - 1) * 2 ^ 16 + c.page * 2 ^ 20)

/-- One instruction of a context: the illegal-instruction checks that need the state, then the sources, then the body. -/
def State.run (s : State) (illegal : Cur → Ctx → Option Nat) (srcs : List (BitVec 6 × Bool)) (body : Cur → State → Res) : Result :=
  match s.cur with
  | .core c =>
    if s.holds c.cx then
      .next (s.settle c (
        match illegal c (s.ctx c.cx) with
        | some d => .trap s { cause := 0x01, detail := d, val := c.illegalVal }
        | none =>
          match (s.ctx c.cx).sources srcs with
          | some (_, some t) => .trap s t
          | some (h, none) => .wait s .source h
          | none => body c s))
    else .fault .notInTurn
  | _ => .fault .notInTurn

/-- An event of the device: its operands, and the next state where it is enabled; where it is not, nothing happens
(log 2). -/
def State.event (s : State) (f : EvArg → State → Option State) : Result :=
  match s.cur with
  | .event => .next ((f s.arg s).getD s)
  | _ => .fault .notInTurn

/-- No check that needs the state. -/
def anyMode : Cur → Ctx → Option Nat := fun _ _ => none

/-- Pages 12 to 16 and MCAST do not exist on a memory core (R166, R222; R403 detail 5). -/
def coreOnly : Cur → Ctx → Option Nat := fun c _ => if isMemCtx c.cx then some 5 else none

/-- MCFETCH and MCSEND exist on memory cores alone (R166, R221). -/
def memOnly : Cur → Ctx → Option Nat := fun c _ => if isMemCtx c.cx then none else some 5

/-- Page 17, RTT and WAITI run in supervisor mode only (R166, R193; R403 detail 4). -/
def superOnly : Cur → Ctx → Option Nat := fun _ c => if c.super then none else some 4

/-- The context that runs, as the body of an instruction sees it. -/
def State.me (s : State) (c : Cur) : Ctx := s.ctx c.cx

/-- Run the body in supervisor mode only. -/
def State.runSuper (s : State) (srcs : List (BitVec 6 × Bool)) (body : Cur → State → Res) : Result := s.run superOnly srcs body

/-- Change the context that runs. -/
def State.onMe (s : State) (c : Cur) (f : Ctx → Ctx) : State := s.modCtx c.cx f

end Sys2Proof.Machine
end

