-- ==== Sys2Proof/Machine/Packets.lean ====
section
/-!
DEFINITION. Packets leaving the package (R120 to R123, R442), counted flits, the slice of a line (R112), and hotness
records (R97 to R99).
-/

namespace Sys2Proof.Machine

/-- Offset of a physical byte address in its stack (R113). -/
def State.stackOfs (s : State) (a : Nat) : Nat := (a >>> 12) / max 1 s.stackList.length * 4096 + a % 4096

/-- The memory core that serves a physical byte address (R113). -/
def State.mcoreOf (s : State) (a : Nat) : Nat :=
  match s.stackList with
  | [] => 0
  | l => 8 * s.stackOf a + ((a >>> 12) / l.length) % 8

/-- The memory core that makes the accesses to a physical byte address: where that of R113 has failed, the next of its stack
in service (R430). -/
def State.mcServing (s : State) (a : Nat) : Nat :=
  let m := s.mcoreOf a
  (((List.range 8).map (fun k => m / 8 * 8 + (m + k) % 8)).find? (fun k => !s.boot.failed.contains k)).getD m

/-- Is the stack of a physical address stopped for new memory-core firmware: its accesses wait (R384)? -/
def State.stopped (s : State) (key : Nat) : Bool :=
  !s.boot.stackStop.isEmpty && s.regs.full && s.boot.stackStop.any (fun x => x.1 == s.stackOf key)

/-- May the save area of a yard record be reached: not while the memory cores of a stack of it are stopped (R384)? -/
def State.saveStands (s : State) (u yr : Nat) : Bool :=
  s.boot.stackStop.isEmpty || decide (16 ≤ u) || (List.range 8).all (fun k => !s.stopped ((s.cluster u).saveArea yr + 4096 * k))

/-- Does a package id name a package of the system (R28)? -/
def State.knows (s : State) (p : Nat) : Bool := p == s.sys.self || (aget s.sys.others p).isSome

/-- Coordinates of a package in the torus (R28). -/
def State.coordOf (s : State) (p : Nat) : Nat × Nat × Nat :=
  if p = s.sys.self then s.sys.coord else (aget s.sys.others p).getD (0, 0, 0)

/-- The step in one dimension of extent e (R123): none when the coordinates agree, else false for +, true for −. -/
def torusDir (e src dst : Nat) (tie : Bool) : Option Bool :=
  let d := (dst + e - src) % e
  if e = 0 ∨ d = 0 then none
  else if d < e - d then some false
  else if e - d < d then some true
  else some tie

/-- The first torus link of the minimal route: 2 × dimension, plus 1 for − (R123). -/
def State.firstLink (s : State) (src dst : Nat) (tie : Bool) : Option Nat :=
  let (x, y, z) := s.coordOf src
  let (x', y', z') := s.coordOf dst
  let (ex, ey, ez) := s.sys.ext
  match torusDir ex x x' tie with
  | some b => some (0 + b2n b)
  | none =>
    match torusDir ey y y' tie with
    | some b => some (2 + b2n b)
    | none => (torusDir ez z z' tie).map (fun b => 4 + b2n b)

/-- Coordinates on the minimal way from x to y, both included (R122). DESIGN CHOICE (log 15): where both ways are minimal, the
one on the + side. -/
def minimalSpan (e x y : Nat) : List Nat :=
  let d := (y + e - x) % e
  if e = 0 then [0]
  else if d ≤ e - d then (List.range (d + 1)).map (fun k => (x + k) % e)
  else (List.range (e - d + 1)).map (fun k => (x + e - k) % e)

/-- The random intermediate of a two-phase packet: a package of the minimal bounding box (R122, log 15). -/
def State.drawPackage (s : State) (dst : Nat) : Nat :=
  let (x, y, z) := s.coordOf s.sys.self
  let (x', y', z') := s.coordOf dst
  let (ex, ey, ez) := s.sys.ext
  let all := (s.sys.self, s.sys.coord) :: s.sys.others
  let box := all.filter (fun (q : Nat × Nat × Nat × Nat) =>
    (minimalSpan ex x x').contains q.2.1 && (minimalSpan ey y y').contains q.2.2.1 &&
      (minimalSpan ez z z').contains q.2.2.2)
  (box.getD (Config.draw s.fresh % max 1 box.length) (s.sys.self, s.sys.coord)).1

/-- Are two packets of one flow: the same agents, class, and package that numbers them (R111, R121)? -/
def sameFlow (p q : Packet) : Bool := p.sagt == q.sagt && p.dpkg == q.dpkg && p.dagt == q.dagt && p.cls == q.cls && p.via.getD p.spkg == q.via.getD q.spkg

/-- Next sequence number of an outgoing flow, and the state after taking it (R111, R121). -/
def State.nextSeq (s : State) (src dst agent cls : Nat) : Nat × State :=
  let same (f : Flow) : Bool := f.src == src && f.dst == dst && f.agent == agent && f.cls == cls
  match s.net.sent.find? same with
  | none =>
    let f : Flow := { src := src, dst := dst, agent := agent, cls := cls, next := 1 }
    (0, { s with net := { s.net with sent := f :: s.net.sent } })
  | some f =>
    let rise (g : Flow) : Flow := { g with next := g.next + 1 }
    (f.next.toNat, { s with net := { s.net with sent := s.net.sent.map (fun g => if same g then rise g else g) } })

/-- Payload flits of a packet: 512 bits each, rounded up (R120). -/
def flitsOf (payload : List Word) : Nat := ceilDiv payload.length 8

/-- Add n to the count under a key. -/
def addCount (l : List (Nat × Nat)) (k n : Nat) : List (Nat × Nat) :=
  if l.any (fun x => x.1 == k) then l.map (fun x => (x.1, if x.1 = k then x.2 + n else x.2)) else (k, n) :: l

/-- Count flits on a link of the package fabric or the torus (R122): source switch (die, or 4 for the torus) and link. -/
def State.countFlits (s : State) (switch link n : Nat) : State :=
  { s with net := { s.net with dieFlits := addCount s.net.dieFlits (switch * 8 + link) n } }

/-- A torus link by number, and its replacement. -/
def Net.link (n : Net) (i : Nat) : Link := n.links[i % 6]'(Nat.mod_lt _ (by decide))

def Net.setLink (n : Net) (i : Nat) (l : Link) : Net := { n with links := n.links.set (i % 6) l (Nat.mod_lt _ (by decide)) }

/-- Extent of the system in the dimension of a torus link, and whether the link is used and in service: in a dimension of extent
1 none is (R28). -/
def State.extentOf (s : State) (link : Nat) : Nat :=
  match link / 2 with
  | 0 => s.sys.ext.1
  | 1 => s.sys.ext.2.1
  | _ => s.sys.ext.2.2
def State.linkUp (s : State) (link : Nat) : Bool := (s.net.link link).up && decide (1 < s.extentOf link)

/-- The link of a dimension on which a packet leaves: that of its route, or where it is out of service that of the other
direction; none where neither serves (R386). -/
def State.ringLink (s : State) (link : Nat) : Option Nat :=
  [link, link / 2 * 2 + (1 - link % 2)].find? s.linkUp

/-- Coordinates in a list, x first, and the extents. -/
def coordList (c : Nat × Nat × Nat) : List Nat := [c.1, c.2.1, c.2.2]

/-- Do n steps around the ring of a dimension, from a place, cross no link of this package that is out of service? -/
def State.ringClear (s : State) (src : List Nat) (dim n : Nat) (minus : Bool) : Bool :=
  let e := (coordList s.sys.ext).getD dim 1
  let me := coordList s.sys.coord
  let stop (k : Nat) : List Nat := src.set dim ((src.getD dim 0 + (if minus then e - k % e else k)) % e)
  (List.range n).all (fun k =>
    (stop k != me || s.linkUp (2 * dim + b2n minus)) && (stop (k + 1) != me || s.linkUp (2 * dim + 1 - b2n minus)))

/-- Has a phase from a place to another a way that crosses no link out of service: dimension by dimension, in the direction of
R123 or in the other (R386)? -/
def State.phaseClear (s : State) (tie : Bool) (dst : List Nat) : List Nat → List Nat → Bool
  | [], _ => true
  | dim :: dims, src =>
    let e := (coordList s.sys.ext).getD dim 1
    let d := (dst.getD dim 0 + e - src.getD dim 0) % e
    match torusDir e (src.getD dim 0) (dst.getD dim 0) tie with
    | none => s.phaseClear tie dst dims src
    | some _ => (s.ringClear src dim d false || s.ringClear src dim (e - d) true) && s.phaseClear tie dst dims (src.set dim (dst.getD dim 0))

/-- The intermediate of a packet that goes around a dimension whose ring is out of service in both directions (R386): it differs
from the source in one other dimension only, and neither phase crosses a link out of service; none where the destination is
unreachable. -/
def State.drawAround (s : State) (dst dim : Nat) (tie : Bool) : Option Nat :=
  let me := coordList s.sys.coord
  let ways := s.sys.others.filter (fun (q : Nat × Nat × Nat × Nat) =>
    let mid := coordList q.2
    mid.getD dim 0 == me.getD dim 0 && ((List.range 3).filter (fun k => mid.getD k 0 != me.getD k 0)).length == 1 &&
      s.phaseClear tie mid [0, 1, 2] me && s.phaseClear tie (coordList (s.coordOf dst)) [0, 1, 2] mid)
  (ways[Config.draw s.fresh % max 1 ways.length]?).map (·.1)

/-- The die of an agent, on whose quarter-link a packet leaves (R119, R120). DESIGN CHOICE (log 15): R119 does not say which die
a route assigns; the model takes the die of SAGT, and die 0 for the service core. -/
def dieOfAgent (agt : Nat) : Nat :=
  if agt < 0x400 then agt / 256
  else if agt < 0x440 then (agt - 0x400) / 16
  else if agt < 0x4A0 then (agt - 0x440) / 24
  else if agt < 0x4B0 then (agt - 0x4A0) / 4
  else (agt - 0x4B0) % 4

/-- The quarter-link of a die, or the first that serves (R442). -/
def State.homeQuarter (s : State) (link die : Nat) : Nat :=
  let works (q : Nat) : Bool := !((aget s.net.lanes (4 * link + q)).getD {}).out
  if works (die % 4) then die % 4 else ((List.range 4).find? works).getD 0

/-- Payload flits that an OP carries (R120): the words beyond a line of DATA and MVLINE travel beside it (log 24). -/
def packetLen (op : Nat) (payload : List Word) : Nat :=
  if op = 0x06 ∨ op = 0x08 then min 2 (flitsOf payload) else flitsOf payload

/-! ## The package fabric (R119, R122) -/

/-- Number of the link from a die to another among its three. -/
def dieLink (a b : Nat) : Nat := ((List.range 4).filter (· != a)).idxOf b

/-- Lane of the package-fabric link between two dies: the six pairs in order, after the 24 quarter-links of the torus (R119, log
66). -/
def dieLane (a b : Nat) : Nat := 24 + [(0, 1), (0, 2), (0, 3), (1, 2), (1, 3), (2, 3)].idxOf (min a b, max a b)

/-- Flits cross a die-to-die link: counted (R122), and in its sender's replay buffer of 256 until they are acknowledged (R441). -/
def State.dieCross (s : State) (a b n : Nat) : State :=
  let l := (aget s.net.lanes (dieLane a b)).getD {}
  let l : Lane := if a < b then { l with replay := min 256 (l.replay + n) } else { l with replayBack := min 256 (l.replayBack + n) }
  let s := s.countFlits a (dieLink a b) n
  { s with net := { s.net with lanes := aset s.net.lanes (dieLane a b) l } }

/-- Flits go from a die to another: directly, or through one of the two other dies where the link is marked (R122) or out of
service (R442). -/
def State.dieHop (s : State) (a b n : Nat) : State :=
  let works (c d : Nat) : Bool := !((aget s.net.lanes (dieLane c d)).getD {}).out
  if a = b ∨ n = 0 then s
  else
    let two := !works a b || (s.regs.routeEn && (s.regs.routeForce || s.net.marked.contains (a, dieLink a b)))
    if two then
      let others := (List.range 4).filter (fun d => d != a && d != b)
      let ways := if works a b then others else others.filter (fun d => works a d && works d b)
      let mid := ways.getD (Config.draw s.fresh % max 1 ways.length) b
      if mid = b then s.dieCross a b n else (s.dieCross a mid n).dieCross mid b n
    else s.dieCross a b n

/-! ## Leaving on a link (R119, R121, R441) -/

/-- Has a quarter-link no place for a packet now: it trains, or its replay buffer of 256 flits has no room (R441)? -/
def State.laneFull (s : State) (p : Packet) : Bool :=
  let l := (aget s.net.lanes p.lane).getD {}
  l.training || decide (256 < l.replay + 1 + p.len)

/-- A packet is sent on its lane: it is counted there, and its flits stay in the replay buffer until they are acknowledged (R122,
R441). -/
def State.enterLane (s : State) (p : Packet) : State :=
  let s := s.countFlits 4 (p.lane / 4) (1 + p.len)
  let l := s.net.link (p.lane / 4)
  let q := (aget s.net.lanes p.lane).getD {}
  let net : Net := { s.net with out := s.net.out ++ [p], lanes := aset s.net.lanes p.lane { q with replay := q.replay + 1 + p.len } }
  { s with net := net.setLink (p.lane / 4) { l with flits := l.flits + 1 + p.len } }

/-- A packet takes its lane, or waits there behind those that wait (R441). -/
def State.tryLane (s : State) (p : Packet) : State :=
  if s.laneFull p || s.net.wait.any (fun q => q.lane == p.lane) then { s with net := { s.net with wait := s.net.wait ++ [p] } }
  else s.enterLane p

/-- A packet leaves on a link: from a die it goes to the quarter-link that takes it, over the package fabric where that is another
die's (R119, R442). -/
def State.leaveOn (s : State) (link die : Nat) (p : Packet) : State :=
  let q := s.homeQuarter link die
  (s.dieHop die q (1 + p.len)).tryLane { p with lane := 4 * link + q }

/-- Packets that waited at their lanes are sent, oldest first, where there is room. -/
def sendWaiting (ps : List Packet) (s : State) : State := ps.foldl State.tryLane { s with net := { s.net with wait := [] } }

/-- Tie of R123: bit 0 of SAGT xor DAGT. -/
def packetTie (p : Packet) : Bool := Nat.xor (p.sagt % 2) (p.dagt % 2) == 1

/-- The link on which a packet leaves its source and its phase (R122, R123, R386): in two phases where its minimal first link is
marked, or where neither direction of its first dimension serves, and then first toward the intermediate. None where no link in
service leads there. -/
def State.route (s : State) (p : Packet) : Option (Nat × Packet) :=
  if !s.knows p.dpkg then none
  else match s.firstLink s.sys.self p.dpkg (packetTie p) with
  | none => none
  | some first =>
    let via (mid : Nat) : Option (Nat × Packet) :=
      ((s.firstLink s.sys.self mid (packetTie p)).bind s.ringLink).map (fun l => (l, { p with ph := true, ipkg := mid }))
    match s.ringLink first with
    | none => (s.drawAround p.dpkg (first / 2) (packetTie p)).bind via
    | some link =>
      let mid := s.drawPackage p.dpkg
      let two := s.regs.routeEn && (s.regs.routeForce || s.net.marked.contains (4, first)) && mid != s.sys.self
      (if two then via mid else none).orElse (fun _ => some (link, { p with ph := false, ipkg := 0 }))

/-- Inject a packet: its sequence number (R121), and its route. One that no link in service leads to is not sent (R386). -/
def State.inject (s : State) (p : Packet) : State :=
  match s.route p with
  | none => s
  | some (link, p) =>
    let (seq, s) := if p.cls = 1 then (0, s) else s.nextSeq p.sagt p.dpkg p.dagt p.cls
    s.leaveOn link (dieOfAgent p.sagt % 4) { p with
      seq := seq, idn := if p.cls = 1 then 0 else p.idn, len := packetLen p.op p.payload
      via := if p.spkg = s.sys.self then none else some s.sys.self }

/-- The link on which a packet that passes through goes on: that of its route, in the direction in which it came along that
dimension, which may be the way around a link out of service (R123, R386). -/
def State.wayOn (s : State) (p : Packet) : Option Nat :=
  (s.firstLink s.sys.self (if p.ph then p.ipkg else p.dpkg) (packetTie p)).bind (fun first =>
    s.ringLink (match p.along with
      | some a => if a / 2 = first / 2 then a / 2 * 2 + (1 - a % 2) else first
      | none => first))

/-- Is a packet numbered by this package: its own, or one that a stub passes on (R100, R121)? -/
def State.numbers (s : State) (p : Packet) : Bool := p.via.getD p.spkg == s.sys.self

/-- A packet that stands in the replay buffer of a lane out of service, or waits there, is sent again from this router, with its
number: on another quarter of its link, or on a new route (R442). One that passes through keeps its phase. -/
def State.resend (s : State) (p : Packet) : State :=
  let die := p.lane % 4
  if s.linkUp (p.lane / 4) then s.leaveOn (p.lane / 4) die p
  else if s.numbers p then
    match s.route p with
    | none => s
    | some (link, p) => s.leaveOn link die p
  else match s.wayOn p with
    | none => s
    | some link => s.leaveOn link die p

/-- The packets of a lane that leaves service are sent again, oldest first (R442). -/
def State.resendLane (s : State) (lane : Nat) : State :=
  let mine := (s.net.out ++ s.net.wait).filter (fun p => p.lane == lane)
  mine.foldl State.resend { s with net := { s.net with
    out := s.net.out.filter (fun p => p.lane != lane), wait := s.net.wait.filter (fun p => p.lane != lane) } }

/-- Packets of the flow of a packet that are not yet delivered (R121). -/
def State.undelivered (s : State) (p : Packet) : Nat := ((s.net.out ++ s.net.wait ++ s.net.gone).filter (sameFlow p)).length

/-- Has a flow 2^15 packets that are not yet delivered, or packets that wait for that (R121)? -/
def State.flowFull (s : State) (p : Packet) : Bool :=
  p.cls != 1 && (decide (2 ^ 15 ≤ s.undelivered p) || s.net.back.any (sameFlow p))

/-- Send a packet to another package; while its flow is full it waits at its source (R121). -/
def State.sendPacket (s : State) (p : Packet) : State :=
  if s.flowFull p then { s with net := { s.net with back := s.net.back ++ [p] } } else s.inject p

/-- Inject the packets that waited, oldest first, while their flows have room. -/
def sendBack (ps : List Packet) (s : State) : State := ps.foldl State.sendPacket { s with net := { s.net with back := [] } }

/-- Flits have been acknowledged: the oldest packets of a lane leave, while more flits than it holds for replay stand behind
them. Answers those that leave, and those that stay. -/
def splitSent (lane left : Nat) : List Packet → Nat → List Packet × List Packet
  | [], _ => ([], [])
  | p :: ps, sum =>
    let out := decide (p.lane = lane) && decide (left + 1 + p.len ≤ sum)
    let r := splitSent lane left ps (if out then sum - 1 - p.len else sum)
    if out then (p :: r.1, r.2) else (r.1, p :: r.2)

/-- The flits of a lane are acknowledged down to the number left: whole packets leave its replay buffer, and those that waited
there are sent (R441). Those of this package's flows go on to be delivered (R121). -/
def State.acked (s : State) (lane left : Nat) : State :=
  let sum := ((s.net.out.filter (fun p => p.lane == lane)).map (fun p => 1 + p.len)).sum
  let r := splitSent lane left s.net.out sum
  let onward := r.1.filter (fun p => s.numbers p && p.cls != 1 && s.knows p.dpkg)
  sendWaiting s.net.wait { s with net := { s.net with out := r.2, gone := s.net.gone ++ onward } }

/-- The packets of a flow up to a number have been delivered at their destination: those that waited at their source are injected
(R121, log 107). -/
def State.delivered (s : State) (p : Packet) : State :=
  let here (q : Packet) : Bool := sameFlow p q && decide ((BitVec.ofNat 16 p.seq - BitVec.ofNat 16 q.seq).toNat < 2 ^ 15)
  sendBack s.net.back { s with net := { s.net with gone := s.net.gone.filter (fun q => !here q) } }

/-- Send a packet of this package's own. -/
def State.send (s : State) (cls dpkg dagt sagt idn op : Nat) (payload : List Word) : State :=
  s.sendPacket { cls := cls, dpkg := dpkg, spkg := s.sys.self, dagt := dagt, sagt := sagt, idn := idn, op := op, payload := payload }

/-- Send a request that is answered: its name, and the state. -/
def State.request (s : State) (p : Packet) : Nat × State :=
  let n := s.net.nextName
  (n, ({ s with net := { s.net with nextName := n + 1 } } : State).sendPacket { p with spkg := s.sys.self, name := n })

/-- Answer a request. -/
def State.answer (s : State) (p : Packet) (op : Nat) (payload : List Word) : State :=
  s.sendPacket { cls := 1, dpkg := p.spkg, spkg := s.sys.self, dagt := p.sagt, sagt := p.dagt, op := op, payload := payload, name := p.name }

/-- Agent number of a context's core or memory core (R120). -/
def agentOf (cx : Nat) : Nat := if isMemCtx cx then 0x440 + memCoreOf cx else coreOf cx

/-- Agent number of the slice that serves a line at its home die. -/
def State.sliceAgent (s : State) (a : Nat) : Nat := 0x400 + 16 * s.homeDie a + s.sliceIn a

/-- The agent of another package that every access to a byte key there goes to: the core that owns the window, or the slice of
the line (R111, R120). -/
def State.destAgent (s : State) (key : Nat) : Nat :=
  if feBase ≤ key then (key - feBase) / 2 ^ 13 % 1024
  else if windowBase ≤ key then (key - windowBase) / 2 ^ 20 % 1024
  else s.sliceAgent key

/-- Agent number of the shared-unit port of a cluster (R120). -/
def portAgent (cl : Nat) : Nat := 0x4A0 + cl % 16

/-! ## Hotness records (R97 to R100) -/

/-- Physical byte address of the hotness record of a 64 KiB frame. -/
def State.hotRec (s : State) (frame : Nat) : Nat := s.regs.hotbBase.toNat * 2 ^ 30 + 64 * frame

/-- Bits [hi:lo] of a number replaced. -/
def putBits (x hi lo v : Nat) : Nat :=
  x - bits x hi lo * 2 ^ lo + (v % 2 ^ (hi + 1 - lo)) * 2 ^ lo

/-- Is the line of a key in transit: sent to the new owner, and not yet there (R100)? An access to it waits. -/
def State.inTransit (s : State) (key : Nat) : Bool :=
  s.moves.any (fun m => m.begun && m.flying.isSome && m.frame == key / 2 ^ 16 && m.next == key % 2 ^ 16 / 128)

/-- One step of the way from a frame that a page has left (R100): a line that a move under way has taken is at the new place,
and a stub names the new owner. -/
def State.movedOn (s : State) (key : Nat) : Option (Nat × Nat) :=
  match s.moves.find? (fun m => m.begun && m.own == s.sys.self && m.frame == key / 2 ^ 16) with
  | some m => if key % 2 ^ 16 / 128 < m.next then some (m.dpkg, m.dframe * 2 ^ 16 + key % 2 ^ 16) else none
  | none =>
    if s.regs.hotbTbl && (s.phys (s.hotRec (key / 2 ^ 16) + 32)).getLsbD 50 then
      let r := memBytes s.mem 64 (s.hotRec (key / 2 ^ 16))
      some (bits r 318 307, bits r 342 319 * 2 ^ 16 + key % 2 ^ 16)
    else none

/-- Where a physical key of an owner is now, through at most n moves (R100). -/
def State.whereNow (s : State) : Nat → Nat → Nat → Nat × Nat
  | 0, own, key => (own, key)
  | n + 1, own, key =>
    if own ≠ s.sys.self then (own, key)
    else match s.movedOn key with
      | none => (own, key)
      | some (p, k) => s.whereNow n p k

/-- A record of memory as a number. -/
def State.readRec (s : State) (a bytes : Nat) : Nat := memBytes s.mem bytes a

/-- Write a record of whole words of memory, which stop being poisoned (R420). -/
def State.writeRec (s : State) (a bytes v : Nat) : State :=
  ({ s with mem := memMask s.mem bytes a (2 ^ (8 * bytes) - 1) v } : State).unpoison a bytes

/-- Quadrant 0 to 3 by die for the owner itself, 4 to 9 by direction for another package (R98). -/
def State.quadrant (s : State) (owner requester die : Nat) : Nat :=
  if requester = owner then die
  else match s.firstLink owner requester false with
    | some l => 4 + l
    | none => 4

/-- Halve the counters by the whole 2^24-cycle spans since THALF (R98). -/
def hotHalve (r now : Nat) : Nat :=
  let n := (now - bits r 303 256) / 2 ^ 24
  if n = 0 then r
  else
    let r := (List.range 10).foldl (fun r i => putBits r (16 * i + 15) (16 * i) (bits r (16 * i + 15) (16 * i) / 2 ^ (min n 16))) r
    putBits r 303 256 (bits r 303 256 + n * 2 ^ 24)

/-- One increment of a quadrant's counter, saturating (R97, R98). -/
def hotAdd (r now q : Nat) : Nat :=
  let r := hotHalve r now
  putBits r (16 * q + 15) (16 * q) (min 0xFFFF (bits r (16 * q + 15) (16 * q) + 1))

/-- Apply an increment at this package, or forward it through a stub, at most n within this package (R98, R100). -/
def State.hotInc (s : State) : Nat → Nat → Nat → State
  | 0, _, _ => s
  | n + 1, frame, q =>
    let r := s.readRec (s.hotRec frame) 64
    if bit r 306 then
      if bits r 318 307 = s.sys.self then s.hotInc n (bits r 342 319) q
      else s.send 0 (bits r 318 307) 0x400 0x400 0 0x05 [wordOfNat (bits r 342 319), wordOfNat q]
    else s.writeRec (s.hotRec frame) 64 (hotAdd r s.cycle q)

/-- Stubs that are followed within a package: a way through more is no way of PGMOV's (log 23). -/
def stubFuel : Nat := 4096

/-- The increment that a successful global walk sends to the owner (R97); the agents that it names are the model's (log 24). -/
def State.walkInc (s : State) (own frame die : Nat) : State :=
  if !(s.regs.hotbEn && s.regs.hotbTbl) then s
  else if own = s.sys.self then s.hotInc stubFuel frame die
  else s.send 0 own 0x400 (0x400 + 16 * die) 0 0x05 [wordOfNat frame, wordOfNat (s.quadrant own s.sys.self die)]

/-! ## The denial log (R416, R417) -/

/-- Append a denial record, or count it lost. -/
def State.denial (s : State) (ident : BitVec 24) (tag acc cx : Nat) (addr : Word) (pkg frame : Nat) (owner : Bool) : State :=
  let R := s.regs
  if R.dlogLsz = 0 ∨ (R.dlogTail - R.dlogHead).toNat = 2 ^ R.dlogLsz.toNat then
    { s with regs := { R with dlost := if R.dlost = 0xFFFFFFFF then R.dlost else R.dlost + 1 } }
  else
    let a := R.dlogBase.toNat * 2 ^ 12 + 32 * (R.dlogTail.toNat % 2 ^ R.dlogLsz.toNat)
    let w0 := ident.toNat * 2 ^ 40 + tag * 2 ^ 20 + acc * 2 ^ 16 + cx % 8192
    let w2 := pkg * 2 ^ 48 + s.cycle % 2 ^ 48
    let w3 := frame % 2 ^ 24 * 2 ^ 16 + b2n owner
    { s.setPhysWords a [wordOfNat w0, addr, wordOfNat w2, wordOfNat w3] with regs := { R with dlogTail := R.dlogTail + 1 } }

end Sys2Proof.Machine
end

