-- ==== Sys2Proof/Machine/Caches.lean ====
section
/-!
DEFINITION. The caches of lines (R15, R18, R78, R79, R105, R113 to R116, R378): L1D, L2 slices with their directories, home
directories, instruction caches, state-page frames, and the sampling of the carve-out (R82). They hold which lines are where,
with their tags and states; the data of a line is its one copy in memory (log 9).
-/

namespace Sys2Proof.Machine

/-! ## Keys and places -/

/-- Key of a line in the L1D of a core, and in the L2 of a die. -/
def lineKey (unit key : Nat) : Nat := unit * 2 ^ 33 + key / 128

/-- Bit of the quad of a core in its die's slice directory (R115). -/
def quadBit (core : Nat) : BitVec 64 := BitVec.ofNat 64 (2 ^ (core % 256 / 4))

/-- Bit of a die in a presence vector (R114). -/
def dieBit (die : Nat) : BitVec 4 := BitVec.ofNat 4 (2 ^ (die % 4))

/-- Set of a slice that holds a line: by R378 during SRAM-only service, else a free choice of the 12,288 (R79, log 9). -/
def State.l2SetOf (s : State) (line : Nat) : Nat :=
  if s.regs.full then Config.l2Set line % 12288 else line % 3145728 / 16 % 12288

/-- Number of the slice that serves a line in a die: 16 × die + slice. -/
def State.sliceNo (s : State) (die line : Nat) : Nat := 16 * die + s.sliceIn (line * 128)

/-- The line in the L2 of a die, in any state but I. -/
def State.l2Line (s : State) (die line : Nat) : Option L2Line :=
  (aget s.caches.l2 (die * 2 ^ 33 + line)).filter (fun l => l.st != .i)

/-- Change the L2 lines. -/
def State.modL2 (s : State) (f : Assoc L2Line → Assoc L2Line) : State := { s with caches := { s.caches with l2 := f s.caches.l2 } }

/-- The dies of a package other than one. -/
def otherDies (die : Nat) : List Nat := (List.range 4).filter (· != die)

/-- Does a context or a tile fetch unit pin the line (R86)? -/
def L2Line.pinned (l : L2Line) : Bool := !l.pins.isEmpty || !l.fetch.isEmpty

/-! ## L1D (R78, R115) -/

/-- The slice directory of a die records anew which quads hold a line, and whether one L1D holds it exclusive (R115). -/
def State.relist (s : State) (die line : Nat) : State :=
  let here (x : Nat × L1Line) : Bool := x.1 % 2 ^ 33 == line && x.1 / 2 ^ 33 / 256 == die
  let held := s.caches.l1.filter here
  s.modL2 (fun m => amod m (die * 2 ^ 33 + line) (fun l =>
    { l with quads := held.foldl (fun q x => q ||| quadBit (x.1 / 2 ^ 33)) 0, excl := held.any (·.2.excl) }))

/-- Change the lines of the L1Ds. -/
def State.modL1 (s : State) (f : Assoc L1Line → Assoc L1Line) : State := { s with caches := { s.caches with l1 := f s.caches.l1 } }

/-- Invalidate a line in the L1Ds of a die's recorded quads; the L1D of one core may keep it. -/
def State.dropL1 (s : State) (die line : Nat) (but : Option Nat) : State :=
  let go (k : Nat) : Bool := k % 2 ^ 33 == line && k / 2 ^ 33 / 256 == die && but != some (k / 2 ^ 33)
  (s.modL1 (fun m => m.filter (fun x => !go x.1))).relist die line

/-- The L1D that holds a line exclusive gives that up: its written data goes to the slice, and it keeps the line shared. -/
def State.shareL1 (s : State) (die line : Nat) : State :=
  let here (k : Nat) : Bool := k % 2 ^ 33 == line && k / 2 ^ 33 / 256 == die
  (s.modL1 (fun m => m.map (fun x => if here x.1 then (x.1, { x.2 with excl := false, dirty := false }) else x))).relist die line

/-- A way for a line in its set of a core's L1D: 16 less the retired slots, sets by the line address mod 1,024; from a full set a
line leaves by a free choice (R78, R426, log 9). -/
def State.l1Room (s : State) (core line : Nat) : State × Nat :=
  let set := core * 1024 + line % 1024
  let here := s.caches.l1.filter (fun x => x.1 / 2 ^ 33 == core && x.1 % 1024 == line % 1024)
  let ways := (List.range 16).filter (fun w => !s.caches.l1dead.contains (16 * set + w))
  match ways.find? (fun w => here.all (fun x => x.2.way != w)) with
  | some w => (s, w)
  | none => match here[Config.victim s.fresh % max 1 here.length]? with
    | none => (s, 0)
    | some x => ((s.modL1 (fun m => adel m x.1)).relist (core / 256) (x.1 % 2 ^ 33), x.2.way)

/-- Install a line in the L1D of a core; the slice directory records its quad. -/
def State.l1Fill (s : State) (core line tag : Nat) (wr : Bool) : State :=
  let k := core * 2 ^ 33 + line
  let (s, l) : State × L1Line := match aget s.caches.l1 k with
    | some l => (s, { l with excl := l.excl || wr, dirty := l.dirty || wr })
    | none => let (s, w) := s.l1Room core line; (s, { tag := tag, way := w, excl := wr, dirty := wr })
  (s.modL1 (fun m => aset m k l)).relist (core / 256) line

/-! ## Home directories (R114) -/

/-- A line is gone from the L2 of a die: its home entry says so, and goes with the last copy. -/
def State.homeDrop (s : State) (die line : Nat) : State :=
  match aget s.caches.home line with
  | none => s
  | some h =>
    let d := h.dies &&& ~~~dieBit die
    { s with caches := { s.caches with home := if d = 0 then adel s.caches.home line else aset s.caches.home line { dies := d, excl := false } } }

/-- Flits between a die and the home die of a line: requests there, data back (R112, R119, log 64). -/
def State.homeHop (s : State) (die line there back : Nat) : State :=
  (s.dieHop die (s.homeDie (line * 128)) there).dieHop (s.homeDie (line * 128)) die back

/-- Invalidate a line in a die: first in every L1D, then in the slice, where a pinned line keeps its slot (R86, R115); dirty data is
written back. -/
def State.dropLine (s : State) (die line : Nat) : State :=
  let s := s.dropL1 die line none
  let k := die * 2 ^ 33 + line
  let s := if ((s.l2Line die line).getD {}).st = .m then s.homeHop die line 3 0 else s
  (s.modL2 (fun m => match aget m k with
    | none => m
    | some l => if !l.pinned then adel m k else aset m k { l with st := .i, quads := 0, excl := false })).homeDrop die line

/-- The page tag of a frame: its copy, or where that is lost the one that comes from the leaf (R423). -/
def PageFrame.tagOr (f : PageFrame) (tag : Nat) : Nat := if f.stale then tag else f.tag

/-- The slice of a die whose frames hold a page, with the frame. -/
def State.frameOf (s : State) (die page : Nat) : Option (Nat × PageFrame) :=
  (List.range 16).findSome? (fun k => ((s.slice (16 * die + k)).frames.find? (fun f => f.page == page)).map (fun f => (16 * die + k, f)))

/-- Is a line pinned in the L2 of any die? -/
def State.pinnedLine (s : State) (line : Nat) : Bool :=
  (List.range 4).any (fun d => match aget s.caches.l2 (d * 2 ^ 33 + line) with
    | some l => l.pinned
    | none => false) ||
  (List.range 4).any (fun d => match s.frameOf d (line / 512) with
    | some (_, f) => f.pins.any (fun p => p.2 == line)
    | none => false)

/-- Room for a home directory entry: 131,072 in 16 ways. The copies that the leaving entry records are invalidated, and a pinned
line's entry stays; none where all 16 are pinned lines' (log 9). -/
def State.homeRoom (s : State) (line : Nat) : Option State :=
  let here := s.caches.home.filter (fun x =>
    s.sliceNo (s.homeDie (x.1 * 128)) x.1 == s.sliceNo (s.homeDie (line * 128)) line && Config.homeSet x.1 % 8192 == Config.homeSet line % 8192)
  let may := here.filter (fun x => !s.pinnedLine x.1)
  if here.length < 16 then some s
  else (may[Config.victim s.fresh % max 1 may.length]?).map (fun x => (List.range 4).foldl (fun s d => s.dropLine d x.1) s)

/-- Record that a die has the line, exclusive or not; none where no home entry is to be had. -/
def State.homeTake (s : State) (die line : Nat) (excl : Bool) : Option State :=
  (if (aget s.caches.home line).isSome then some s else s.homeRoom line).map (fun s =>
    let h := (aget s.caches.home line).getD {}
    { s with caches := { s.caches with home := aset s.caches.home line { dies := h.dies ||| dieBit die, excl := excl } } })

/-! ## L2 slices (R79, R115) -/

/-- Cache ways of a slice that a set has: those above the frame ways, and above the way that becomes one (R83), less the retired
slots (R79, R426). -/
def Slice.cacheWays (x : Slice) (set : Nat) : List Nat :=
  let low := if x.moving && decide (x.fcur.toNat < x.target.toNat) then x.target.toNat else x.fcur.toNat
  (List.range 16).filter (fun w => decide (low ≤ w) && !x.retired.contains (16 * set + w))

/-- The lines of the set of a line in the cache ways of its slice. -/
def State.setOf (s : State) (die line : Nat) : Assoc L2Line :=
  s.caches.l2.filter (fun x => !x.2.framed && x.1 / 2 ^ 33 == die && s.sliceNo die (x.1 % 2 ^ 33) == s.sliceNo die line &&
    s.l2SetOf (x.1 % 2 ^ 33) == s.l2SetOf line)

/-- A cache way for a line in its set: a free one, or that of an unpinned line, which is evicted; none where every way holds a
pinned line. -/
def State.l2Way (s : State) (die line : Nat) : Option (State × Nat) :=
  let here := s.setOf die line
  let ways := (s.slice (s.sliceNo die line)).cacheWays (s.l2SetOf line)
  match ways.find? (fun w => here.all (fun x => x.2.way != w)) with
  | some w => some (s, w)
  | none =>
    let may := here.filter (fun x => !x.2.pinned && ways.contains x.2.way)
    (may[Config.victim s.fresh % max 1 may.length]?).map (fun x => (s.dropLine die (x.1 % 2 ^ 33), x.2.way))

/-- Before a die takes a line, the other dies give it up for a write, or their exclusive hold of it for a read (R114 to
R116). -/
def State.otherCopies (s : State) (die line : Nat) (wr : Bool) : State :=
  (otherDies die).foldl (fun s d =>
    match s.l2Line d line with
    | none => s
    | some l =>
      let s := s.homeHop d line (if l.st = .m then 0 else 1) 1
      if wr then s.dropLine d line
      else ((if l.st = .m then s.homeHop d line 3 0 else s).shareL1 d line).modL2 (fun m => amod m (d * 2 ^ 33 + line) (fun l => { l with st := .s }))) s

/-- The tag that comes with a line: that of a copy in another die, which moves with its data, else the fill's (R115). -/
def State.comingTag (s : State) (die line tag : Nat) : Nat :=
  ((otherDies die).findSome? (fun d => s.l2Line d line)).elim tag (·.tag)

/-- State of a line newly brought: exclusive for a write, or where no other die holds it. -/
def bringState (wr alone : Bool) : LineState := if wr then .m else if alone then .e else .s

/-- Bring a line into the L2 of a die, for a read or a write at the slice: into the frame of its page, else into a cache way. Where
neither a way nor a home entry is to be had, it is not kept. -/
def State.l2Bring (s : State) (die line tag : Nat) (wr : Bool) : State :=
  let k := die * 2 ^ 33 + line
  match s.l2Line die line with
  | some l =>
    if !wr then s
    else
      let s := if l.st = .s then (s.homeHop die line 1 1).otherCopies die line true else s
      match s.homeTake die line true with
      | none => s
      | some s => s.modL2 (fun m => amod m k (fun l => { l with st := .m }))
  | none =>
    let t := s.comingTag die line tag
    let s := (s.homeHop die line 1 3).otherCopies die line wr
    let alone := (otherDies die).all (fun d => (s.l2Line d line).isNone)
    let new : L2Line := { tag := t, st := bringState wr alone }
    let take (s : State) (f : Assoc L2Line → Assoc L2Line) : State :=
      match s.homeTake die line (wr || alone) with
      | none => s
      | some s => s.modL2 f
    match aget s.caches.l2 k, s.frameOf die (line / 512) with
    | some _, _ => take s (fun m => amod m k (fun l => { l with tag := t, st := new.st }))
    | none, some (_, f) => take s (fun m => aset m k { new with tag := f.tagOr t, framed := true })
    | none, none => match s.l2Way die line with
      | none => s
      | some (s, w) => take s (fun m => aset m k { new with way := w })

/-! ## State-page frames (R79, R82, R83) -/

/-- Change the frame that holds a page. -/
def State.modFrame (s : State) (n page : Nat) (f : PageFrame → PageFrame) : State :=
  s.modSlice n (fun x => { x with frames := x.frames.map (fun g => if g.page = page then f g else g) })

/-- Drop the lines of a page from the L1Ds and the L2 of a die. -/
def State.dropPage (s : State) (die page : Nat) : State :=
  (s.caches.l2.filter (fun (y : Nat × L2Line) => y.1 / 2 ^ 33 == die && y.1 % 2 ^ 33 / 512 == page)).foldl
    (fun (s : State) (y : Nat × L2Line) => s.dropLine die (y.1 % 2 ^ 33)) s

/-- A memory core spills the frame that holds a page of slice n to HBM (R79, R82). -/
def State.spillFrame (s : State) (n page : Nat) : State :=
  (s.dropPage (n / 16) page).modSlice n (fun x => { x with
    frames := x.frames.filter (fun f => f.page != page), spilled := (page :: x.spilled).take 24 })

/-- Frames that a slice may fill: those of its frame ways, less the one that is leaving, and less the retired ones. -/
def Slice.frameSlots (x : Slice) : List Nat :=
  let ways := if x.moving && decide (x.target.toNat < x.fcur.toNat) then x.target.toNat else x.fcur.toNat
  (List.range (24 * ways)).filter (fun k => !x.deadFrames.contains k)

/-- The page that slice n spills to make room: the least recently used that no pin holds. -/
def Slice.coldest (x : Slice) : Option PageFrame := x.frames.reverse.find? (fun f => f.pins.isEmpty && x.frameSlots.contains f.slot)

/-- A touch of a page of slice n: the page becomes the most recent; one of the 24 least recent counts in FL once in the
interval (R82). -/
def State.frameTouch (s : State) (n : Nat) (f : PageFrame) (tag : Nat) (wr : Bool) : State :=
  s.modSlice n (fun x =>
    let low := !f.counted && (x.frames.reverse.take 24).any (fun g => g.page == f.page)
    { x with frames := { f with tag := f.tagOr tag, stale := false, dirty := f.dirty || wr, counted := f.counted || low } :: x.frames.filter (fun g => g.page != f.page)
             fl := x.fl + (if low then 512 else 0) })

/-- A memory core refills a page into a frame of slice n, which spills its coldest page when it is full; where every frame is
held, the page stays in HBM (R79, R82). The lines of the page leave the cache ways of the die for the frame. -/
def State.frameRefill (s : State) (n page tag : Nat) (wr : Bool) : State :=
  let x := s.slice n
  let free := x.frameSlots.find? (fun k => x.frames.all (fun f => f.slot != k))
  let out := match free with
    | some k => some (s, k)
    | none => x.coldest.map (fun (f : PageFrame) => (s.spillFrame n f.page, f.slot))
  match out with
  | none => s
  | some (s, k) =>
    let s := (s.dropPage (n / 16) page).modSlice n (fun x => { x with
      frames := { page := page, slot := k, tag := tag, dirty := wr } :: x.frames
      fg := x.fg + (if x.spilled.contains page then 512 else 0), spilled := x.spilled.filter (· != page) })
    (List.range 512).foldl (fun s i => s.l2Bring (n / 16) (512 * page + i) tag false) s

/-- Is a line of a page pinned in the cache ways of a die? Such a page takes no frame. -/
def State.pagePinned (s : State) (die page : Nat) : Bool :=
  s.caches.l2.any (fun y => y.1 / 2 ^ 33 == die && y.1 % 2 ^ 33 / 512 == page && y.2.pinned)

/-- An access to a page in a die: whether a frame serves it. A stream-space page that holds none takes one, where the slice
has frames (R79, log 9). A frame that errors have retired is spilled once no pin holds it (R418, R426). -/
def State.frameServes (s : State) (die page tag : Nat) (stream wr : Bool) : State × Bool :=
  let s := match s.frameOf die page with
    | some (n, f) => if f.pins.isEmpty && (s.slice n).deadFrames.contains f.slot then s.spillFrame n page else s
    | none => s
  match s.frameOf die page with
  | some (n, f) => (s.frameTouch n f tag wr, true)
  | none =>
    let n := 16 * die + Config.frameSlice page % 16
    if !stream || (List.range 16).all (fun k => (s.slice (16 * die + k)).frameSlots.isEmpty) || (s.slice n).frameSlots.isEmpty ||
        s.pagePinned die page then (s, false)
    else
      let t := s.frameRefill n page tag wr
      (t, (t.frameOf die page).isSome)

/-! ## Pins (R84, R86, R262) -/

/-- Does the set of a line in a die already hold C − 2 pinned lines (R84)? A retired slot counts as one (R426). -/
def State.setPinned (s : State) (die line : Nat) : Bool :=
  let x := s.slice (s.sliceNo die line)
  let set := s.l2SetOf line
  let gone := (List.range 16).filter (fun w => decide (x.fcur.toNat ≤ w) && x.retired.contains (16 * set + w))
  decide (16 - x.fcur.toNat - 2 ≤ ((s.setOf die line).filter (fun y => y.2.pinned)).length + gone.length)

/-- Lines that the holders `mine` of a tile fetch unit have pinned in a die, in frames and in the cache ways (R262). -/
def State.fetchHeld (s : State) (die : Nat) (mine : Nat → Bool) : List Nat :=
  (s.caches.l2.filter (fun x => x.2.fetch.any mine)).map (fun x => x.1 % 2 ^ 33) ++
    (((List.range 16).flatMap (fun k => (s.slice (16 * die + k)).frames)).flatMap
      (fun f => ((f.pins.filter (fun p => mine p.1)).map (·.2)).eraseDups))

/-- The tile fetch unit of a cluster pins a line for a holder in its die, in its frame or in the cache ways: not where R84
skips it, and no line beyond 8,192 (R262). `mine` tells the cluster's holders. -/
def State.fetchPin (s : State) (die line holder : Nat) (mine : Nat → Bool) : State :=
  let held := s.fetchHeld die mine
  if !s.regs.full || (decide (8192 ≤ held.length) && !held.contains line) then s
  else match s.frameOf die (line / 512) with
    | some (n, f) =>
      if f.pins.contains (holder, line) then s else s.modFrame n f.page (fun f => { f with pins := (holder, line) :: f.pins })
    | none =>
      match s.l2Line die line with
      | none => s
      | some l =>
        if l.fetch.contains holder || (!l.pinned && s.setPinned die line) then s
        else s.modL2 (fun m => aset m (die * 2 ^ 33 + line) { l with fetch := holder :: l.fetch })

/-- Holders among the tile fetch units release their pins. -/
def State.unfetch (s : State) (gone : Nat → Bool) : State :=
  let free (x : Slice) : Slice := { x with frames := x.frames.map (fun f => { f with pins := f.pins.filter (fun p => !gone p.1) }) }
  { s with caches := { s.caches with l2 := (s.caches.l2.map (fun x => (x.1, { x.2 with fetch := x.2.fetch.filter (fun h => !gone h) }))).filter (fun x => x.2.kept) }
           dies := s.dies.map (fun d => { d with slices := d.slices.map free }) }

/-! ## Sampling (R82) -/

/-- Put a line at the top of its stack of 17, and the place at which it was found, from 1. -/
def stackTouch (line : Nat) (l : List Nat) : List Nat × Nat :=
  ((line :: l.filter (· != line)).take 17, if l.contains line then l.idxOf line + 1 else 0)

/-- An access at a slice goes through its shadow directory where its set is sampled: a hit at stack position C counts in CL,
one at C + 1 in CG. -/
def State.sample (s : State) (die line : Nat) : State :=
  let set := s.l2SetOf line
  s.modSlice (s.sliceNo die line) (fun x =>
    let (l, pos) := stackTouch line ((aget x.shadow set).getD [])
    let C := 16 - x.fcur.toNat
    let on := set % 384 == 0
    { x with shadow := if on then aset x.shadow set l else x.shadow
             cl := x.cl + b2n (on && pos == C), cg := x.cg + b2n (on && pos == C + 1) })

/-! ## Accesses (R74, R78, R115, R378) -/

/-- Does the L1D of the core hold the line, for a write exclusive? -/
def State.l1Hit (s : State) (core line : Nat) (wr : Bool) : Bool :=
  match aget s.caches.l1 (core * 2 ^ 33 + line) with
  | some l => !wr || l.excl
  | none => false

/-- Instruction caches are kept coherent with the L2 directories: a written line leaves them (R15, R285). -/
def State.dropIcache (s : State) (line : Nat) : State :=
  { s with caches := { s.caches with icache := s.caches.icache.filter (fun k => k % 2 ^ 33 != line) } }

/-- The slice's part of an access of a die to a line: a frame, or the cache ways; during SRAM-only service the slice of R378
is the memory itself. Answers the tag of what serves it. -/
def State.sliceAccess (s : State) (die line tag : Nat) (stream wr : Bool) : State × Nat :=
  if !s.regs.full then (s, tag)
  else
    match s.frameServes die (line / 512) tag stream wr with
    | (s, true) => (s.l2Bring die line tag wr, (s.frameOf die (line / 512)).elim tag (·.2.tag))
    | (s, false) =>
      let s := (s.sample die line).l2Bring die line tag wr
      (s, (s.l2Line die line).elim tag (·.tag))

/-- May the L1D of a core hold a line? Those of other dies do not during SRAM-only service (R378). -/
def State.l1May (s : State) (die line : Nat) : Bool := s.regs.full || s.homeDie (line * 128) == die

/-- Does the slice hold the line after an access, so that an L1D of the die may: the L2 includes it (R115)? -/
def State.sliceHolds (s : State) (die line : Nat) : Bool :=
  !s.regs.full || (s.l2Line die line).isSome

/-- The die whose slice serves an access of a die to a line: its own, or during SRAM-only service the line's (R112, R378). -/
def State.servingDie (s : State) (die line : Nat) : Nat := if s.regs.full then die else s.homeDie (line * 128)

/-- An access that finds no line in the L1D of its core is a miss (R407). -/
def State.l1Miss (s : State) (core line : Nat) : State :=
  if (aget s.caches.l1 (core * 2 ^ 33 + line)).isSome then s else s.count core 2

/-- A core or engine reads a line: from its L1D, or through the slice. `core` names the L1D that takes it. -/
def State.readLine (s : State) (die : Nat) (core : Option Nat) (line tag : Nat) (stream : Bool) : State :=
  let d := s.servingDie die line
  match core with
  | none => ((s.shareL1 d line).sliceAccess d line tag stream false).1
  | some c =>
    if s.l1Hit c line false then s
    else
      let (s, t) := ((s.l1Miss c line).shareL1 d line).sliceAccess d line tag stream false
      if s.l1May die line && s.sliceHolds d line then s.l1Fill c line t false else s

/-- A write that is performed at the slice: a narrow store, an atomic, an engine's or a memory core's. Every L1D but that of
the issuing core, whose copy is updated, gives the line up (R74). -/
def State.mergeLine (s : State) (die : Nat) (core : Option Nat) (line tag : Nat) (stream : Bool) : State :=
  let d := s.servingDie die line
  ((((s.dropL1 d line core).shareL1 d line).dropIcache line).sliceAccess d line tag stream true).1

/-- A whole-byte store of a core: its L1D holds the line exclusive (R74). -/
def State.storeLine (s : State) (die core line tag : Nat) (stream : Bool) : State :=
  let s := s.l1Miss core line
  if !s.l1May die line then s.mergeLine die none line tag stream
  else if s.l1Hit core line true then s.l1Fill core line tag true
  else
    let (s, t) := ((s.dropL1 die line (some core)).dropIcache line).sliceAccess die line tag stream true
    if s.sliceHolds die line then s.l1Fill core line t true else s

/-- An instruction fetch brings its line into the instruction cache of a core or memory core: 64 KiB, 512 lines, any of which may
leave for a new one (R15, R18, log 9). A line of another die is not kept during SRAM-only service (R378). -/
def State.fetchLine (s : State) (t die key tag : Nat) : State :=
  let k := lineKey t key
  if s.caches.icache.contains k then s
  else
    let s := s.readLine die none (key / 128) tag false
    let mine := s.caches.icache.filter (fun x => x / 2 ^ 33 == t)
    let gone := if mine.length < 512 then none else mine[Config.victim s.fresh % 512]?
    if !s.l1May die (key / 128) then s
    else { s with caches := { s.caches with icache := k :: s.caches.icache.filter (fun x => some x != gone) } }

/-- Fills that are on their way are given up, where the line's address tells. -/
def State.dropFills (s : State) (gone : Nat → Bool) : State := { s with caches := { s.caches with fills := s.caches.fills.filter (fun f => !gone f.line) } }

/-- Take a line out of every cache of the package, and its fills on their way. -/
def State.purgeLine (s : State) (line : Nat) : State :=
  (((List.range 4).foldl (fun s d => s.dropLine d line) s).dropIcache line).dropFills (· == line)

/-- Take every line of [a, a + n) out of every cache, with the frames of its pages: a frame ring hands it out anew, with
another tag. Pinned lines and frames keep their slots. -/
def State.purgeLines (s : State) (a n : Nat) : State :=
  let inside (k : Nat) : Bool := decide (a / 128 ≤ k % 2 ^ 33) && decide (k % 2 ^ 33 < (a + n) / 128)
  let s := (s.caches.l2.filter (fun x => inside x.1)).foldl (fun s x => s.dropLine (x.1 / 2 ^ 33) (x.1 % 2 ^ 33)) (s.dropFills inside)
  let gone (f : PageFrame) : Bool := decide (a ≤ f.page * 65536) && decide (f.page * 65536 < a + n) && f.pins.isEmpty
  { s with dies := s.dies.map (fun d => { d with slices := d.slices.map (fun x => { x with frames := x.frames.filter (fun f => !gone f) }) }), caches := { s.caches with l1 := s.caches.l1.filter (fun x => !inside x.1), icache := s.caches.icache.filter (fun k => !inside k) } }

end Sys2Proof.Machine
end

