-- ==== Sys2Proof/Machine/Xlate.lean ====
section
/-!
DEFINITION. Translation and tags: the global walk (R87 to R90), the stream walk (R91, R92), TLBs and the ring (R93 to
R95, R412), clearance (R101 to R105), and the tag that checks an access to a line (R105).
-/

namespace Sys2Proof.Machine

/-- Kinds of access as a translation sees them (R90, R211, R412). -/
inductive Acc where
  | fetch | load | store
  /-- CFLUSH and CINV: no permission bit is needed -/
  | cache
  deriving DecidableEq, Repr

/-- DETAIL [1:0] of a translation fault (R392). -/
def Acc.code : Acc → Nat
  | .fetch => 0 | .load => 1 | .store => 2 | .cache => 2

/-- Who accesses memory: with whose rights, through which TLB (an engine asks the walker), under which cluster's walker
and tag-check cache, and on which die. -/
structure Agent where
  rights : Rights := {}
  tlb : Option Nat := none
  cl : Nat := 0
  die : Nat := 0
  /-- the windows it reaches (R67), by code; whether it reaches those of other packages, and of which cluster alone -/
  wins : List Nat := [0, 1, 2, 3]
  away : Bool := true
  only : Option Nat := none
  /-- its agent number in the fabric (R120) -/
  sagt : Nat := 0
  /-- the name under which the denials of its operation are remembered over the parts of its work (R103) -/
  log : Option Nat := none
  /-- it reaches a cellar ring: with no tag check, and no count in hotness (R371) -/
  ring : Bool := false
  deriving DecidableEq, Repr, Inhabited

/-- The rights of the task in a context. -/
def State.rightsOf (s : State) (cx : Nat) : Rights :=
  let c := s.ctx cx
  { cx := cx, uid := c.uid, ident := c.csrs.ident, cbase := c.cbase, sid := c.csrs.sid }

/-- Walker and tag-check cache of a context: its cluster's; for a memory core those of its die's cluster 0 (R93). -/
def walkCluster (cx : Nat) : Nat := if isMemCtx cx then 4 * dieOf cx else clusterOf cx

/-- The agent that a context is; memory cores reach windows of their package alone (R67). -/
def State.ctxAgent (s : State) (cx : Nat) : Agent :=
  { rights := s.rightsOf cx, tlb := some (coreOf cx), cl := walkCluster cx, die := dieOf cx, away := !isMemCtx cx, sagt := agentOf cx }

/-- The agent that an engine is for the rights it acts with. -/
def engineAgent (r : Rights) : Agent :=
  { rights := r, cl := walkCluster r.cx, die := dieOf r.cx, sagt := if isMemCtx r.cx then agentOf r.cx else portAgent (clusterOf r.cx) }

/-- The core whose L1D an agent's accesses go through: engines and memory cores have none (R15). -/
def Agent.core (ag : Agent) : Option Nat := ag.tlb.filter (fun t => decide (t < 1024))

/-! ## Walks -/

/-- How a table walk ends. -/
inductive TableEnd where
  /-- address of the leaf entry, the entry, its level -/
  | leaf (at_ : Nat) (e : Word) (level : Nat)
  | invalid
  /-- an entry is poisoned (R413) -/
  | damaged (at_ : Nat)
  /-- the stack of an entry is stopped for new firmware: the walk waits (R384) -/
  | wait
  deriving DecidableEq, Repr

/-- Index of a byte address in the table of a level (R87). -/
def gIndex (va : Nat) : Nat → Nat
  | 0 => bits va 20 16
  | 1 => bits va 29 21
  | 2 => bits va 38 30
  | _ => bits va 56 39

/-- Size of the page that a leaf at a level maps, as a power of two of bytes. -/
def levelSize : Nat → Nat
  | 0 => 16 | 1 => 21 | _ => 30

/-- The walk from a table of the level given downward (R90). -/
def State.tableWalk (s : State) (va : Nat) : Nat → Nat → TableEnd
  | 0, t =>
    let a := t + 8 * gIndex va 0
    let e := s.phys a
    if s.stopped a then .wait else if s.poisoned a then .damaged a else if e.getLsbD 0 then .leaf a e 0 else .invalid
  | n + 1, t =>
    let a := t + 8 * gIndex va (n + 1)
    let e := s.phys a
    if s.stopped a then .wait
    else if s.poisoned a then .damaged a
    else if !e.getLsbD 0 || (n + 1 == 3 && e.getLsbD 2) then .invalid
    else if e.getLsbD 2 then .leaf a e (n + 1)
    else s.tableWalk va n (Wbits e 39 8 * 2 ^ 8)

/-- The walk of a global bit address from the root of GVTB (R88, R90). -/
def State.globalWalk (s : State) (x : Word) : TableEnd :=
  if Wbits x 61 60 ≠ 0 ∨ !s.regs.gvtbEn then .invalid
  else s.tableWalk (Wbits x 59 3) 3 (s.regs.gvtbRoot.toNat * 2 ^ 21)

/-- The translation that a global leaf gives (R89). -/
def leafEntry (x e : Word) (level : Nat) : TlbEntry :=
  let size := levelSize level
  { key := Wbits x 59 3 / 2 ^ size, own := Wbits e 43 32, frame := Wbits e 31 8 * 2 ^ 16 / 2 ^ size * 2 ^ size
    size := size, tag := Wbits e 63 44, rd := e.getLsbD 3, wr := e.getLsbD 4, ex := e.getLsbD 5, dirty := e.getLsbD 7 }

/-- Does an entry give the permission that an access needs? -/
def TlbEntry.grants (e : TlbEntry) : Acc → Bool
  | .fetch => e.ex | .load => e.rd | .store => e.wr | .cache => true

/-- How a translation ends. -/
inductive Xl where
  | found (e : TlbEntry)
  /-- translation fault: DETAIL [4:2] -/
  | fault (detail : Nat)
  | damaged (at_ : Nat)
  /-- the stream is migrating, or a stack is stopped: the access waits (R311, R384) -/
  | hold
  deriving DecidableEq, Repr

/-- Set A, and D for a store or atomic, in a leaf (R90); CFLUSH and CINV, which store nothing, set A alone. A CAS of the entry
just read in the same step succeeds. -/
def State.markLeaf (s : State) (a : Nat) (e : Word) (acc : Acc) : State :=
  let new : Word := match acc with
    | .store => e ||| 0xC0
    | _ => e ||| 0x40
  if new = e then s else s.setPhys a new

/-- The global translation by the walker (R90, R97). -/
def State.walkGlobal (s : State) (ag : Agent) (x : Word) (acc : Acc) : State × Xl :=
  match s.globalWalk x with
  | .invalid => (s, .fault 4)
  | .damaged a => (s, .damaged a)
  | .wait => (s, .hold)
  | .leaf a e level =>
    let t := leafEntry x e level
    if !t.grants acc then (s, .fault 0)
    else if !s.knows t.own then (s, .fault 4)
    else
      let s := s.markLeaf a e acc
      let s := if ag.ring then s else s.walkInc t.own ((t.frame + Wbits x 59 3 % 2 ^ t.size) / 2 ^ 16) ag.die
      (s, .found { t with dirty := t.dirty || acc == .store })

/-- Reference count of the 4 KiB unit at a physical byte address (R299). -/
def State.refAddr (s : State) (a : Nat) : Nat := s.regs.refb.toNat * 2 ^ 31 + 8 * (a >>> 12)

def State.refCount (s : State) (a : Nat) : Nat := Wbits (s.phys (s.refAddr a)) 31 0

/-- The stream translation by the walker of a cluster (R91, R92, R412). -/
def State.walkStream (s : State) (cl : Nat) (sid : BitVec 32) (x : Word) (acc : Acc) : Xl :=
  if Wbits x 61 37 ≠ 0 then .fault 12
  else
    match (s.cluster cl).streams.find sid with
    | none => .fault 12
    | some (_, c) =>
      if c.state = .migrating then .hold
      else
      let o := Wbits x 36 3
      let ra := c.root + 8 * bits o 33 25
      let r := s.phys ra
      let la := Wbits r 39 12 * 2 ^ 12 + 8 * bits o 24 16
      let l := s.phys la
      if s.stopped ra || (r.getLsbD 0 && s.stopped la) then .hold
      else if s.poisoned ra then .damaged ra
      else if !r.getLsbD 0 then .fault 12
      else if s.poisoned la then .damaged la
      else if !l.getLsbD 0 then .fault 12
      else
        let t : TlbEntry :=
          { stream := true, key := sid.toNat * 2 ^ 18 + o / 2 ^ 16, sid := sid.toNat, own := s.sys.self
            frame := Wbits l 39 16 * 2 ^ 16, tag := Wbits l 63 44, rd := l.getLsbD 1, wr := l.getLsbD 2, dirty := true
            s := decide (1 < s.refCount c.root) || decide (1 < s.refCount (Wbits r 39 12 * 2 ^ 12))
              || decide (1 < s.refCount (Wbits l 39 16 * 2 ^ 16)) }
        if t.grants acc then .found t else .fault 8

/-! ## TLBs (R93, R94, R412, R415) -/

/-- Does a TLB entry match an address of global or stream space? An offset beyond the tree matches none (R64, R91, R92). -/
def TlbEntry.hits (e : TlbEntry) (sid : BitVec 32) (x : Word) : Bool :=
  if x.getLsbD 62 then e.stream && e.sid == sid.toNat && Wbits x 61 37 == 0 && e.key == sid.toNat * 2 ^ 18 + Wbits x 36 19
  else !e.stream && Wbits x 61 60 == 0 && e.key == Wbits x 59 3 / 2 ^ e.size

/-- The entries of a TLB. -/
def State.tlb (s : State) (t : Nat) : List TlbEntry := (aget s.caches.tlbs t).getD []

/-- Replace the entries of a TLB. -/
def State.setTlb (s : State) (t : Nat) (l : List TlbEntry) : State :=
  { s with caches := { s.caches with tlbs := aset s.caches.tlbs t l } }

/-- Install an entry; a full TLB gives up one (log 10). -/
def State.installTlb (s : State) (t : Nat) (e : TlbEntry) : State :=
  let l := s.tlb t
  let l := if l.length < 256 then l else l.eraseIdx (Config.tlbVictim s.fresh % 256)
  s.setTlb t (e :: l)

/-- The other cores of a core's group, in the order the ring visits them (R94). -/
def ringOrder (core : Nat) : List Nat := (List.range 15).map (fun k => core / 16 * 16 + (core + 1 + k) % 16)

/-- The copy that the ring brings, if a core of the group holds a match (R94). -/
def State.ringFind (s : State) (core : Nat) (sid : BitVec 32) (x : Word) : Option TlbEntry :=
  if 1024 ≤ core then none
  else (ringOrder core).findSome? (fun q => (s.tlb q).find? (fun e => e.hits sid x))

/-- Does an entry serve the access without a new walk? A store needs the D bit recorded (R415). -/
def TlbEntry.serves (e : TlbEntry) (acc : Acc) : Bool := e.grants acc && (acc != .store || e.dirty)

/-- Translation by the walker for an agent. -/
def State.walk (s : State) (ag : Agent) (x : Word) (acc : Acc) : State × Xl :=
  if x.getLsbD 62 then (s, if isMemCtx ag.rights.cx then .fault 12 else s.walkStream ag.cl (ag.rights.sid.setWidth 32) x acc) else s.walkGlobal ag x acc

/-- Walk, and install what is found. -/
def State.walkInstall (s : State) (t : Nat) (ag : Agent) (x : Word) (acc : Acc) : State × Xl :=
  match s.walk ag x acc with
  | (s, .found e) => (s.installTlb t e, .found e)
  | r => r

/-- Translation of a global or stream address for an agent: its TLB, the ring, the walker. An entry that lacks the
permission is dropped and the walk made again (R412). With GVTB.EN clear no entry serves a global access (R88). -/
def State.translate (s : State) (ag : Agent) (x : Word) (acc : Acc) : State × Xl :=
  let sid : BitVec 32 := ag.rights.sid.setWidth 32
  match (if x.getLsbD 62 || s.regs.gvtbEn then ag.tlb else none) with
  | none => s.walk ag x acc
  | some t =>
    match (s.tlb t).find? (fun e => e.hits sid x) with
    | some e =>
      if e.serves acc then (s, .found e)
      else (s.setTlb t ((s.tlb t).filter (fun e => !e.hits sid x))).walkInstall t ag x acc
    | none =>
      let s := s.count t 3
      match s.ringFind t sid x with
      | some e =>
        if e.serves acc then ((s.count t 4).installTlb t e, .found e) else s.walkInstall t ag x acc
      | none => s.walkInstall t ag x acc

/-! ## Tags (R101 to R105, R413) -/

/-- The set of the tag-check cache that holds an entry; the manual gives no index (log 10). -/
def tagSet (e : TagEntry) : Nat := Config.tagSet e.ident.toNat e.cbase e.tag % 1024

/-- Room for an entry in its set of four ways: which entry leaves a full set is a free value (R104, log 10). -/
def tagRoom (l : List TagEntry) (e : TagEntry) (pick : Nat) : List TagEntry :=
  let same := l.filter (fun x => tagSet x == tagSet e)
  match if same.length < 4 then none else same[pick % 4]? with
  | some v => l.filter (· != v)
  | none => l

/-- Is a page tag allowed to the agent? The tag-check cache remembers the answer read from the bitmap (R104); an
uncorrectable bitmap word denies, and nothing is cached (R413). -/
def State.allowed (s : State) (ag : Agent) (tag : Nat) : State × Bool :=
  if tag = 0 then (s, true)
  else
    match ag.rights.cbase with
    | none => (s, false)
    | some base =>
      let r := ag.rights
      match (s.cluster ag.cl).tagCache.find? (fun e => e.ident == r.ident && e.cbase == base && e.tag == tag) with
      | some e => (s, e.allow)
      | none =>
        let a := base + tag / 64 * 8
        if s.poisoned a then (s.damagedRec a r.ident 0, false)
        else
          let ok := (s.phys a).getLsbD (tag % 64)
          let e : TagEntry := { ident := r.ident, cbase := base, tag := tag, allow := ok }
          (s.modCluster ag.cl (fun c => { c with tagCache := e :: tagRoom c.tagCache e (Config.victim s.fresh) }), ok)

/-- The tag that checks an access to a line: the copy in the line where the L1D, a frame or the slice of the die holds it,
else the one that comes with the fill (R105, R115). -/
def State.lineTag (s : State) (ag : Agent) (key tag : Nat) : Nat :=
  let line := key / 128
  let d := s.servingDie ag.die line
  match ag.core.bind (fun t => aget s.caches.l1 (lineKey t key)) with
  | some l => l.tag
  | none => match s.frameOf d (line / 512) with
    | some (_, f) => f.tagOr tag
    | none => (s.l2Line d line).elim (s.comingTag d line tag) (·.tag)

end Sys2Proof.Machine
end

