-- ==== Sys2Proof/Machine/Access.lean ====
section
/-!
DEFINITION. Accesses to memory at any bit address and width (R61 to R77, R96, R103, R117): the parts of an access, the
checks of R399, range locks (R223, R224), reads, writes and atomics.
-/

namespace Sys2Proof.Machine

/-! ## Placement (R62, R63, R68, R69) -/

/-- A place in a window: package, core, window code, in-core bit offset. -/
structure Place3 where
  pkg : Nat := 0
  core : Nat := 0
  win : Nat := 0
  inc : Nat := 0
  deriving DecidableEq, Repr, Inhabited

/-- The place of the bit at a local-window address; none when it is not in range (R63, R68, R69, R75). -/
def State.placeWin (s : State) (x : Word) : Option Place3 :=
  let win := Wbits x 62 60
  let pkg := if x.getLsbD 36 then s.sys.self else Wbits x 59 48
  if 4 ≤ win ∨ Wbits x 35 23 ≠ 0 ∨ !s.knows pkg then none
  else if x.getLsbD 37 then
    if win = 3 then none
    else some { pkg := pkg, core := Wbits x 47 44 * 64 + Wbits x 11 6, win := win, inc := Wbits x 22 12 * 64 + Wbits x 5 0 }
  else if windowSpan win ≤ Wbits x 22 0 then none
  else some { pkg := pkg, core := Wbits x 47 38, win := win, inc := Wbits x 22 0 }

/-! ## Parts (R73) -/

/-- One part of an access: at most the bits of one aligned word. -/
structure Part where
  lane : Nat := 0
  addr : Word := 0
  len : Nat := 0
  /-- position of its first bit in the access -/
  pos : Nat := 0
  win : Option Place3 := none
  own : Nat := 0
  /-- byte key of its word at the owner, and its first bit in that word -/
  key : Nat := 0
  off : Nat := 0
  tag : Nat := 0
  /-- its page (R103): physical 64 KiB frame or larger page -/
  page : Nat := 0
  denied : Bool := false
  /-- shared: a write waits for the copy-on-write walker (R92) -/
  cow : Bool := false
  /-- it lies in stream space; the slice of another die serves it (R378) -/
  stream : Bool := false
  far : Bool := false
  fault : Option Trap := none
  /-- what another package reads it for (see `Packet.use`) -/
  use : Nat := 0
  deriving DecidableEq, Repr, Inhabited

/-- Cut w bits from an address at the 64-bit boundaries. -/
def splitBits (lane : Nat) : Nat → Word → Nat → Nat → List Part
  | 0, _, _, _ => []
  | n + 1, a, pos, left =>
    if left = 0 then []
    else
      let k := min left (64 - Wbits a 5 0)
      { lane := lane, addr := a, len := k, pos := pos } :: splitBits lane n (a + wordOfNat k) (pos + k) (left - k)

/-- The parts of an access of w bits. -/
def partsOf (lane : Nat) (a : Word) (w : Nat) : List Part := splitBits lane (w / 64 + 2) a 0 w

/-- The mask of a part's bits in its word. -/
def Part.mask (p : Part) : Word := wordOfNat ((2 ^ p.len - 1) * 2 ^ p.off)

/-- Does the agent reach the place (R67, R217)? Memory cores have no path to C; DEDUCED (log 27): they reach window 0b011, the
bits of C granules among it. The windows of a cluster that has left service are gone (R443). -/
def State.reaches (s : State) (ag : Agent) (w : Place3) : Bool :=
  ag.wins.contains w.win && !(isMemCtx ag.rights.cx && w.win == 2) && (ag.away || w.pkg == s.sys.self) &&
    (match ag.only with | none => true | some cl => w.core / 64 == cl) &&
    !(w.pkg == s.sys.self && s.boot.left.contains (w.core / 64))

/-- Resolve a part in window space. -/
def State.placePart (s : State) (ag : Agent) (p : Part) : Part :=
  match s.placeWin p.addr with
  | none => { p with fault := some { cause := 0x03, detail := 0, lane := p.lane, val := p.addr } }
  | some w =>
    if s.reaches ag w then
      { p with win := some w, own := w.pkg, key := windowKey w.core w.win (w.inc / 64 * 64), off := w.inc % 64 }
    else { p with fault := some { cause := 0x03, detail := 0, lane := p.lane, val := p.addr } }

/-- Resolve a part in global or stream space: translation, the physical range, the tag (R90, R91, R101, R113). -/
def State.xlatePart (s : State) (ag : Agent) (acc : Acc) (p : Part) : State × Part :=
  let st := if p.addr.getLsbD 62 then 8 else 0
  match s.translate ag p.addr acc with
  | (s, .fault d) => (s, { p with fault := some { cause := 0x04, detail := acc.code + (d ||| st), lane := p.lane, val := p.addr } })
  | (s, .damaged a) =>
    (s.damagedRec a ag.rights.ident p.addr,
     { p with fault := some { cause := 0x0E, lane := p.lane, val := p.addr } })
  | (s, .hold) => (s, { p with fault := some Trap.hold })
  | (s, .found e) =>
    let a := e.frame + Wbits p.addr 59 3 % 2 ^ e.size
    if e.own = s.sys.self ∧ s.memTop ≤ a then
      (s, { p with fault := some { cause := 0x03, detail := 1, lane := p.lane, val := p.addr } })
    else
      let (own, key) := s.whereNow stubFuel e.own (a / 8 * 8)
      if own = s.sys.self ∧ (s.stopped key ∨ s.inTransit key) then (s, { p with fault := some Trap.hold })
      else
        let tag := if own = s.sys.self then s.lineTag ag key e.tag else e.tag
        let (s, ok) := if ag.ring then (s, true) else s.allowed ag tag
        (s, { p with own := own, key := key, off := Wbits p.addr 5 0, tag := tag, page := e.frame / 2 ^ 16, denied := !ok, cow := e.s
                     stream := e.stream, use := b2n ag.ring, far := s.servingDie ag.die (key / 128) != ag.die })

/-! ## Range locks (R223, R224) -/

/-- Offset OFS of R68 of a place under interleaved placement; none beyond the interleaved span. -/
def interleaved (core inc : Nat) : Option Nat :=
  if inc < 2 ^ 17 then some (inc / 64 * 4096 + core % 64 * 64 + inc % 64) else none

/-- Does a range of len bits at a place meet a lock entry in window space? The range lies in one word. -/
def RangeLock.meetsWin (e : RangeLock) (w : Place3) (len : Nat) : Bool :=
  match e.win with
  | none => false
  | some (pkg, core, win) =>
    if pkg ≠ w.pkg ∨ win ≠ w.win then false
    else if core = w.core then decide (e.lo < w.inc + len) && decide (w.inc < e.hi)
    else if core = 1024 + w.core / 64 then
      match interleaved w.core w.inc with
      | none => false
      | some o => decide (e.lo < o + len) && decide (o < e.hi)
    else false

/-- Does a part meet a lock entry? Addresses outside the windows compare as issued (R223). -/
def RangeLock.meets (e : RangeLock) (p : Part) : Bool :=
  match p.win with
  | some w => e.meetsWin w p.len
  | none => e.win.isNone && decide (e.lo < p.addr.toNat + p.len) && decide (p.addr.toNat < e.hi)

/-- The range-lock trap of an access of a context, if any (R224): a load passes source entries. -/
def State.lockTrap (s : State) (ag : Agent) (acc : Acc) (p : Part) : Option Trap :=
  if ag.tlb.isNone || isMemCtx ag.rights.cx then none
  else
    let hit := (s.cluster ag.cl).locks.filter (fun e => e.meets p)
    if hit.any (·.dest) then some { cause := 0x05, detail := 1, lane := p.lane, val := p.addr }
    else if acc != .load && !hit.isEmpty then some { cause := 0x05, detail := 0, lane := p.lane, val := p.addr }
    else none

/-! ## Pending stores of the same context (R111, R272) -/

/-- The bank, slice or agent of another package that performs an access beyond the issuing core (R74, R111). -/
def State.destOf (s : State) (ag : Agent) (p : Part) : Nat :=
  if p.own ≠ s.sys.self then 0x100000 + 2048 * p.own + s.destAgent p.key
  else match p.win with
    | some w =>
      let bank := if w.win = 3 then (if w.inc < 32768 then 0 else if w.inc < 49152 then 1 else 2) else w.win
      0x10000 + 4 * w.core + bank
    | none => s.sliceNo (s.servingDie ag.die (p.key / 128)) (p.key / 128)

/-- Is a store of the task to the same word on its way? -/
def RStore.sameWord (r : RStore) (uid key : Nat) : Bool := r.uid == uid && (r.key == key || r.more.any (fun m => m.1 == key))

/-- Perform what is before an access at its place: the flow of its core to the same bank or slice, and the flows with the
task's pending stores to the same word (R111, R272). -/
def State.catchUp (s : State) (cx uid dst key : Nat) : State :=
  let dsts := dst :: (s.rstores.filter (fun r => r.sameWord uid key)).map (·.dst)
  s.flush (fun r => coreOf r.cx == coreOf cx && dsts.contains r.dst)

/-- Does the access follow a store of the task to the same word that another package has yet to acknowledge, and that went
another way (R271, R280)? It waits for it. -/
def State.behindOther (s : State) (uid dst : Nat) (p : Part) : Bool :=
  s.rstores.any (fun r => r.uid == uid && r.req.isSome && r.dst != dst && r.words.contains (p.addr.toNat / 64))

/-! ## Checks (R399) -/


/-- Check one part: placement or translation, range locks, and poison for an access that reads. -/
def State.checkPart (s : State) (ag : Agent) (acc : Acc) (rd : Bool) (p0 : Part) : State × Part :=
  let (s, p) := if p0.addr.getLsbD 63 then (s, s.placePart ag p0) else s.xlatePart ag acc p0
  match p.fault with
  | some _ => (s, p)
  | none =>
    match s.lockTrap ag acc p with
    | some t => (s, { p with fault := some t })
    | none =>
      let dst := s.destOf ag p
      let s := if ag.tlb.isSome then s.catchUp ag.rights.cx ag.rights.uid dst p.key else s
      if s.behindOther ag.rights.uid dst p then (s, { p with fault := some Trap.hold })
      else if rd && !p.denied && p.own == s.sys.self && s.poisoned p.key then
        (s, { p with fault := some { cause := 0x0E, lane := p.lane, val := p.addr } })
      else (s, p)

/-- Check the parts in order. -/
def State.checkParts (s : State) (ag : Agent) (acc : Acc) (rd : Bool) : List Part → State × List Part
  | [] => (s, [])
  | p :: ps =>
    let (s, q) := s.checkPart ag acc rd p
    let (s, qs) := s.checkParts ag acc rd ps
    (s, q :: qs)

/-- Order in which causes are reported (R399). A part that has to wait comes first: what it will meet is not known yet. -/
def causeRank : Nat → Nat
  | 0x00 => 0 | 0x02 => 4 | 0x03 => 5 | 0x04 => 6 | 0x05 => 7 | 0x07 => 8 | 0x09 => 9 | _ => 10

/-- The trap to report: the cause of highest order, then the lowest lane and part. -/
def worstFault : List Part → Option Trap
  | [] => none
  | p :: ps =>
    match p.fault, worstFault ps with
    | none, r => r
    | some t, none => some t
    | some t, some u => some (if causeRank t.cause ≤ causeRank u.cause then t else u)

/-- Has the operation already logged a denial of the page, or shall it remember that it has (R103)? -/
def State.hasLogged (s : State) (ag : Agent) (page : Nat) : Bool :=
  ag.log.any (fun n => ((aget s.opDenials n).getD []).contains page)
def State.noteLogged (s : State) (ag : Agent) (page : Nat) : State :=
  match ag.log with
  | none => s
  | some n => { s with opDenials := aset s.opDenials n (page :: (aget s.opDenials n).getD []) }

/-- Append one denial record per denied page of an instruction or operation (R103); the pages logged. -/
def logDenials (ag : Agent) (acc : Nat) : List Part → List Nat → State → State × List Nat
  | [], seen, s => (s, seen)
  | p :: ps, seen, s =>
    let page := p.own * 2 ^ 32 + p.page
    if p.denied && !seen.contains page && !s.hasLogged ag page then
      logDenials ag acc ps (page :: seen)
        ((s.denial ag.rights.ident p.tag acc ag.rights.cx p.addr s.sys.self p.page false).noteLogged ag page)
    else logDenials ag acc ps seen s

/-! ## Forwarded requests (R96, R414) -/

/-- A request of this task to another package: its line at the owner and operation. -/
def Fwd.isFor (f : Fwd) (uid own line op : Nat) : Bool := f.uid == uid && f.own == own && f.line == line && f.op == op

/-- The read of a part's line that this task has asked another package for, to the same use. -/
def Fwd.reads (f : Fwd) (uid : Nat) (p : Part) : Bool := f.isFor uid p.own (p.key / 128 * 128) 0x01 && f.use == p.use

/-- The atomic of the task that another package has been asked for: it is answered, whatever a new translation gives (R415). -/
def State.atomSent (s : State) (uid : Nat) : Option Fwd := s.net.fwds.find? (fun f => f.uid == uid && f.op == 0x04 && f.drop.isNone)

/-- The poison that an answer to an atomic names, by its bit offset in the operand: its third word is one more, 0 for none. -/
def Fwd.poison (f : Fwd) : Option Nat :=
  match ((f.resp.getD []).getD 2 0).toNat with
  | 0 => if f.lost then some 0 else none
  | n + 1 => some n

/-- Send a forwarded request and remember it. -/
def State.forward (s : State) (ag : Agent) (own line op : Nat) (addr : Word) (payload : List Word) (tag : Nat) (use lane : Nat := 0) : State :=
  let (id, s) := s.request { dpkg := own, dagt := s.destAgent line, sagt := ag.sagt, idn := ag.rights.ident.toNat, op := op
                             payload := payload, line := line, cx := ag.rights.cx, addr := addr, tag := tag, use := use }
  let f : Fwd := { id := id, cx := ag.rights.cx, uid := ag.rights.uid, own := own, line := line, op := op, use := use, lane := lane, sent := s.cycle }
  { s with net := { s.net with fwds := s.net.fwds ++ [f] } }

/-- Does the task wait for another package to perform an LDFE? -/
def State.ldfeAsked (s : State) (uid : Nat) : Bool := s.net.fwds.any (fun f => f.uid == uid && f.op == 0x04 && f.use == 3 && f.resp.isNone && !f.lost)

/-- Take back the LDFE of a task that waits at another package's granule: asked of its owner once, by the name of its request
(R207, log 104). -/
def State.takeBack (s : State) (cx uid : Nat) : State :=
  match s.net.fwds.find? (fun f => f.uid == uid && f.op == 0x04 && f.use == 3 && f.resp.isNone && !f.lost) with
  | none => s
  | some f =>
    if s.net.fwds.any (fun g => g.drop == some f.id) then s
    else
      let (id, s) := s.request { dpkg := f.own, dagt := s.destAgent f.line, sagt := agentOf cx, op := 0x04, payload := [wordOfNat f.id, 0x2F], line := f.line, cx := cx }
      { s with net := { s.net with fwds := s.net.fwds ++ [{ id := id, cx := cx, uid := uid, own := f.own, line := f.line, op := 0x04, drop := some f.id, sent := s.cycle }] } }

/-- Send the requests that are not yet sent for the lines of the parts that another package owns; a flag says whether
every answer is there. -/
def forwardReads (ag : Agent) : List Part → State → State × Bool
  | [], s => (s, true)
  | p :: ps, s =>
    if p.own = s.sys.self ∨ p.denied then forwardReads ag ps s
    else
      match s.net.fwds.find? (fun f => f.reads ag.rights.uid p) with
      | some f => let (s, r) := forwardReads ag ps s; (s, r && (f.resp.isSome || f.lost))
      | none => let (s, _) := forwardReads ag ps (s.forward ag p.own (p.key / 128 * 128) 0x01 p.addr [] p.tag p.use); (s, false)

/-- Was an answer lost with its owner (R414)? The lowest such part traps. -/
def lostPart (s : State) (uid : Nat) (p : Part) : Bool :=
  p.own != s.sys.self && !p.denied &&
    s.net.fwds.any (fun f => f.reads uid p && f.lost)

/-- Has the answer for a part a poisoned word? An answer's seventeenth word holds one bit a word (R420). -/
def poisonedPart (s : State) (uid : Nat) (p : Part) : Bool :=
  p.own != s.sys.self && !p.denied &&
    s.net.fwds.any (fun f => f.reads uid p && ((f.resp.getD []).getD 16 0).getLsbD (p.key % 128 / 8))

/-- The word that a part reads: memory, or the answer of the owner. -/
def State.wordOf (s : State) (uid : Nat) (p : Part) : Word :=
  if p.own = s.sys.self then memWord s.mem p.key
  else
    match s.net.fwds.find? (fun f => f.reads uid p) with
    | some f => (f.resp.getD []).getD (p.key % 128 / 8) 0
    | none => 0

/-- The bits of one part; a denied part reads 0 (R103). -/
def State.partBits (s : State) (uid : Nat) (p : Part) : Nat :=
  if p.denied then 0 else ((s.wordOf uid p).toNat >>> p.off) % 2 ^ p.len

/-- The value of the parts of one lane. -/
def laneBits (s : State) (uid lane : Nat) : List Part → Nat
  | [] => 0
  | p :: ps => (if p.lane = lane then s.partBits uid p * 2 ^ p.pos else 0) + laneBits s uid lane ps

/-- Flits between the agent's die and the die of a window of this package (R119, R122). -/
def State.winHop (s : State) (ag : Agent) (w : Place3) (there back : Nat) : State :=
  if w.pkg = s.sys.self then (s.dieHop ag.die (w.core / 256) there).dieHop (w.core / 256) ag.die back else s

/-- The parts are read at their places: windows over the fabric, lines through L1D and L2 (R78, R115). -/
def touchParts (ag : Agent) (l1 : Bool) : List Part → State → State
  | [], s => s
  | p :: ps, s =>
    touchParts ag l1 ps
      (match p.win with
       | some w => s.winHop ag w 1 2
       | none =>
         if p.denied || p.own != s.sys.self then s
         else s.readLine ag.die (if l1 then ag.core else none) (p.key / 128) p.tag p.stream)

/-! ## Loads -/

/-- How an access comes out: with a result, waiting, or with a trap. -/
inductive Got (α : Type) where
  | ok (s : State) (v : α)
  | wait (s : State) (k : WaitKind) (what : Word)
  | trap (s : State) (t : Trap)

/-- What checked parts that read come to: their trap, or a wait while another package has yet to answer what lies below a poisoned
part of this one (R399, R421). `use` says what other packages are asked for. -/
def State.judgeReads (s : State) (ag : Agent) (use : Nat) (qs : List Part) : Got Unit :=
  match (worstFault qs).filter (fun t => t.cause != 0x0E) with
  | some t => .trap (s.dropFwds ag.rights.uid) t
  | none =>
    let low := (qs.takeWhile (fun q => q.fault.isNone)).map (fun q => { q with use := use })
    match forwardReads ag low s with
    | (s, false) => .wait s .other 0
    | (s, true) =>
      match low.find? (fun q => lostPart s ag.rights.uid q || poisonedPart s ag.rights.uid q), worstFault qs with
      | some p, _ => .trap (s.dropFwds ag.rights.uid) { cause := 0x0E, lane := p.lane, val := p.addr }
      | none, some t => .trap (s.dropFwds ag.rights.uid) t
      | none, none => .ok s ()

/-- Check and read parts: the parts as checked, with which `laneBits` gives the values. `extra` adds the faults that an
instruction has beside those of memory. -/
def State.readParts (s : State) (ag : Agent) (code : Nat) (l1 : Bool) (extra : State → Part → Option Trap)
    (ps : List Part) : Got (List Part) :=
  let (s, qs) := s.checkParts ag .load true ps
  let qs := qs.map (fun q => match q.fault, extra s q with
    | none, some t => { q with fault := some t }
    | some u, some t => if causeRank t.cause < causeRank u.cause then { q with fault := some t } else q
    | _, none => q)
  match s.judgeReads ag 0 qs with
  | .ok s _ => .ok (touchParts ag l1 qs (logDenials ag code qs [] s).1) qs
  | .wait s k x => .wait s k x
  | .trap s t => .trap s t

/-- No faults beside those of memory. -/
def noExtra : State → Part → Option Trap := fun _ _ => none

/-- A load by a context of w bits. -/
def State.load (s : State) (cx : Nat) (a : Word) (w : Nat) : Got Nat :=
  let ag := s.ctxAgent cx
  match s.readParts ag 0 true noExtra (partsOf 0 a w) with
  | .ok s qs => .ok (s.dropFwds ag.rights.uid) (laneBits s ag.rights.uid 0 qs)
  | .wait s k x => .wait s k x
  | .trap s t => .trap s t

/-! ## Stores (R74, R96, R117, R422) -/

/-- Is a store of w bits at a bit address narrow: does any of its bits lie in a byte it does not wholly write (R74)? -/
def isNarrow (a : Word) (w : Nat) : Bool := Wbits a 2 0 != 0 || w % 8 != 0

/-- Is the part's place beyond the issuer's own bank and L1D (R117)? -/
def Part.remote (p : Part) (self : Nat) (cx : Nat) (narrow : Bool) : Bool :=
  if p.own ≠ self then true
  else match p.win with
    | some w => isMemCtx cx || w.core != coreOf cx
    | none => narrow || isMemCtx cx || p.far

/-- A part to write, with its bits and whether its store is narrow. -/
structure Wr where
  part : Part := {}
  val : Nat := 0
  narrow : Bool := false
  /-- the full/empty granule made full with it (R208) -/
  fill : List Nat := []
  /-- the second word of an STFE: its key, bits and values (R208) -/
  more : Option (Nat × Word × Word) := none
  /-- the scope of an STR (R278) -/
  rel : Option Nat := none
  deriving DecidableEq, Repr, Inhabited

/-- The parts that are written: denied ones are dropped (R103). -/
def liveWrites (ws : List Wr) : List Wr := ws.filter (fun w => !w.part.denied)

/-- Is this write the first of its line request to another package? A whole-byte store sends one request a line, a merge
one a word (R96, R120). -/
def firstOfLine (seen : List Nat) (w : Wr) : Bool := w.narrow || !seen.contains (w.part.own * 2 ^ 48 + w.part.key / 128)

/-- Places that the remote stores of an instruction take in the counter (R96, R117). -/
def remoteCount (self cx : Nat) : List Wr → List Nat → Nat
  | [], _ => 0
  | w :: ws, seen =>
    if !w.part.remote self cx w.narrow then remoteCount self cx ws seen
    else if w.part.own = self then 1 + remoteCount self cx ws seen
    else (if firstOfLine seen w then 1 else 0) + remoteCount self cx ws ((w.part.own * 2 ^ 48 + w.part.key / 128) :: seen)

/-- Bytes of a line that the writes of one request cover, and their data: 16 words and a 128-bit mask; a word with 1 for an STFE
follows, and one with a bit per poisoned word (log 24). -/
def linePayload (own line : Nat) (ws : List Wr) (bad : Word) : List Word :=
  let mine := ws.filter (fun w => w.part.own == own && w.part.key / 128 == line && !w.narrow)
  let put (x : Nat) (w : Wr) : Nat :=
    let sh := w.part.key % 128 * 8 + w.part.off
    (x - (x &&& ((2 ^ w.part.len - 1) <<< sh))) + (w.val <<< sh)
  let data := mine.foldl put 0
  let mask := mine.foldl (fun x w => x ||| ((2 ^ (w.part.len / 8) - 1) <<< (w.part.key % 128 + w.part.off / 8))) 0
  (List.range 16).map (fun i => wordOfNat (data >>> (64 * i))) ++
    [wordOfNat mask, wordOfNat (mask >>> 64), wordOfNat (b2n (mine.any (fun w => !w.fill.isEmpty))), bad]

/-- The payload of a MERGE: word, bits, values, whether it poisons the word, whether it fills the granule, and the bits and
values of the next word for an STFE (log 24). -/
def mergePayload (w : Wr) (bad : Bool) : List Word :=
  let p := w.part
  [wordOfNat (p.key % 128 / 8), p.mask, wordOfNat (w.val * 2 ^ p.off), wordOfNat (b2n bad), wordOfNat (b2n (!w.fill.isEmpty))] ++
    (match w.more with
     | some (_, m, v) => [m, v]
     | none => [])

/-- Send a write to another package: one request a line for whole bytes, and one a word otherwise (R96). -/
def State.sendWrite (s : State) (ag : Agent) (all : List Wr) (w : Wr) (bad : Word) (r : RStore) : State :=
  let p := w.part
  let payload := if w.narrow then mergePayload w (bad != 0) else linePayload p.own (p.key / 128) all bad
  let (n, s) := s.request { dpkg := p.own, dagt := s.destAgent p.key, sagt := ag.sagt, idn := ag.rights.ident.toNat
                            op := if w.narrow then 0x03 else 0x02, payload := payload, line := p.key / 128 * 128
                            cx := ag.rights.cx, addr := p.addr, tag := p.tag, use := p.use }
  let words := if w.narrow then (p.addr.toNat / 64) :: (if w.more.isSome then [p.addr.toNat / 64 + 1] else [])
    else (all.filter (fun x => x.part.own == p.own && x.part.key / 128 == p.key / 128 && !x.narrow)).map (fun x => x.part.addr.toNat / 64)
  { s with rstores := s.rstores ++ [{ r with req := some n, words := words, sent := s.cycle }] }

/-- The store of one write. -/
def State.storeOf (s : State) (ag : Agent) (w : Wr) : RStore :=
  { cx := ag.rights.cx, uid := ag.rights.uid, dst := s.destOf ag w.part, key := w.part.key, mask := w.part.mask
    val := wordOfNat (w.val * 2 ^ w.part.off), fill := w.fill, addr := w.part.addr, more := w.more, rel := w.rel }

/-- Do one write of a context: at once at its own bank or L1D, else as a remote store in flight. -/
def State.writeOne (s : State) (ag : Agent) (all : List Wr) (seen : List Nat) (w : Wr) : State :=
  let p := w.part
  let cx := ag.rights.cx
  let r := s.storeOf ag w
  if p.own ≠ s.sys.self then
    if !firstOfLine seen w then s
    else (s.sendWrite ag all w 0 r).modCtx cx (fun c => { c with rcount := c.rcount + 1 })
  else if p.remote s.sys.self cx w.narrow then
    ({ s with rstores := s.rstores ++ [r] } : State).modCtx cx (fun c => { c with rcount := c.rcount + 1 })
  else (s.catchUp cx ag.rights.uid r.dst p.key).performStore { r with l1 := true }

/-- Do the writes in order. -/
def writeAll (ag : Agent) (all : List Wr) : List Wr → List Nat → State → State
  | [], _, s => s
  | w :: ws, seen, s => writeAll ag all ws ((w.part.own * 2 ^ 48 + w.part.key / 128) :: seen) (s.writeOne ag all seen w)

/-- Ask the copy-on-write walker for the shared pages among the parts (R302). -/
def State.askCow (s : State) (ag : Agent) (ps : List Part) : State :=
  s.modCluster ag.cl (fun c => { c with streams := { c.streams with
    cows := ps.foldl (fun l p =>
      let q : CowReq := { sid := ag.rights.sid.setWidth 32, off := Wbits p.addr 36 3 / 2 ^ 16 * 2 ^ 16 }
      if l.contains q then l else l ++ [q]) c.streams.cows } })

/-- The places written: windows over the fabric, lines in the L1D for a whole-byte store of a core, else at the slice (R74,
R115). -/
def touchWrites (ag : Agent) : List Wr → State → State
  | [], s => s
  | w :: ws, s =>
    let p := w.part
    touchWrites ag ws
      (match p.win with
       | some x => s.winHop ag x 2 1
       | none =>
         if p.own != s.sys.self then s
         else match (if w.narrow then none else ag.core) with
           | some c => s.storeLine ag.die c (p.key / 128) p.tag p.stream
           | none => s.mergeLine ag.die ag.core (p.key / 128) p.tag p.stream)

/-- Write checked parts: room in the remote-store counter, the copy-on-write walker, then the stores. -/
def State.writeParts (s : State) (ag : Agent) (code : Nat) (ws : List Wr) : Got Unit :=
  let live := liveWrites ws
  let cows := (live.filter (fun w => w.part.cow)).map (·.part)
  if 512 < (s.ctx ag.rights.cx).rcount + remoteCount s.sys.self ag.rights.cx live [] then .wait s .other 0
  else if !cows.isEmpty then .wait (s.askCow ag cows) .other 0
  else
    let s := (logDenials ag code (ws.map (·.part)) [] s).1
    .ok (touchWrites ag live (writeAll ag live live [] s)) ()

/-- The bits of a value that a part takes. -/
def Part.cut (p : Part) (v : Nat) : Nat := (v >>> p.pos) % 2 ^ p.len

/-- A store by a context of w bits; `rel` is the scope of an STR. -/
def State.store (s : State) (cx : Nat) (a : Word) (w v : Nat) (rel : Option Nat := none) : Got Unit :=
  let ag := s.ctxAgent cx
  let (s, qs) := s.checkParts ag .store false (partsOf 0 a w)
  match worstFault qs with
  | some t => .trap s t
  | none => s.writeParts ag 1 (qs.map (fun p => { part := p, val := p.cut v, narrow := isNarrow a w, rel := rel }))

/-- Does an access of w bits touch the full/empty state window (R75)? A store there is a region boundary (R54). -/
def marksState (a : Word) : Bool := a.getLsbD 63 && Wbits a 62 60 == 3

/-! ## Atomics (R214) -/

/-- The slice or bank that performs an atomic holds the line exclusive; the copy in the issuing L1D is kept up to date. -/
def State.touchAtomic (s : State) (ag : Agent) (p : Part) : State :=
  match p.win with
  | some w => s.winHop ag w 2 2
  | none => s.mergeLine ag.die ag.core (p.key / 128) p.tag p.stream

/-- The answer of another package to an atomic: the old value, and whether it was performed (R214, R414). -/
def State.atomAnswer (s : State) (uid : Nat) (a : Word) (f : Fwd) : Got (Nat × Bool) :=
  match f.poison, f.resp with
  | some n, _ => .trap (s.dropFwds uid) { cause := 0x0E, val := a + wordOfNat n }
  | none, none => .wait s .other 0
  | none, some ws => .ok (s.dropFwds uid) ((ws.getD 0 0).toNat + (ws.getD 1 0).toNat * 2 ^ 64, ws.getD 3 0 == 0)

/-- An atomic over parts of one operand, at most two words that are one step at one place (R73, log 86): `f` gives the new value for the old, none to leave memory alone. Answers the old
value and true; a denied one answers 0 and false and changes nothing (R103). `payload` is what a forwarded one sends. -/
def State.atomic (s : State) (cx : Nat) (a : Word) (w : Nat) (payload : List Word) (f : Nat → Option Nat) :
    Got (Nat × Bool) :=
  let ag := s.ctxAgent cx
  match s.atomSent ag.rights.uid with
  | some q => s.atomAnswer ag.rights.uid a q
  | none =>
    let (s, qs) := s.checkParts ag .store true (partsOf 0 a w)
    match worstFault qs with
    | some t => .trap s t
    | none =>
      if qs.any (·.denied) then
        let s := (logDenials ag 2 qs [] s).1
        .ok s (0, false)
      else if qs.any (·.cow) then .wait (s.askCow ag (qs.filter (·.cow))) .other 0
      else
        match qs with
        | [] => .ok s (0, false)
        | p :: _ =>
          if p.own ≠ s.sys.self then .wait (s.forward ag p.own p.key 0x04 a (wordOfNat p.off :: payload) p.tag) .other 0
          else
            let old := laneBits s ag.rights.uid 0 qs
            let s := qs.foldl (fun s q => s.touchAtomic ag q) s
            match f old with
            | none => .ok s (old, true)
            | some v =>
              .ok (qs.foldl (fun s q => (s.putWord q.key q.mask (wordOfNat (q.cut v * 2 ^ q.off))).1) s) (old, true)

/-! ## Engine accesses (R103, R431) -/

/-- What an engine reads: the parts, whether something was denied or poisoned, the first part that cannot be read (an
owner lost is cause 0x12), and whether an answer is still awaited. -/
structure EngRead where
  parts : List Part := []
  den : Bool := false
  poison : Bool := false
  hold : Bool := false
  fault : Option Trap := none
  deriving DecidableEq, Repr, Inhabited

/-- Check what an engine reads: denied bits are 0; poison is reported, not trapped. -/
def State.engRead (s : State) (ag : Agent) (code : Nat) (seen : List Nat) (a : Word) (w : Nat) : State × List Nat × EngRead :=
  let (s, qs) := s.checkParts ag .load false (partsOf 0 a w)
  match worstFault qs with
  | some t => (s, seen, if t.cause = 0 then { parts := qs, hold := true } else { parts := qs, fault := some t })
  | none =>
    match forwardReads ag qs s with
    | (s, false) => (s, seen, { parts := qs, hold := true })
    | (s, true) =>
      match qs.find? (lostPart s ag.rights.uid) with
      | some p => (s, seen, { parts := qs, fault := some { cause := 0x12, val := p.addr } })
      | none =>
        let (s, seen) := logDenials ag code qs seen s
        let s := touchParts ag false qs s
        (s, seen, { parts := qs, den := qs.any (·.denied)
                    poison := qs.any (fun p => (!p.denied && p.own == s.sys.self && s.poisoned p.key) || poisonedPart s ag.rights.uid p) })

/-- The value that an engine reads in parts. -/
def State.engVal (s : State) (ag : Agent) (qs : List Part) : Nat := laneBits s ag.rights.uid 0 qs

end Sys2Proof.Machine
end

