-- ==== Sys2Proof/Machine/Fetch.lean ====
section
/-!
DEFINITION. Fetching an instruction's words through translation (R152, R190, R400), and laying one out for a first step.
-/

namespace Sys2Proof.Machine

/-- How the fetch of one word ends. -/
inductive Fetched where
  | word (s : State) (w : IWord)
  | bad (s : State) (t : Trap)
  | wait (s : State)

/-- Fetch the 16-bit word at a bit address for a context: global space only, EX needed, no tag check (R190, R400). A page
of another package is read by a forwarded request (R96). DETAIL bit [2] of a fetch outside global space is 0 (log 102). -/
def State.fetchWord (s : State) (cx : Nat) (a : Word) : Fetched :=
  if a.getLsbD 63 ∨ a.getLsbD 62 then
    .bad s { cause := 0x04, detail := if a.getLsbD 63 then 16 else 24, fetch := true, val := a }
  else
    let ag := s.ctxAgent cx
    match s.translate ag a .fetch with
    | (s, .fault d) => .bad s { cause := 0x04, detail := d, fetch := true, val := a }
    | (s, .hold) => .wait s
    | (s, .damaged e) => .bad (s.damagedRec e ag.rights.ident a) { cause := 0x0E, fetch := true, val := a }
    | (s, .found e) =>
      let b := e.frame + Wbits a 59 3 % 2 ^ e.size
      let w := s.whereNow stubFuel e.own (b / 8 * 8)
      let p : Part := { addr := a, len := 16, own := w.1, key := w.2, off := Wbits a 5 0, tag := e.tag, use := 1 }
      if p.own = s.sys.self then
        if s.memTop ≤ b then .bad s { cause := 0x03, detail := 1, fetch := true, val := a }
        else if s.stopped p.key || s.inTransit p.key then .wait s
        else if s.poisoned p.key then .bad s { cause := 0x0E, fetch := true, val := a }
        else .word (s.fetchLine (coreOf cx) ag.die p.key e.tag) (BitVec.ofNat 16 ((memWord s.mem p.key).toNat >>> p.off))
      else
        match forwardReads ag [p] s with
        | (s, false) => .wait s
        | (s, true) =>
          if lostPart s ag.rights.uid p || poisonedPart s ag.rights.uid p then .bad (s.dropFwds ag.rights.uid) { cause := 0x0E, fetch := true, val := a }
          else .word s (BitVec.ofNat 16 ((s.wordOf ag.rights.uid p).toNat >>> p.off))

/-- How the fetch of an instruction ends. -/
inductive FetchEnd where
  | words (s : State) (ws : List IWord)
  | bad (s : State) (t : Trap)
  | wait (s : State)

/-- Fetch prefix words and the base word, at most n words (R163: a fifth prefix word ends the reading). -/
def State.fetchWords (cx : Nat) : Nat → State → Word → List IWord → FetchEnd
  | 0, s, _, acc => .words s acc
  | n + 1, s, a, acc =>
    match s.fetchWord cx a with
    | .bad s t => .bad s t
    | .wait s => .wait s
    | .word s w => if isPrefixWord w then State.fetchWords cx n s (a + 16) (acc ++ [w]) else .words s (acc ++ [w])

/-- Page and base word of fetched words. -/
def pageOf (ws : List IWord) : Nat × IWord :=
  match parseWords ws {} with
  | .chain c w => (c.page, w)
  | .fifth w c => (c.page, w)
  | .short => (0, 0)

/-- Is the row an event of the device, with no words of its own? -/
def isEvent (i : Instr) : Bool := (rowOf? i).isNone && (encodeMicro i).isNone

/-! ## Laying out a first instruction (log 1) -/

/-- Physical byte address of the code page that `withFetchWord` sets up. -/
def codeBase : Nat := 0x10000

/-- Bytes of 16-bit words at a byte key (R6, R152). -/
def putWords (m : List Host.Cell) (a : Nat) : List IWord → List Host.Cell
  | [] => m
  | w :: ws => putWords (memPut (memPut m a (w.extractLsb' 0 8)) (a + 1) (w.extractLsb' 8 8)) (a + 2) ws

/-- Page tables that map the first 64 KiB of global space to the code page, with every permission. -/
def codeTables (m : List Host.Cell) : List Host.Cell :=
  memSet (memSet (memSet (memSet m 0 (wordOfNat (0x1000 + 1))) 0x1000 (wordOfNat (0x2000 + 1))) 0x2000 (wordOfNat (0x3000 + 1)))
    0x3000 (wordOfNat (0x100 + 0xFD))

end Sys2Proof.Machine
end

