-- ==== Sys2Proof/Machine/Operands.lean ====
section
/-!
DEFINITION. The operand forms (R154, R178, R180, R189, R204, R205): which registers an instruction reads, where its
result goes, how its immediate and its width class enter.
-/

namespace Sys2Proof.Machine

/-- Sources a and b, with their trap bits. -/
def srcAB (o : Ops) : List (BitVec 6 × Bool) := [(o.a, o.ta), (o.b, o.tb)]

/-- Source a. -/
def srcA (o : Ops) : List (BitVec 6 × Bool) := [(o.a, o.ta)]

/-- Sources a, b, c. -/
def srcABC (o : Ops) : List (BitVec 6 × Bool) := [(o.a, o.ta), (o.b, o.tb), (o.c, o.tc)]

/-- Source a, then d, which has no trap bit (R170). -/
def srcAD (o : Ops) : List (BitVec 6 × Bool) := [(o.a, o.ta), (o.d, false)]

/-- d := f S[a] S[b] (RRR). -/
def alu2 (o : Ops) (f : Word → Word → Word) (s : State) : Result :=
  s.run anyMode (srcAB o) (fun c s => .ok (s.onMe c (fun x => x.writeS o.d (f (x.readS o.a) (x.readS o.b)))))

/-- d := f S[a] (RRF). -/
def alu1 (o : Ops) (f : Word → Word) (s : State) : Result :=
  s.run anyMode (srcA o) (fun c s => .ok (s.onMe c (fun x => x.writeS o.d (f (x.readS o.a)))))

/-- d := f S[a] imm (RRI). -/
def aluImm (o : Ops) (f : Word → Word → Word) (s : State) : Result :=
  s.run anyMode (srcA o) (fun c s => .ok (s.onMe c (fun x => x.writeS o.d (f (x.readS o.a) o.imm))))

/-- d := f S[d] S[a] (RRF, d a source). -/
def aluAcc (o : Ops) (f : Word → Word → Word) (s : State) : Result :=
  s.run anyMode (srcAD o) (fun c s => .ok (s.onMe c (fun x => x.writeS o.d (f (x.readS o.d) (x.readS o.a)))))

/-- d := the first part of f S[a] S[b], with the flags of the second ORed into fcsr (R140). -/
def alu2Flags (o : Ops) (f : Word → Word → Word × BitVec 6) (s : State) : Result :=
  s.run anyMode (srcAB o) (fun c s => .ok (s.onMe c (fun x =>
    (x.orFlags (f (x.readS o.a) (x.readS o.b)).2).writeS o.d (f (x.readS o.a) (x.readS o.b)).1)))

/-- Branch on S[a] (BA8): a taken branch goes to addr + 16 × imm (R189). -/
def branch1 (o : Ops) (p : Word → Bool) (s : State) : Result :=
  s.run anyMode (srcA o) (fun c s => .done s (if p ((s.me c).readS o.a) then some (c.addr + 16 * o.imm) else none) none)

/-- Branch on S[a] and S[b] (BAB4). -/
def branch2 (o : Ops) (p : Word → Word → Bool) (s : State) : Result :=
  s.run anyMode (srcAB o) (fun c s =>
    .done s (if p ((s.me c).readS o.a) ((s.me c).readS o.b) then some (c.addr + 16 * o.imm) else none) none)

/-- The address of the instruction after the present one (R178). -/
def Cur.next (c : Cur) : Word := c.addr + wordOfNat (16 * c.len)

/-- A target with bits [3:0] cleared (R181). -/
def codeAddr (x : Word) : Word := x &&& ~~~(0xF : Word)

/-- The effective address S[a] + imm × u (R204). -/
def effAddr (x : Ctx) (o : Ops) (u : Nat) : Word := x.readS o.a + o.imm * wordOfNat u

/-- Register r + 1 of a pair (R155). -/
def pairHi (r : BitVec 6) : BitVec 6 := r + 1

/-- Width of the class in f4 (R70). -/
def widthOf (o : Ops) : Nat := classWidth o.f.toNat

end Sys2Proof.Machine
end

