-- ==== Sys2Proof/Machine/Control.lean ====
section
/-!
DEFINITION. Branches, the hardware loop, CSR access, traps and region marks of pages 0 and 4 (R181, R189 to R194, R169,
R225, R226, R251, R393, R408).
-/

namespace Sys2Proof.Machine

/-! ## Transfers (R181, R189) -/

/-- BEQZ (R189). -/
def execBeqz (o : Ops) (s : State) : Result := branch1 o (fun x => x == 0) s
/-- BNEZ (R189). -/
def execBnez (o : Ops) (s : State) : Result := branch1 o (fun x => x != 0) s
/-- BEQ (R189). -/
def execBeq (o : Ops) (s : State) : Result := branch2 o (fun x y => x == y) s
/-- BNE (R189). -/
def execBne (o : Ops) (s : State) : Result := branch2 o (fun x y => x != y) s
/-- BLT (R189). -/
def execBlt (o : Ops) (s : State) : Result := branch2 o (fun x y => decide (x.toInt < y.toInt)) s
/-- BLTN (R189). -/
def execBltn (o : Ops) (s : State) : Result := branch2 o (fun x y => decide (x.toNat < y.toNat)) s
/-- BGE (R189). -/
def execBge (o : Ops) (s : State) : Result := branch2 o (fun x y => decide (y.toInt ≤ x.toInt)) s
/-- BGEN (R189). -/
def execBgen (o : Ops) (s : State) : Result := branch2 o (fun x y => decide (y.toNat ≤ x.toNat)) s
/-- BALL: every bit of mask b is set in a (R189). -/
def execBall (o : Ops) (s : State) : Result := branch2 o (fun x y => x &&& y == y) s

/-- J (R189). -/
def execJ (o : Ops) (s : State) : Result := s.run anyMode [] (fun c s => .done s (some (c.addr + 16 * o.imm)) none)

/-- CALL: S[63] := next first (R189). -/
def execCall (o : Ops) (s : State) : Result :=
  s.run anyMode [] (fun c s => .done (s.onMe c (fun x => x.writeS 63 c.next)) (some (c.addr + 16 * o.imm)) none)

/-- JR (R181). -/
def execJr (o : Ops) (s : State) : Result :=
  s.run anyMode (srcA o) (fun c s => .done s (some (codeAddr ((s.me c).readS o.a))) none)

/-- JALR: a is read before d is written (R181). -/
def execJalr (o : Ops) (s : State) : Result :=
  s.run anyMode (srcA o) (fun c s =>
    .done (s.onMe c (fun x => x.writeS o.d c.next)) (some (codeAddr ((s.me c).readS o.a))) none)

/-- RET (R181). -/
def execRet (s : State) : Result :=
  s.run anyMode [(63, false)] (fun c s => .done s (some (codeAddr ((s.me c).readS 63))) none)

/-! ## The hardware loop (R191) -/

/-- An offset below the LOOP's own length is reserved. -/
def loopOff (o : Ops) : Cur → Ctx → Option Nat := fun c _ => if o.imm.toInt < (c.len : Int) then some 3 else none

/-- Set up the loop of a LOOP at c. -/
def Ctx.setLoop (x : Ctx) (lend lbeg n : Word) : Ctx := { x with csrs := { x.csrs with lend := lend, lbeg := lbeg, lcnt := n } }

/-- LOOP: with a count of 0 the body is skipped, for which the instruction at lend is read (R191). -/
def execLoop (o : Ops) (s : State) : Result :=
  s.run (loopOff o) (srcA o) (fun c s =>
    let n := (s.me c).readS o.a
    let lend := c.addr + 16 * o.imm
    if n ≠ 0 then .ok (s.onMe c (fun x => x.setLoop lend c.next n))
    else
      match State.fetchWords c.cx 5 s lend [] with
      | .wait s => .wait s .other 0
      | .bad s t => .trap s t
      | .words s ws =>
        .done (s.onMe c (fun x => x.setLoop lend c.next 0)) (some (lend + wordOfNat (16 * ((instrWords ws).getD ws.length)))) none)

/-! ## CSRs (R169, R192) -/

/-- The value of a CSR; none for an unassigned number. -/
def State.csrRead (s : State) (cx : Nat) (n : Nat) : Option Word :=
  let x := s.ctx cx
  match n with
  | 0x00 => some x.csrs.vshape
  | 0x01 => some x.csrs.mshape
  | 0x02 => some x.csrs.fcsr
  | 0x03 => some x.csrs.lcnt
  | 0x04 => some x.csrs.lbeg
  | 0x05 => some x.csrs.lend
  | 0x06 => some x.csrs.wid
  | 0x07 => some x.csrs.wfmt
  | 0x08 => some x.csrs.twt
  | 0x09 => some x.csrs.kst
  | 0x0A => some x.csrs.sid
  | 0x0B => some (x.csrs.ident.setWidth 64)
  | 0x0C => some ((x.csrs.eff ++ x.csrs.base : BitVec 4).setWidth 64)
  | 0x0D => some (wordOfNat s.cycle)
  | 0x0E => some (wordOfNat (cx % 8192))
  | 0x10 => some x.csrs.trapcause
  | 0x11 => some x.csrs.trappc
  | 0x12 => some x.csrs.trapval
  | 0x13 => some x.csrs.trapctl
  | _ => none

/-- May a CSR be written in the mode (R169)? -/
def csrWritable (super : Bool) (n : Nat) : Bool :=
  decide (n ≤ 0x07) || n == 0x0A || (super && [0x08, 0x09, 0x0B, 0x0C, 0x10, 0x11, 0x12, 0x13].contains n)

/-- Give a context a new identity with its clearance base (R108, R169); a directory entry that cannot be read gives none
and is logged (R413). -/
def State.setIdent (s : State) (cx : Nat) (ident : BitVec 24) : State :=
  let base := s.clearance ident
  (s.modCtx cx (fun x => { x with cbase := base, csrs := { x.csrs with ident := ident } })).identRead ident

/-- A write of any CSR. -/
def State.csrWrite (s : State) (cx n : Nat) (v : Word) : State :=
  if n = 0x0B then s.setIdent cx (v.extractLsb' 0 24)
  else s.modCtx cx (fun x => { x with csrs := x.csrs.write n v })

/-- CSRR (R192): an unassigned number is illegal, detail 6. -/
def execCsrr (o : Ops) (s : State) : Result :=
  s.run (fun c _ => if (s.csrRead c.cx o.imm.toNat).isNone then some 6 else none) [] (fun c s =>
    .ok (s.onMe c (fun x => x.writeS o.d ((s.csrRead c.cx o.imm.toNat).getD 0))))

/-- CSRW (R192): an unassigned number, or one that is RO in the current mode, is illegal, detail 6. -/
def execCsrw (o : Ops) (s : State) : Result :=
  s.run (fun _ x => if csrWritable x.super o.imm.toNat then none else some 6) (srcA o) (fun c s =>
    .okB (s.csrWrite c.cx o.imm.toNat ((s.me c).readS o.a)))

/-! ## Traps, regions (R193, R194, R408) -/

/-- TRAP (R193). -/
def execTrap (o : Ops) (s : State) : Result := s.run anyMode [] (fun _ s => .trap s { cause := 0x0D, val := o.imm })

/-- RTT (R393). -/
def execRtt (s : State) : Result :=
  s.runSuper [] (fun c s => .done (s.onMe c Ctx.returnTrap) (some (s.me c).rttPc) (some allLive))

/-- WAITI: until NTF is 1 or n × 1,024 cycles have passed; n = 0 waits for the notification only (R193, R396). -/
def execWaiti (o : Ops) (s : State) : Result :=
  s.runSuper [] (fun c s =>
    let x := s.me c
    if x.ntf then .okB (s.onMe c (fun x => { x with pause := .none }))
    else match x.pause with
      | .waiti (some t) =>
        if t ≤ s.cycle then .okB (s.onMe c (fun x => { x with pause := .none })) else .wait s .other 0
      | .waiti none => .wait s .other 0
      | _ =>
        let till := if o.imm = 0 then none else some (s.cycle + o.imm.toNat * 1024)
        .wait (s.onMe c (fun x => { x with pause := .waiti till })) .other 0)

/-- SLEEP: n × 2^16 cycles without issuing (R408). -/
def execSleep (o : Ops) (s : State) : Result :=
  s.runSuper [] (fun c s =>
    match (s.me c).pause with
    | .sleep t => if t ≤ s.cycle then .okB (s.onMe c (fun x => { x with pause := .none })) else .wait s .other 0
    | _ => .wait (s.onMe c (fun x => { x with pause := .sleep (s.cycle + o.imm.toNat * 2 ^ 16) })) .other 0)

/-- REGN: a new region opens at next with the live-in masks given (R53, R194); futures of registers not live in are abandoned
(R56, R172). -/
def execRegn (o : Ops) (s : State) : Result :=
  s.run anyMode (srcAB o) (fun c s =>
    let live := (s.me c).readS o.a
    .done (s.onMe c (fun x => x.abandonDead live)) none (some (live, ((s.me c).readS o.b).extractLsb' 0 32)))

/-- The illegal-instruction trap of an encoding that decodes to nothing (R403). The event's operands are the detail, the
prefix words read, the page and the base word. -/
def execIllegalInstruction (s : State) : Result :=
  match s.cur with
  | .core c =>
    .next ((s.count (coreOf c.cx) 0).trapEntry c.cx
      { cause := 0x01, detail := s.arg.i, val := wordOfNat (Wbits s.arg.w 15 0 + s.arg.j * 2 ^ 16 + s.arg.k % 1024 * 2 ^ 20) } c.addr c.len)
  | _ => .next s

end Sys2Proof.Machine
end

