-- ==== Sys2Proof/Machine/Cow.lean ====
section
/-!
DEFINITION. State trees (R299 to R303): frame rings, reference counts, the copy-on-write walk, free walks, and broken
streams (R432).
-/

namespace Sys2Proof.Machine

/-! ## Frames (R300, R427) -/

/-- Byte address of the first word of a frame ring in the descriptor of a cluster's stream processor. -/
def State.ringDesc (s : State) (cl : Nat) (page : Bool) : Nat := (s.cluster cl).spool.toNat * 2 ^ 12 + (if page then 32 else 0)

/-- Physical byte address of entry n of a frame ring. -/
def State.ringEntry (s : State) (desc n : Nat) : Nat := (s.phys desc).toNat / 8 + 8 * (n % max 1 (s.phys (desc + 8)).toNat)

/-- Take a frame at the head of a ring; none while the ring is empty. -/
def State.popFrame (s : State) (cl : Nat) (page : Bool) : Option (Nat × State) :=
  let desc := s.ringDesc cl page
  let head := Wbits (s.phys (desc + 16)) 31 0
  if head = Wbits (s.phys (desc + 24)) 31 0 then none
  else
    let a := (s.phys (s.ringEntry desc head)).toNat
    let n := if page then 65536 else 4096
    some (a, (s.setPhys (desc + 16) (wordOfNat ((head + 1) % 2 ^ 32))).purgeLines a n)

/-- Is the 64 KiB frame of a byte address retired (R426)? -/
def State.retiredFrame (s : State) (a : Nat) : Bool :=
  s.log.retired.contains (a / 2 ^ 16) || s.regs.retEn && (memByte s.mem (s.regs.retBase.toNat * 2 ^ 21 + a / 2 ^ 16 / 8)).getLsbD (a / 2 ^ 16 % 8)

/-- Return a frame at the tail of a ring; a retired one is discarded (R427). -/
def State.pushFrame (s : State) (cl : Nat) (page : Bool) (a : Nat) : State :=
  let desc := s.ringDesc cl page
  let tail := Wbits (s.phys (desc + 24)) 31 0
  if s.retiredFrame a then s
  else (s.setPhys (s.ringEntry desc tail) (wordOfNat a)).setPhys (desc + 24) (wordOfNat ((tail + 1) % 2 ^ 32))

/-- Zero a frame. -/
def State.zeroFrame (s : State) (a n : Nat) : State := ({ s with mem := memClear s.mem a (a + n) } : State).unpoison a n

/-- Copy a frame with no poison in it. -/
def State.copyFrame (s : State) (src dst n : Nat) : State :=
  let old := s.mem.filter (fun (c : Host.Cell) => decide (src ≤ c.1) && decide (c.1 < src + n))
  ({ s with mem := old.foldl (fun m (c : Host.Cell) => memPut m (dst + (c.1 - src)) c.2) (memClear s.mem dst (dst + n)) } : State).unpoison dst n

/-! ## Reference counts (R299, R303, R432) -/

/-- Freeze the count of a node or page. -/
def State.freeze (s : State) (a : Nat) : State := { s with frozen := insertKey a s.frozen }

/-- Set COUNT of a reference entry, keeping its tag. -/
def State.setCount (s : State) (a n : Nat) : State :=
  s.setPhys (s.refAddr a) ((s.phys (s.refAddr a) &&& 0xFFFFFFFF00000000) ||| wordOfNat (n % 2 ^ 32))

/-- Write a reference entry whole: tag and count. -/
def State.setRef (s : State) (a tag n : Nat) : State := s.setPhys (s.refAddr a) (wordOfNat (tag % 2 ^ 20 * 2 ^ 44 + n))

/-- Tag of a page's reference entry. -/
def State.refTag (s : State) (a : Nat) : Nat := Wbits (s.phys (s.refAddr a)) 63 44

/-- The address that is reported when the reference entry of a cannot be read. -/
def State.badRef (s : State) (a : Nat) : Option Nat := if s.poisoned (s.refAddr a) then some (s.refAddr a) else none

/-- count(a) += 1: one that would reach 2^32 − 1 freezes the entry instead, with a record. -/
def State.refInc (s : State) (cl a : Nat) : State :=
  if s.frozen.contains a then s
  else if s.refCount a + 2 = 2 ^ 32 then ((s.freeze a).logRec 0x28 9 cl 0 (wordOfNat (s.refAddr a)) 0).notify cl
  else s.setCount a (s.refCount a + 1)

/-- count(a) −= 1, and whether this decrement left 0. -/
def State.refDec (s : State) (a : Nat) : State × Bool :=
  if s.frozen.contains a ∨ s.refCount a = 0 then (s, false)
  else (s.setCount a (s.refCount a - 1), s.refCount a == 1)

/-- Frame named by a root entry, and by a leaf entry (R91). -/
def leafFrame (e : Word) : Nat := Wbits e 39 12 * 2 ^ 12
def pageFrame (e : Word) : Nat := Wbits e 39 16 * 2 ^ 16

/-- The valid entries of a node, ascending. -/
def State.nodeEntries (s : State) (n : Nat) : List Word := (memWords s.mem 512 n).filter (fun e => e.getLsbD 0)

/-- The first poisoned entry of a node. -/
def State.badEntry (s : State) (n : Nat) : Option Nat := ((List.range 512).map (fun i => n + 8 * i)).find? (fun a => s.poisoned a)

/-- How a walk of the stream processor ends: the error is the address of an entry, and the node or page to freeze. -/
inductive Walked where
  | done (s : State)
  /-- a ring is empty (R433) -/
  | wait (s : State)
  | broken (s : State) (at_ : Nat)

/-- Go on with a walk. -/
def Walked.bind (w : Walked) (f : State → Walked) : Walked :=
  match w with
  | .done s => f s
  | r => r

/-- A walk over a list, in order. -/
def walkList {α : Type} (f : α → State → Walked) : List α → State → Walked
  | [], s => .done s
  | x :: xs, s => (f x s).bind (walkList f xs)

/-- Go on unless the reference entry of a is damaged: then it is frozen. -/
def readRef (a : Nat) (f : State → Walked) (s : State) : Walked :=
  match s.badRef a with
  | some r => .broken (s.freeze a) r
  | none => f s

/-- Go on unless an entry of the node is damaged: then the node is frozen. -/
def readNode (n : Nat) (f : State → Walked) (s : State) : Walked :=
  match s.badEntry n with
  | some a => .broken (s.freeze n) a
  | none => f s

/-! ## Drops and free walks (R302) -/

/-- drop(p) of a page. -/
def dropPage (cl p : Nat) : State → Walked :=
  readRef p (fun s =>
    let (s, zero) := s.refDec p
    .done (if zero then s.pushFrame cl true p else s))

/-- drop(n) of a leaf node. -/
def dropLeaf (cl n : Nat) : State → Walked :=
  readRef n (fun s =>
    let (s, zero) := s.refDec n
    if zero then
      readNode n (fun s => (walkList (fun e => dropPage cl (pageFrame e)) (s.nodeEntries n) s).bind (fun s => .done (s.pushFrame cl false n))) s
    else .done s)

/-- drop(r) of a root. -/
def dropRoot (cl r : Nat) : State → Walked :=
  readRef r (fun s =>
    let (s, zero) := s.refDec r
    if zero then
      readNode r (fun s => (walkList (fun e => dropLeaf cl (leafFrame e)) (s.nodeEntries r) s).bind (fun s => .done (s.pushFrame cl false r))) s
    else .done s)

/-! ## Stream contexts -/

/-- The stream context in a slot of a cluster. -/
def State.streamCtx (s : State) (cl slot : Nat) : StreamCtx := (aget (s.cluster cl).streams.ctxs slot).getD {}

/-- Change a stream processor. -/
def State.modStreams (s : State) (cl : Nat) (f : StreamProc → StreamProc) : State :=
  s.modCluster cl (fun c => { c with streams := f c.streams })

/-- Change the stream context in a slot. -/
def State.modStream (s : State) (cl slot : Nat) (f : StreamCtx → StreamCtx) : State :=
  s.modStreams cl (fun p => { p with ctxs := amod p.ctxs slot f })

/-- Drop the TLB entries of a stream in the 64 TLBs of its cluster, once every store translated through them is performed
(R92, R301). -/
def State.dropStreamTlb (s : State) (cl : Nat) (id : BitVec 32) : State :=
  let s := s.flush (fun r => decide (r.key < windowBase) && !isMemCtx r.cx && clusterOf r.cx == cl)
  { s with caches := { s.caches with tlbs := s.caches.tlbs.map (fun (t : Nat × List TlbEntry) =>
      if t.1 / 64 = cl then (t.1, t.2.filter (fun e => !(e.stream && e.sid == id.toNat))) else t) } }

/-- Drop every stream-space entry of a page in every TLB of the package (R316). -/
def State.dropFrameTlb (s : State) (p : Nat) : State :=
  let s := s.flush (fun r => decide (r.key < windowBase))
  { s with caches := { s.caches with tlbs := s.caches.tlbs.map (fun (t : Nat × List TlbEntry) =>
      (t.1, t.2.filter (fun e => !(e.stream && e.frame == p)))) } }

/-! ## The copy-on-write walk (R302) -/

/-- Root step of cow: the stream gets a root of its own. -/
def cowRoot (cl slot : Nat) (s : State) : Walked :=
  let r := (s.streamCtx cl slot).root
  readRef r (fun s =>
    if s.refCount r ≤ 1 then .done s
    else readNode r (fun s =>
      match s.popFrame cl false with
      | none => .wait s
      | some (r2, s) =>
        let s := (s.copyFrame r r2 4096).setRef r2 0 1
        (walkList (fun e => readRef (leafFrame e) (fun s => .done (s.refInc cl (leafFrame e)))) (s.nodeEntries r2) s).bind (fun s =>
          dropRoot cl r (s.modStream cl slot (fun c => { c with root := r2 })))) s) s

/-- Leaf step of cow for a byte offset: the stream gets a leaf node of its own, where the root entry is valid. -/
def cowLeaf (cl slot o : Nat) (s : State) : Walked :=
  let a := (s.streamCtx cl slot).root + 8 * bits o 33 25
  if s.poisoned a then .broken (s.freeze (s.streamCtx cl slot).root) a
  else if !(s.phys a).getLsbD 0 then .done s
  else
    let n := leafFrame (s.phys a)
    readRef n (fun s =>
      if s.refCount n ≤ 1 then .done s
      else readNode n (fun s =>
        match s.popFrame cl false with
        | none => .wait s
        | some (n2, s) =>
          let s := (s.copyFrame n n2 4096).setRef n2 0 1
          (walkList (fun e => readRef (pageFrame e) (fun s => .done (s.refInc cl (pageFrame e)))) (s.nodeEntries n2) s).bind (fun s =>
            dropLeaf cl n (s.setPhys a (wordOfNat (n2 + 1))))) s) s

/-- Page step of cow: the stream gets a page of its own, where the leaf entry is valid. -/
def cowPage (cl slot o : Nat) (s : State) : Walked :=
  let a := (s.streamCtx cl slot).root + 8 * bits o 33 25
  let l := leafFrame (s.phys a) + 8 * bits o 24 16
  if !(s.phys a).getLsbD 0 then .done s
  else if s.poisoned l then .broken (s.freeze (leafFrame (s.phys a))) l
  else if !(s.phys l).getLsbD 0 then .done s
  else
    let p := pageFrame (s.phys l)
    readRef p (fun s =>
      if s.refCount p ≤ 1 then .done s
      else match s.poison.find? (fun k => decide (p ≤ k) && decide (k < p + 65536)) with
        | some k => .broken s k
        | none =>
          match s.popFrame cl true with
          | none => .wait s
          | some (p2, s) =>
            let s := (s.copyFrame p p2 65536).setRef p2 (s.refTag p) 1
            dropPage cl p (s.setPhys l ((s.phys l &&& 0xFFFFFF000000FFFF) ||| wordOfNat p2))) s

/-- cow(s, o): the root, leaf and page steps, and the drop of the stream's TLB entries (R92). -/
def cow (cl slot o : Nat) (s : State) : Walked :=
  ((cowRoot cl slot (s.dropStreamTlb cl (s.streamCtx cl slot).id)).bind (cowLeaf cl slot o)).bind (cowPage cl slot o)

/-- The stream that an operand names (R312): 0 is the issuer's own; the upper bits of an id are zero (R295). -/
def streamOperand (r : Rights) (x : Word) : BitVec 32 :=
  if x = 0 then r.sid.setWidth 32 else if Wbits x 63 32 = 0 then x.setWidth 32 else 0

/-- The streams that a queued operation works on: SMAP names its target in the upper half of S[a], and Share its source. -/
def EngOp.streams (op : EngOp) : List (BitVec 32) :=
  match op.op with
  | 0x0 => []
  | 0x3 => []
  | 0xB =>
    let target : BitVec 32 := if Wbits op.a 63 32 = 0 then op.rights.sid.setWidth 32 else op.a.extractLsb' 32 32
    if Wbits op.a 31 30 = 1 then [target, op.b.extractLsb' 32 32] else [target]
  | _ => [streamOperand op.rights op.a]

/-- Is a copy-on-write walk in progress on a stream (R298, R313)? -/
def StreamProc.walking (p : StreamProc) (id : BitVec 32) : Bool := p.cows.any (fun c => c.sid == id)

/-- Is a walk or a begun operation in progress on a stream (R298)? -/
def StreamProc.busy (p : StreamProc) (id : BitVec 32) : Bool :=
  p.walking id || p.queue.any (fun q => q.begun && q.streams.contains id)

/-! ## Withdrawal and the end of a stream (R310, R313, R432) -/

/-- Die of the join unit of a result area (R309). -/
def joinDie (key : Word) : Nat := Wbits key 7 6

/-- Change the join group with a key. -/
def State.modGroup (s : State) (key : Word) (f : JoinGroup → JoinGroup) : State :=
  s.modDie (joinDie key) (fun d => { d with groups := d.groups.map (fun g => if g.key = key then f g else g) })

/-- The join group with a key. -/
def State.group (s : State) (key : Word) : Option JoinGroup := (s.die (joinDie key)).groups.find? (fun g => g.key == key)

/-- N of a policy, and how many returns and withdrawals a group has. -/
def JoinGroup.size (g : JoinGroup) : Nat := Wbits g.policy 27 12
def JoinGroup.count (g : JoinGroup) : Nat := g.returns.length + g.wdr

/-- A stream withdraws from the group that its JG names, unless it has submitted or the group is complete (R310). -/
def State.withdraw (s : State) (id : BitVec 32) (jg : Word) : State :=
  if jg = 0 then s
  else s.modGroup jg (fun g =>
    if g.count = g.size ∨ g.returns.any (fun r => r.id == id) ∨ g.gone.contains id then g
    else { g with wdr := g.wdr + 1, gone := id :: g.gone })

/-- Remove a stream from the open groups; an empty one is gone (R297). -/
def StreamProc.leaveOpen (p : StreamProc) (id : BitVec 32) : StreamProc :=
  { p with open_ := (p.open_.map (fun g => { g with members := g.members.filter (· != id) })).filter (fun g => !g.members.isEmpty) }

/-- A stream's context becomes FREE; its generation stays with the slot (R295). -/
def State.freeStream (s : State) (cl slot : Nat) : State :=
  let c := s.streamCtx cl slot
  (s.modStreams cl (fun p => (p.leaveOpen c.id))).modStream cl slot (fun c => { gen := c.gen })

/-- The stream whose pages a mason job reads (R345): word 0 of its record, or its issuer's. -/
def Job.stream (j : Job) : BitVec 32 :=
  if Wbits (j.params.getD 0 0) 63 32 = 0 then j.rights.sid.setWidth 32 else (j.params.getD 0 0).extractLsb' 32 32

/-- Does the job work on the stream? -/
def Job.on (j : Job) (id : BitVec 32) : Bool := !j.load && j.stream == id

/-- Does a queued or running mason job name the stream (R355)? -/
def Cluster.jobsOn (c : Cluster) (id : BitVec 32) : Bool :=
  c.mason.queue.any (fun j => j.on id) || (match c.mason.run with | some r => r.job.on id | none => false)

/-- The mason jobs that work on the stream are told to stop (R355). -/
def State.stopJobs (s : State) (cl : Nat) (id : BitVec 32) : State :=
  let halt (j : Job) : Job := if j.on id then { j with stop := true } else j
  s.modCluster cl (fun c => { c with mason := { c.mason with
    queue := c.mason.queue.map halt, run := c.mason.run.map (fun (r : JobRun) => { r with job := halt r.job }) } })

/-- End a broken stream (R432), with a record of the entry at fault. -/
def State.breakStream (s : State) (cl slot at_ : Nat) : State :=
  let c := s.streamCtx cl slot
  let s := ((s.stopJobs cl c.id).withdraw c.id c.jg).freeStream cl slot
  ((s.dropStreamTlb cl c.id).logRec 0x28 9 cl c.ident (wordOfNat at_) (c.id.setWidth 64)).notify cl

end Sys2Proof.Machine
end

