-- ==== Sys2Proof/Machine/Engine.lean ====
section
/-!
DEFINITION. What engines share: range locks and issue (R171, R223, R224), writes with copy-on-write, poison and granules
(R76, R103, R302, R420), resolution and failure (R218, R428).
-/

namespace Sys2Proof.Machine

/-! ## Range locks of engine instructions (R223, R224) -/

/-- Do a blocked range [lo, hi) of a core and an interleaved one of its cluster share a bit? -/
def mixedMeet (core lo hi ilo ihi : Nat) : Bool :=
  (List.range (hi / 64 + 1 - lo / 64)).any (fun k =>
    let w := lo / 64 + k
    let b := max lo (64 * w)
    let n := min hi (64 * w + 64) - b
    match interleaved core b with
    | none => false
    | some o => decide (0 < n) && decide (ilo < o + n) && decide (o < ihi))

/-- Do two entries share a bit? Windows compare after placement, other addresses as issued. -/
def RangeLock.overlaps (e f : RangeLock) : Bool :=
  match e.win, f.win with
  | none, none => decide (e.lo < f.hi) && decide (f.lo < e.hi)
  | some (p, c, w), some (p', c', w') =>
    if p ≠ p' ∨ w ≠ w' then false
    else if c = c' then decide (e.lo < f.hi) && decide (f.lo < e.hi)
    else if c < 1024 ∧ c' = 1024 + c / 64 then mixedMeet c e.lo e.hi f.lo f.hi
    else if c' < 1024 ∧ c = 1024 + c' / 64 then mixedMeet c' f.lo f.hi e.lo e.hi
    else false
  | _, _ => false

/-- The entry of the n bits at an address. -/
def State.lockEntry (s : State) (dest : Bool) (a : Word) (n : Nat) : RangeLock :=
  match (if a.getLsbD 63 then s.placeWin a else none) with
  | none => { dest := dest, lo := a.toNat, hi := a.toNat + n }
  | some p =>
    if a.getLsbD 37 then
      { dest := dest, win := some (p.pkg, 1024 + p.core / 64, p.win), lo := Wbits a 22 0, hi := Wbits a 22 0 + n }
    else { dest := dest, win := some (p.pkg, p.core, p.win), lo := p.inc, hi := p.inc + n }

/-- Must an engine instruction with this new entry wait for an old one (R224)? -/
def lockBlocks (old new : RangeLock) : Bool := (old.dest || new.dest) && new.overlaps old

/-- May the entries be registered now? -/
def Cluster.lockFree (c : Cluster) (new : List RangeLock) : Bool :=
  decide (c.locks.length + new.length ≤ 256) && new.all (fun n => n.lo == n.hi || c.locks.all (fun o => !lockBlocks o n))

/-- Register entries for an operation. -/
def State.addLocks (s : State) (cl : Nat) (h : Word) (ls : List RangeLock) : State :=
  s.modCluster cl (fun c => { c with locks := c.locks ++ ls.map (fun l => { l with op := h.toNat }) })

/-- Release the entries of an operation. -/
def State.dropLocks (s : State) (cl : Nat) (h : Word) : State :=
  s.modCluster cl (fun c => { c with locks := c.locks.filter (fun l => l.op != h.toNat) })

/-! ## Issue (R171, R172, R173, R282, R369) -/

/-- Codes of the bounded queues at which a context may wait at issue (R373); 0 for any other wait. -/
def queueTile : Nat := 1
def queueCopy : Nat := 2
def queueStream : Nat := 3
def queueEvent : Nat := 4
def queueMason : Nat := 5

/-- A register takes a failure word: full, with its fail bit set (R391, R401). -/
def Ctx.failReg (c : Ctx) (r : BitVec 6) (w : Word) : Ctx :=
  if r = 0 then c else { c with sregs := c.sregs.set r.toNat { val := w, full := true, fail := true } r.isLt }

/-- A future that resolves at issue, or fails there (R428: a refusal leaves no record): the issue is a release as any is
(R270, R280). -/
def State.givenAtOnce (s : State) (c : Cur) (d : BitVec 6) (w : Word) : Res :=
  if (s.ctx c.cx).rcount ≠ 0 then .wait s .other 0 else .okB (s.onMe c (fun x => x.writeS d w))
def State.refused (s : State) (c : Cur) (d : BitVec 6) (kind why : Nat) : Res :=
  if (s.ctx c.cx).rcount ≠ 0 then .wait s .other 0 else .okB (s.onMe c (fun x => x.failReg d (failureWord kind why 0)))

/-- Issue of an engine instruction: it waits for the release at sc.cluster, for its queue, and for its range locks; then it
takes a handle, its entries and its place, and d becomes its future. -/
def State.engIssue (s : State) (c : Cur) (d : BitVec 6) (kind : Nat) (locks : List RangeLock) (room : Bool) (queue : Nat)
    (push : Word → State → State) : Res :=
  let cl := clusterOf c.cx
  if (s.ctx c.cx).rcount ≠ 0 then .wait s .other 0
  else if !room then .wait s .other (wordOfNat queue)
  else if !isMemCtx c.cx && !(s.cluster cl).lockFree locks then .wait s .other 0
  else
    let (h, s) := s.newHandle kind c.cx
    let s := if isMemCtx c.cx then s else s.addLocks cl h locks
    .okB ((push h s).onMe c (fun x => x.emptyS d h))

/-! ## Resolution and failure (R223, R428) -/

/-- Resolve an operation of a context's cluster, releasing its entries. -/
def State.engResolve (s : State) (cx : Nat) (h v : Word) : State :=
  let s : State := { s with opDenials := adel s.opDenials h.toNat }
  (if isMemCtx cx then s else s.dropLocks (clusterOf cx) h).resolve h v false

/-- Notify for the unit that a record names: a join unit through its die, a shared unit through its own cluster, any other through
the context (R396). -/
def State.notifyUnit (s : State) (cx ukind unit : Nat) : State :=
  if ukind = 11 then s.notifyDie unit else if 6 ≤ ukind ∧ ukind ≤ 10 then s.notify unit else s.notifyCtx cx

/-- Resolve an operation failed, with the record 0x34 and its notification (R396, R428). -/
def State.engFail (s : State) (cx ukind unit : Nat) (ident : BitVec 24) (h w : Word) : State :=
  let s : State := { s with opDenials := adel s.opDenials h.toNat }
  let s := (if isMemCtx cx then s else s.dropLocks (clusterOf cx) h).resolve h w true
  (s.logRec 0x34 ukind unit ident h w).notifyUnit cx ukind unit

/-- The fault address field (R428). -/
def faultField (role : Nat) (a : Word) : Nat := role * 2 ^ 50 + b2n (a.getLsbD 62 && !a.getLsbD 63) * 2 ^ 49 + (a.toNat >>> 19) % 2 ^ 41

/-- The failure word of a fault on an engine's own access. -/
def faultWord (kind role : Nat) (t : Trap) : Word :=
  let why := match t.cause with
    | 0x04 => 0x10
    | 0x03 => 0x14
    | 0x12 => 0x12
    | _ => 0x11
  failureWord kind why (faultField role t.val)

/-! ## Engine writes (R76, R103, R302, R420) -/

/-- What an engine's write comes to: the bits dropped by a denial, the pages logged, the granules written, and the words
of this package as they were, with their poison. -/
inductive EngWrite where
  | done (s : State) (dropped : Nat) (seen : List Nat) (grans : List Nat) (old : Assoc (Word × Bool))
  /-- it waits for a frame, a migrating stream or another package -/
  | hold (s : State)
  | fault (s : State) (t : Trap)

/-- A walk that waits for a frame is in progress: no other operation on its stream comes before its end (R298, R313). -/
def State.cowWaits (s : State) (ag : Agent) (off : Nat) : State :=
  let q : CowReq := { sid := ag.rights.sid.setWidth 32, off := off / 2 ^ 16 * 2 ^ 16 }
  s.modStreams ag.cl (fun p => if p.cows.contains q then p else { p with cows := p.cows ++ [q] })

/-- The copy-on-write walks that the parts need, before any is written (R302): none where the walk waits. A broken stream
ends, and the write then meets a translation fault (R432). -/
def engCow (ag : Agent) : List Part → State → State × Bool
  | [], s => (s, true)
  | p :: ps, s =>
    if p.denied || !p.cow then engCow ag ps s
    else match (s.cluster ag.cl).streams.find (ag.rights.sid.setWidth 32) with
      | none => (s, true)
      | some (slot, t) =>
        if (s.cluster ag.cl).streams.busy t.id then (s.cowWaits ag (Wbits p.addr 36 3), false)
        else match cow ag.cl slot (Wbits p.addr 36 3) s with
        | .done s => engCow ag ps s
        | .wait s => (s.cowWaits ag (Wbits p.addr 36 3), false)
        | .broken s a => (s.breakStream ag.cl slot a, true)

/-- The words of a line that the writes of a request poison, one bit each. -/
def badWords (w : Wr) (bad : Part → Bool) (all : List Wr) : Word :=
  let mine := all.filter (fun x => x.part.own == w.part.own && x.part.key / 128 == w.part.key / 128 && bad x.part)
  if w.narrow then b2w (bad w.part) else mine.foldl (fun m x => m ||| wordOfNat (2 ^ (x.part.key % 128 / 8))) 0

/-- Write one checked part as an engine; a part that carries poison leaves its word poisoned. -/
def State.engPart (s : State) (ag : Agent) (all : List Wr) (seen : List Nat) (w : Wr) (bad : Part → Bool) : State :=
  let p := w.part
  let r := s.storeOf ag w
  if p.own ≠ s.sys.self then (if firstOfLine seen w then s.sendWrite ag all w (badWords w bad all) r else s)
  else
    let s := touchWrites ag [w] s
    let (s, dropped) := s.putWord p.key p.mask r.val
    let s := if dropped then s.droppedRec p.key p.addr (s.servingDie ag.die (p.key / 128)) (if w.narrow then none else ag.core) else s
    if bad p then s.setPoison p.key else s

/-- Write checked parts in order. -/
def engParts (ag : Agent) (all : List Wr) (bad : Part → Bool) : List Wr → List Nat → State → State
  | [], _, s => s
  | w :: ws, seen, s =>
    engParts ag all bad ws ((w.part.own * 2 ^ 48 + w.part.key / 128) :: seen) (s.engPart ag all seen w bad)

/-- Full/empty granules of parts in windows. -/
def partGrans (qs : List Part) : List Nat :=
  qs.filterMap (fun p => p.win.bind (fun w => if w.win ≤ 2 then some (granuleId w.core w.win w.inc) else none))

/-- Write w bits as an engine. -/
def State.engWrite (s : State) (ag : Agent) (code : Nat) (seen : List Nat) (a : Word) (w v : Nat) (bad : Part → Bool) : EngWrite :=
  let (s, qs) := s.checkParts ag .store false (partsOf 0 a w)
  match worstFault qs with
  | some t => if t.cause = 0 then .hold s else .fault s t
  | none =>
    let go (s : State) (qs : List Part) : EngWrite :=
      let (s, seen) := logDenials ag code qs seen s
      let live := qs.filter (fun p => !p.denied)
      let ws := live.map (fun p => ({ part := p, val := p.cut v, narrow := isNarrow a w } : Wr))
      .done (engParts ag ws bad ws [] s) ((qs.filter (·.denied)).foldl (fun n p => n + p.len) 0) seen (partGrans live)
        ((live.filter (fun p => p.own == s.sys.self)).foldl (fun m p => aset m p.key (memWord s.mem p.key, s.poisoned p.key)) [])
    if qs.any (fun p => p.cow && !p.denied) then
      match engCow ag qs s with
      | (s, false) => .hold s
      | (s, true) =>
        let (s, qs) := s.checkParts ag .store false (partsOf 0 a w)
        match worstFault qs with
        | some t => if t.cause = 0 then .hold s else .fault s t
        | none => go s qs
    else go s qs

/-- No poison is written. -/
def clean : Part → Bool := fun _ => false

/-- Have all the stores that an engine operation sent to other packages been acknowledged? -/
def State.engSettled (s : State) (h : Word) : Bool := !s.rstores.any (fun r => r.uid == h.toNat)

/-- The agent that performs an operation: the rights of its issue, and its own name for its requests. -/
def opAgent (r : Rights) (h : Word) : Agent := { engineAgent { r with uid := h.toNat } with log := some h.toNat }

end Sys2Proof.Machine
end

