-- ==== Sys2Proof/Machine/Copy.lean ====
section
/-!
DEFINITION. The copy family, page 8 (R217 to R222, R124, R369, R428, R429), with the events that start, advance and end
its work; and PIN and UNPIN (R84 to R86, R212, R213).
-/

namespace Sys2Proof.Machine

/-! ## Issue (R217 to R223) -/

/-- Is a window operand one that the family refuses (R217, R222): C or window 0b011? -/
def badWindow (a : Word) : Bool := a.getLsbD 63 && decide (2 ≤ Wbits a 62 60)

/-- Does a window operand name another package (R217)? -/
def State.foreignWindow (s : State) (a : Word) : Bool :=
  a.getLsbD 63 && !a.getLsbD 36 && Wbits a 59 48 != s.sys.self

/-- The first refusal of R428 that a copy over these operands meets, with the length (or product) to be moved. DESIGN CHOICE (log
114): an MCFETCH destination or MCSEND source that is no window address is not refused. -/
def State.copyRefusal (s : State) (cx : Nat) (ops : List Word) (len : Nat) (badClass : Bool) : Option Nat :=
  if ops.any badWindow then some 0x01
  else if 2 ^ 56 ≤ len then some 0x02
  else if badClass then some 0x03
  else if isMemCtx cx && !s.regs.full then some 0x05
  else if ops.any s.foreignWindow then some 0x06
  else none

/-- The copies of a unit: the engine of cluster u, or memory core u − 16. -/
def State.copies (s : State) (u : Nat) : List CopyOp := if u < 16 then (s.cluster u).copies else (s.mcore (u - 16)).copies

/-- Change the copies of a unit. -/
def State.modCopies (s : State) (u : Nat) (f : List CopyOp → List CopyOp) : State :=
  if u < 16 then s.modCluster u (fun c => { c with copies := f c.copies }) else s.modMcore (u - 16) (fun m => { m with copies := f m.copies })

/-- The unit that performs the copies of a context. -/
def copyUnitOf (cx : Nat) : Nat := if isMemCtx cx then 16 + memCoreOf cx else clusterOf cx

/-- Issue a copy: refusals, an empty one at once, else its place in the queue (R218, R223, R369). -/
def State.copyIssue (s : State) (c : Cur) (o : Ops) (refusal : Option Nat) (empty : Bool) (locks : List RangeLock) (p : CopyOp) : Res :=
  match refusal with
  | some why => s.refused c o.d 0x1 why
  | none =>
    if empty then s.givenAtOnce c o.d 0
    else
      let u := copyUnitOf c.cx
      s.engIssue c o.d 0x1 (if isMemCtx c.cx then [] else locks) (decide ((s.copies u).length < 64)) queueCopy
        (fun h s => s.modCopies u (fun l => l ++ [{ p with handle := h, rights := s.rightsOf c.cx, scope := o.imm.toNat }]))

/-- CP (R219). -/
def execCp (o : Ops) (s : State) : Result :=
  s.run anyMode (srcABC o) (fun c s =>
    let x := s.me c
    let a := x.readS o.a
    let b := x.readS o.b
    let n := (x.readS o.c).toNat
    s.copyIssue c o (s.copyRefusal c.cx [a, b] n false) (n == 0) [s.lockEntry true a n, s.lockEntry false b n]
      { kind := .cp, dst := a, src := b, len := n, rows := 1 })

/-- The bits between the lowest and the highest that strided rows touch: start and length (R223). -/
def rowSpan (a : Word) (rows len : Nat) (stride : Int) : Word × Nat :=
  let last : Int := stride * (rows - 1 : Nat)
  (a + wordOfInt (min 0 last), last.natAbs + len)

/-- CP2D (R219). -/
def execCp2d (o : Ops) (s : State) : Result :=
  s.run anyMode (srcABC o ++ [(pairHi o.c, o.tc)]) (fun c s =>
    let x := s.me c
    let a := x.readS o.a
    let b := x.readS o.b
    let rows := Wbits (x.readS o.c) 63 32
    let len := Wbits (x.readS o.c) 31 0
    let ds := sextN (Wbits (x.readS (pairHi o.c)) 63 32) 32
    let ss := sextN (Wbits (x.readS (pairHi o.c)) 31 0) 32
    let d := rowSpan a rows len ds
    let q := rowSpan b rows len ss
    s.copyIssue c o (s.copyRefusal c.cx [a, b] (rows * len) false) (rows * len == 0)
      [s.lockEntry true d.1 d.2, s.lockEntry false q.1 q.2]
      { kind := .cp2d, dst := a, src := b, len := len, rows := rows, dstr := ds, sstr := ss })

/-- CPG (R219). -/
def execCpg (o : Ops) (s : State) : Result :=
  s.run anyMode (srcABC o) (fun c s =>
    let x := s.me c
    let a := x.readS o.a
    let b := x.readS o.b
    let k := Wbits (x.readS o.c) 35 32
    let n := Wbits (x.readS o.c) 31 0
    s.copyIssue c o (s.copyRefusal c.cx [a, b] (n * classWidth k) (decide (14 ≤ k))) (n == 0)
      [s.lockEntry true a (n * classWidth k), s.lockEntry false b (64 * n)]
      { kind := .cpg, dst := a, src := b, len := n, cls := k })

/-- CPS (R219). -/
def execCps (o : Ops) (s : State) : Result :=
  s.run anyMode (srcABC o) (fun c s =>
    let x := s.me c
    let a := x.readS o.a
    let b := x.readS o.b
    let k := Wbits (x.readS o.c) 35 32
    let n := Wbits (x.readS o.c) 31 0
    s.copyIssue c o (s.copyRefusal c.cx [a, b] (n * classWidth k) (decide (14 ≤ k))) (n == 0)
      [s.lockEntry false b (n * classWidth k), s.lockEntry false a (64 * n)]
      { kind := .cps, dst := a, src := b, len := n, cls := k })

/-- CPFILL (R219). -/
def execCpfill (o : Ops) (s : State) : Result :=
  s.run anyMode (srcABC o) (fun c s =>
    let x := s.me c
    let a := x.readS o.a
    let n := (x.readS o.c).toNat
    s.copyIssue c o (s.copyRefusal c.cx [a] n false) (n == 0) [s.lockEntry true a n]
      { kind := .cpfill, dst := a, pat := x.readS o.b, len := n, rows := 1 })

/-- What a physical operand of MCFETCH or MCSEND must not pass (R221). -/
def State.physBeyond (s : State) (a : Word) (n : Nat) : Bool := decide (8 * s.memTop ≤ a.toNat) || decide (8 * s.memTop < a.toNat + n)

/-- MCFETCH (R221). -/
def execMcfetch (o : Ops) (s : State) : Result :=
  s.run memOnly (srcABC o) (fun c s =>
    let x := s.me c
    let a := x.readS o.a
    let b := x.readS o.b
    let n := (x.readS o.c).toNat
    let r := (s.copyRefusal c.cx [a] n false).orElse (fun _ => if s.physBeyond b n then some 0x05 else none)
    s.copyIssue c o r (n == 0) [] { kind := .mcfetch, dst := a, src := b, len := n, rows := 1 })

/-- MCSEND (R221). -/
def execMcsend (o : Ops) (s : State) : Result :=
  s.run memOnly (srcABC o) (fun c s =>
    let x := s.me c
    let a := x.readS o.a
    let b := x.readS o.b
    let n := (x.readS o.c).toNat
    let r := (s.copyRefusal c.cx [a] n false).orElse (fun _ => if s.physBeyond b n then some 0x05 else none)
    s.copyIssue c o r (n == 0) [] { kind := .mcsend, dst := b, src := a, len := n, rows := 1 })

/-- The cores of a destination set. -/
def setCores (v : Nat) : List Nat := (List.range 1024).filter (fun k => bit v k)

/-- Is a multicast destination or length one that R220 refuses? -/
def mcastBad (a : Word) (n : Nat) : Bool :=
  !a.getLsbD 63 || decide (2 ≤ Wbits a 62 60) || a.getLsbD 37 || decide (Wbits a 35 23 ≠ 0) ||
    decide (windowSpan (Wbits a 62 60) < Wbits a 22 0 + n)

/-- An MCAST whose destination set cannot be read has failed once it issues: it takes a handle, and its failure has a record
(R428, R429). -/
def State.mcastFail (s : State) (c : Cur) (d : BitVec 6) (w : Word) : Res :=
  let (h, s) := s.newHandle 0x1 c.cx
  .okB ((s.onMe c (fun x => x.emptyS d h)).engFail c.cx 6 (clusterOf c.cx) (s.me c).csrs.ident h w)

/-- MCAST (R124, R220): the destination set is read at issue, which comes after the release, the queue and the range locks
(R224, R282); with another package's page it waits for the answer. -/
def execMcast (o : Ops) (s : State) : Result :=
  s.run coreOnly (srcABC o ++ [(pairHi o.c, o.tc)]) (fun c s =>
    let x := s.me c
    let a := x.readS o.a
    let b := x.readS o.b
    let n := (x.readS o.c).toNat
    let v := x.readS (pairHi o.c)
    let refusal := if badWindow b || badWindow v then some 0x01 else if 2 ^ 56 ≤ n then some 0x02
      else if mcastBad a n then some 0x04 else if [a, b, v].any s.foreignWindow then some 0x06 else none
    let locks := [s.lockEntry false b n, s.lockEntry false v 1024]
    match refusal with
    | some why => s.refused c o.d 0x1 why
    | none =>
      if n = 0 then s.givenAtOnce c o.d 0
      else if x.rcount ≠ 0 then .wait s .other 0
      else if 64 ≤ (s.copies (clusterOf c.cx)).length then .wait s .other (wordOfNat queueCopy)
      else if !(s.cluster (clusterOf c.cx)).lockFree locks then .wait s .other 0
      else
        let ag : Agent := { s.ctxAgent c.cx with tlb := none, wins := [0, 1], away := false, sagt := portAgent (clusterOf c.cx) }
        match s.engRead ag 6 [] v 1024 with
        | (s, seen, r) =>
          if r.hold then .wait s .other 0
          else match r.fault with
            | some t => s.mcastFail c o.d (faultWord 0x1 3 t)
            | none =>
              match r.parts.find? (fun p => !p.denied && (poisonedPart s ag.rights.uid p || (p.own == s.sys.self && s.poisoned p.key))) with
              | some p => s.mcastFail c o.d (failureWord 0x1 0x11 (p.pos / 64))
              | none =>
                let dests := setCores (s.engVal ag r.parts)
                if dests.isEmpty then s.givenAtOnce c o.d 0
                else s.copyIssue c o none false locks { kind := .mcast, dst := a, src := b, len := n, dests := dests, den := r.den, logged := seen })

/-! ## Units (R218) -/

/-- Aligned 1,024-bit blocks that n bits from a touch. -/
def blockCount (a n : Nat) : Nat := if n = 0 then 0 else (a + n - 1) / 1024 + 1 - a / 1024

/-- Is a copy done by blocks of rows, and not by elements? -/
def CopyOp.byBlocks (p : CopyOp) : Bool := p.kind != .cpg && p.kind != .cps

/-- Unit numbers of a row: one more than a row can use. -/
def CopyOp.perRow (p : CopyOp) : Nat := p.len / 1024 + 2

/-- First destination bit of a row. -/
def CopyOp.rowDst (p : CopyOp) (r : Nat) : Nat := (p.dst + wordOfInt (p.dstr * r)).toNat

/-- Does row r touch the aligned 1,024-bit block with this number? -/
def CopyOp.meets (p : CopyOp) (r b : Nat) : Bool :=
  decide (p.rowDst r / 1024 ≤ b) && decide (b < p.rowDst r / 1024 + blockCount (p.rowDst r) p.len)

/-- The block of unit k of a copy by blocks: each block that rows touch is one unit, under the first of those rows. -/
def CopyOp.block (p : CopyOp) (k : Nat) : Option Nat :=
  let r := k / p.perRow
  let j := k % p.perRow
  let b := p.rowDst r / 1024 + j
  if r < p.rows ∧ j < blockCount (p.rowDst r) p.len ∧ (List.range r).all (fun q => !p.meets q b) then some b else none

/-- The segments of a block, one for each row that touches it: destination bit, offset in its row, length, row. -/
def CopyOp.segments (p : CopyOp) (b : Nat) : List (Nat × Nat × Nat × Nat) :=
  (List.range p.rows).filterMap (fun r =>
    let d := p.rowDst r
    let lo := max d (b * 1024)
    if p.meets r b then some (lo, lo - d, min (d + p.len) (b * 1024 + 1024) - lo, r) else none)

/-- How many units the copy has. -/
def CopyOp.units (p : CopyOp) : Nat :=
  if p.byBlocks then ((List.range (p.rows * p.perRow)).filter (fun k => (p.block k).isSome)).length else p.len

/-- The destinations of unit k: first bit and length; that of CPS is not known before its index is read. -/
def CopyOp.unitDst (p : CopyOp) (k : Nat) : List (Word × Nat) :=
  if p.byBlocks then ((p.block k).elim [] p.segments).map (fun b => (wordOfNat b.1, b.2.2.1))
  else if p.kind = .cpg ∧ k < p.len then [(p.dst + wordOfNat (k * classWidth p.cls), classWidth p.cls)]
  else []

/-- Full/empty granules of a destination range. -/
def State.rangeGrans (s : State) (a : Word) (n : Nat) : List Nat :=
  if !a.getLsbD 63 then []
  else (partsOf 0 a n).filterMap (fun p => (s.placeWin p.addr).bind (fun w =>
    if w.win ≤ 2 ∧ w.pkg = s.sys.self then some (granuleId w.core w.win w.inc) else none))

/-- The granules of unit k that no unit still to be written touches: they go full with it (R76). -/
def State.finishedGrans (s : State) (p : CopyOp) (k : Nat) (gs : List Nat) : List Nat :=
  if gs.isEmpty then []
  else
    let rest := (List.range (if p.byBlocks then p.rows * p.perRow else p.len)).filter (fun j => j != k && !p.written.contains j)
    let busy := rest.flatMap (fun j => (p.unitDst j).flatMap (fun d => s.rangeGrans d.1 d.2))
    gs.filter (fun g => !busy.contains g)

/-! ## Reading and writing a unit -/

/-- Agent of a copy: the windows W and A of its own package (R67). -/
def CopyOp.agent (p : CopyOp) : Agent := { opAgent p.rights p.handle with wins := [0, 1], away := false }

/-- Bits that the copy reads in parts: words that it has itself overwritten read as they were (R219). -/
def partsVal (s : State) (uid : Nat) (undo : Assoc (Word × Bool)) : List Part → Nat
  | [] => 0
  | p :: ps =>
    let w := match (if p.own = s.sys.self then aget undo p.key else none) with
      | some u => if p.denied then 0 else (u.1.toNat >>> p.off) % 2 ^ p.len
      | none => s.partBits uid p
    w * 2 ^ p.pos + partsVal s uid undo ps

/-- Positions and lengths of the poisoned parts of a read. -/
def partsBad (s : State) (uid : Nat) (undo : Assoc (Word × Bool)) (qs : List Part) : List (Nat × Nat) :=
  (qs.filter (fun p => !p.denied && (if p.own ≠ s.sys.self then poisonedPart s uid p else match aget undo p.key with
    | some u => u.2
    | none => s.poisoned p.key))).map (fun p => (p.pos, p.len))

/-- Does a written part carry poison from one of these places? -/
def carries (bad : List (Nat × Nat)) (off : Nat) (p : Part) : Bool :=
  bad.any (fun b => decide (b.1 < off + p.pos + p.len) && decide (off + p.pos < b.1 + b.2))

/-- The parts of a physical bit range (R221). -/
def State.physParts (s : State) (a : Word) (n : Nat) : List Part :=
  (partsOf 0 a n).map (fun p => { p with own := s.sys.self, key := p.addr.toNat / 64 * 8, off := Wbits p.addr 5 0 })

/-- Write physical bits: the word, its poison, and no cached copy of the line (R221). -/
def State.physPart (s : State) (p : Part) (v : Nat) (bad : Bool) : State :=
  let s := ((s.putWord p.key p.mask (wordOfNat (v * 2 ^ p.off))).1).purgeLine (p.key / 128)
  if bad then s.setPoison p.key else s

/-- What reading the source of a unit comes to: value, poisoned places, whether denied. -/
inductive UnitRead where
  | got (s : State) (p : CopyOp) (v : Nat) (bad : List (Nat × Nat))
  | hold (s : State)
  | fault (s : State) (w : Word)

/-- Read source bits through translation for a copy, under a role of R428. -/
def CopyOp.read (p : CopyOp) (role : Nat) (a : Word) (n : Nat) (s : State) : UnitRead :=
  let ag := p.agent
  match s.engRead ag 6 p.logged a n with
  | (s, seen, r) =>
    if r.hold then .hold s
    else match r.fault with
      | some t => .fault s (faultWord 0x1 role t)
      | none => .got s { p with den := p.den || r.den, logged := seen } (partsVal s ag.rights.uid p.undo r.parts) (partsBad s ag.rights.uid p.undo r.parts)

/-- Bits of the pattern of CPFILL from position j. -/
def patternBits (pat : Word) (j n : Nat) : Nat :=
  ((List.range 18).foldl (fun v i => v + pat.toNat * 2 ^ (64 * i)) 0 >>> (j % 64)) % 2 ^ n

/-- Source of unit k of a copy by blocks. -/
def CopyOp.readBlock (p : CopyOp) (off n row : Nat) (s : State) : UnitRead :=
  match p.kind with
  | .cpfill => .got s p (patternBits p.pat off n) []
  | .mcfetch =>
    let qs := s.physParts (p.src + wordOfNat off) n
    if qs.any (fun q => s.stopped q.key) then .hold s else .got s p (partsVal s 0 [] qs) (partsBad s 0 [] qs)
  | _ => p.read 0 (p.src + wordOfInt (p.sstr * row) + wordOfNat off) n s

/-- An operation's record after a change. -/
def State.putCopy (s : State) (u : Nat) (p : CopyOp) : State :=
  s.modCopies u (fun l => l.map (fun q => if q.handle = p.handle then p else q))

/-- A segment of a unit once its source is read: destination, length, value, poisoned places. -/
structure Seg where
  dst : Word := 0
  n : Nat := 0
  v : Nat := 0
  bad : List (Nat × Nat) := []
  deriving DecidableEq, Repr, Inhabited

/-- Write the segments of a unit: the granules written, or the reason to stop. -/
def segWrites (u : Nat) : List Seg → CopyOp → List Nat → State → State × CopyOp × List Nat × Bool
  | [], p, gs, s => (s, p, gs, true)
  | g :: rest, p, gs, s =>
    match s.engWrite p.agent 7 p.logged g.dst g.n g.v (carries g.bad 0) with
    | .hold s => (s, p, gs, false)
    | .fault s t => (s.putCopy u { p with failed := some (faultWord 0x1 1 t) }, p, gs, false)
    | .done s dropped seen more old =>
      let keep := p.kind == .cp || p.kind == .cp2d
      segWrites u rest { p with
        doneBits := p.doneBits + (g.n - dropped), den := p.den || decide (0 < dropped), logged := seen
        undo := if keep then old.foldl (fun m x => if (aget m x.1).isSome then m else aset m x.1 x.2) p.undo else [] } (gs ++ more) s

/-- Write unit k of a copy once its source is read: granules that no later unit writes go full with it (R76). `later` are
those that the rest of a CPS touches. -/
def State.unitWrite (s : State) (u : Nat) (p : CopyOp) (k : Nat) (later : List Nat) (segs : List Seg) : State :=
  match segWrites u segs p [] s with
  | (s, _, _, false) => s
  | (s, q, gs, true) =>
    let mine := p.grans ++ gs
    let fill := if p.kind ≠ .cps then s.finishedGrans p k gs else mine.filter (fun g => !later.contains g)
    let q := { q with written := k :: p.written, grans := if p.kind = .cps then mine.filter (fun g => later.contains g) else [] }
    -- answers already used are dropped, but those that hold a source as it was before the first write
    ((s.fillGrans fill).dropFwds (if p.kind = .cp ∨ p.kind = .cp2d then 0 else p.handle.toNat)).putCopy u q

/-- Read the segments of a block: all of them, or how it ends. -/
def CopyOp.readSegs (p : CopyOp) : List (Nat × Nat × Nat × Nat) → List Seg → CopyOp → State → Sum State (State × Word) ⊕ (State × CopyOp × List Seg)
  | [], acc, q, s => .inr (s, q, acc)
  | (d, off, n, row) :: rest, acc, q, s =>
    match q.readBlock off n row s with
    | .hold s => .inl (.inl s)
    | .fault s w => .inl (.inr (s, w))
    | .got s q v bad => p.readSegs rest (acc ++ [{ dst := wordOfNat d, n := n, v := v, bad := bad }]) q s

/-- CP and CP2D read every source bit before they write: what lies in other packages is asked for before the first unit is
written (R219). The flag says that all of it is there. -/
def CopyOp.fetchAll (p : CopyOp) (s : State) : State × Bool :=
  if p.src.getLsbD 63 || !p.written.isEmpty || !(p.kind == .cp || p.kind == .cp2d) then (s, true)
  else
    let (s, qs) := s.checkParts p.agent .load false ((List.range p.rows).flatMap (fun r => partsOf 0 (p.src + wordOfInt (p.sstr * r)) p.len))
    forwardReads p.agent (qs.filter (fun q => q.fault.isNone)) s

/-- The granules that elements j and up of a CPS touch, as far as their indices can be read; none while one has to be
waited for. -/
def CopyOp.later (p : CopyOp) : Nat → Nat → State → List Nat → State × Option (List Nat)
  | 0, _, s, gs => (s, some gs)
  | n + 1, j, s, gs =>
    match p.read 2 (p.dst + wordOfNat (64 * j)) 64 s with
    | .hold s => (s, none)
    | .fault _ _ => (s, some gs)
    | .got t _ ix bad => if bad.isEmpty then p.later n (j + 1) t (gs ++ s.rangeGrans (wordOfNat ix) (classWidth p.cls)) else (s, some gs)

/-- One block of a copy. -/
def State.copyBlock (s : State) (u : Nat) (p : CopyOp) (k b : Nat) : State :=
  match p.fetchAll s with
  | (s, false) => s
  | (s, true) =>
    match p.readSegs (p.segments b) [] p s with
    | .inl (.inl s) => s
    | .inl (.inr (s, w)) => s.putCopy u { p with failed := some w }
    | .inr (s, p, segs) =>
      if p.kind ≠ .mcsend then s.unitWrite u p k [] segs
      else
        let qs := segs.flatMap (fun g => (s.physParts g.dst g.n).map (fun q => (q, g)))
        if qs.any (fun q => s.stopped q.1.key) then s
        else
          let s := qs.foldl (fun (s : State) (q : Part × Seg) => s.physPart q.1 (q.1.cut q.2.v) (carries q.2.bad 0 q.1)) s
          s.putCopy u { p with written := k :: p.written, doneBits := p.doneBits + (segs.map (·.n)).sum }

/-- One element of CPG or CPS. -/
def State.copyElement (s : State) (u : Nat) (p : CopyOp) (k : Nat) : State :=
  let w := classWidth p.cls
  let index := if p.kind = .cpg then p.src else p.dst
  match p.read 2 (index + wordOfNat (64 * k)) 64 s with
  | .hold s => s
  | .fault s f => s.putCopy u { p with failed := some f }
  | .got s p ix bad =>
    if !bad.isEmpty then s.putCopy u { p with failed := some (failureWord 0x1 0x11 k) }
    else
      let dst := if p.kind = .cpg then p.dst + wordOfNat (k * w) else wordOfNat ix
      let src := if p.kind = .cpg then wordOfNat ix else p.src + wordOfNat (k * w)
      match (if p.kind = .cpg ∨ (p.grans.isEmpty ∧ (s.rangeGrans dst w).isEmpty) then (s, some []) else p.later (p.len - (k + 1)) (k + 1) s []) with
      | (s, none) => s
      | (s, some later) =>
        match p.read 0 src w s with
        | .hold s => s
        | .fault s f => s.putCopy u { p with failed := some f }
        | .got s p v bad => s.unitWrite u p k later [{ dst := dst, n := w, v := v, bad := bad }]

/-- One unit of a copy (R218, R219, R429). -/
def State.copyUnit (s : State) (u : Nat) (p : CopyOp) (k : Nat) : State :=
  if p.byBlocks then (match p.block k with
    | none => s
    | some b => s.copyBlock u p k b)
  else s.copyElement u p k

/-! ## Events (R369; COPY_START to MCAST_RESOLVE) -/

/-- Is the unit a memory core that is stopped for new firmware, or that has failed (R384, R430)? -/
def State.unitStopped (s : State) (u : Nat) : Bool :=
  decide (16 ≤ u) && (s.boot.stackStop.any (fun x => x.1 == (u - 16) / 8) || s.boot.failed.contains (u - 16))

/-- The operation of a unit with a handle. -/
def State.copyOf (s : State) (u : Nat) (h : Word) : Option CopyOp := (s.copies u).find? (fun p => p.handle == h)

/-- The first queued operation of a unit, if it may start: 8 run at a time in a cluster, one on a memory core. -/
def State.nextCopy (s : State) (u : Nat) : Option CopyOp :=
  if s.unitStopped u then none
  else if (if u < 16 then 8 else 1) ≤ ((s.copies u).filter (·.running)).length then none else (s.copies u).find? (fun p => !p.running)

/-- Start an operation; a multicast reads its payload. -/
def State.startCopy (s : State) (u : Nat) (p : CopyOp) : State :=
  if p.kind ≠ .mcast then s.putCopy u { p with running := true }
  else match p.read 0 p.src p.len s with
    | .hold s => s
    | .fault s w => s.putCopy u { p with running := true, failed := some w }
    | .got s p v bad => (s.dropFwds p.handle.toNat).putCopy u { p with running := true, snap := v, bad := bad }

/-- COPY_START of unit i: a cluster's engine, or memory core i − 16 (R369). -/
def execCopyStart (s : State) : Result :=
  s.event (fun x s => (s.nextCopy x.i).map (fun p => s.startCopy x.i p))

/-- May unit k of a running copy be written now? CPS and CPG write their elements in order: nothing is written after one whose
index is poisoned (R219, R429). -/
def CopyOp.open_ (p : CopyOp) (k : Nat) : Bool :=
  p.running && p.kind != .mcast && p.failed.isNone && !p.cancel && !p.written.contains k &&
    (if p.byBlocks then (p.block k).isSome else decide (k < p.len) && k == p.written.length)

/-- COPY_UNIT_WRITE: unit k of the operation with handle w on unit i. -/
def execCopyUnitWrite (s : State) : Result :=
  s.event (fun x s =>
    match s.copyOf x.i x.w with
    | none => none
    | some p => if p.open_ x.k && !s.unitStopped x.i then some (s.copyUnit x.i p x.k) else none)

/-- Completion word of the family (R218). -/
def copyWord (cxl den : Bool) (done : Nat) : Word := wordOfNat (b2n cxl * 2 ^ 63 + b2n den * 2 ^ 62 + done % 2 ^ 56)

/-- Remove an operation from its unit. -/
def State.endCopy (s : State) (u : Nat) (h : Word) : State :=
  (s.modCopies u (fun l => l.filter (fun q => q.handle != h))).dropFwds h.toNat

/-- Resolve an operation failed. -/
def State.failCopy (s : State) (u : Nat) (p : CopyOp) (w : Word) : State :=
  (s.endCopy u p.handle).engFail p.rights.cx (if u < 16 then 6 else 1) (if u < 16 then u else u - 16) p.rights.ident p.handle w

/-- COPY_RESOLVE: every unit written, or the work stopped or failed, and every store acknowledged. -/
def execCopyResolve (s : State) : Result :=
  s.event (fun x s =>
    match s.copyOf x.i x.w with
    | none => none
    | some p =>
      if !s.engSettled p.handle then none
      else match p.failed with
        | some w => some (s.failCopy x.i p w)
        | none =>
          let whole := p.running && p.written.length == p.units
          if p.kind != .mcast && (whole || p.cancel) then
            some ((s.endCopy x.i p.handle).engResolve p.rights.cx p.handle (copyWord (p.cancel && !whole) p.den p.doneBits))
          else none)

/-- Two multicasts of one context reach every common destination in issue order (R125). -/
def State.mcastTurn (s : State) (u : Nat) (p : CopyOp) (core : Nat) : Bool :=
  ((s.copies u).takeWhile (fun q => q.handle != p.handle)).all (fun q =>
    !(q.kind == .mcast && q.rights.cx == p.rights.cx && q.dests.contains core))

/-- The destination of a multicast at one core: core bits [47:38] replaced (R220). -/
def mcastAddr (a : Word) (core : Nat) : Word := (a &&& ~~~(wordOfNat (1023 * 2 ^ 38))) ||| wordOfNat (core * 2 ^ 38)

/-- MULTICAST_DELIVERY at core k: the payload lands whole, its granules go full, and the core acknowledges (R124, R125). At a core
that has left service it meets an address fault, and the work fails (R428, R443). -/
def execMulticastDelivery (s : State) : Result :=
  s.event (fun x s =>
    match s.copyOf x.i x.w with
    | none => none
    | some p =>
      if p.kind == .mcast && p.running && p.failed.isNone && p.dests.contains x.k && s.mcastTurn x.i p x.k then
        let q := { p with dests := p.dests.filter (· != x.k) }
        match s.engWrite p.agent 7 p.logged (mcastAddr p.dst x.k) p.len p.snap (carries p.bad 0) with
        | .done s _ _ gs _ => some ((s.fillGrans gs).putCopy x.i q)
        | .hold _ => none
        | .fault s t => some (s.putCopy x.i { p with failed := some (faultWord 0x1 1 t) })
      else none)

/-- MCAST_RESOLVE: every destination has acknowledged (R220). -/
def execMcastResolve (s : State) : Result :=
  s.event (fun x s =>
    match s.copyOf x.i x.w with
    | none => none
    | some p =>
      if p.kind == .mcast && p.running && p.failed.isNone && p.dests.isEmpty then
        some ((s.endCopy x.i p.handle).engResolve p.rights.cx p.handle (copyWord false p.den p.len))
      else none)

/-! ## PIN and UNPIN (R84 to R86, R212, R213) -/

/-- Bits of [lo, lo + len) in the line of 1,024 bits with the number given. -/
def lineOverlap (lo len line : Nat) : Nat := min (lo + len) (line * 1024 + 1024) - max lo (line * 1024)

/-- Number of lines that a bit range touches. -/
def pinLines (lo len : Nat) : Nat := blockCount lo len

/-- PIN (R212): a length of 0 resolves at once. -/
def execPin (o : Ops) (s : State) : Result :=
  s.run anyMode (srcAB o) (fun c s =>
    let x := s.me c
    let len := (x.readS o.b).toNat
    if len = 0 then s.givenAtOnce c o.d 0
    else s.engIssue c o.d 0x7 [] true 0 (fun h s =>
      { s with pins := s.pins ++ [{ handle := h, rights := s.rightsOf c.cx, lo := x.readS o.a, len := len }] }))

/-- Is a task past its quota with one more line (R85)? -/
def State.pastQuota (s : State) (cl uid : Nat) : Bool := decide ((s.cluster cl).pinq.toNat * 65536 < (aget s.charges uid).getD 0 + 128)

/-- Charge a task for a line (R84), and credit it (R86). -/
def State.charge (s : State) (uid : Nat) : State := { s with charges := aset s.charges uid ((aget s.charges uid).getD 0 + 128) }
def State.credit (s : State) (uid : Nat) : State := { s with charges := aset s.charges uid ((aget s.charges uid).getD 0 - 128) }

/-- How one line of a PIN comes out. -/
inductive PinOne where
  | pinned (s : State)
  | not (s : State)
  | quota (s : State)
  | wait

/-- Pin a line of this package for a task of a die: in its frame, or in the cache ways once it is there. -/
def State.pinHere (s : State) (cl die uid line tag : Nat) : PinOne :=
  match s.frameOf die (line / 512) with
  | some (n, f) =>
    if f.pins.contains (uid, line) then .pinned s
    else if s.pastQuota cl uid then .quota s
    else .pinned ((s.modFrame n f.page (fun f => { f with pins := (uid, line) :: f.pins })).charge uid)
  | none =>
    let k := die * 2 ^ 33 + line
    if ((aget s.caches.l2 k).getD {}).pins.contains uid then .pinned s
    else if s.setPinned die line then .not s
    else if s.pastQuota cl uid then .quota s
    else
      let s := s.l2Bring die line tag false
      if (s.l2Line die line).isNone then .not s
      else .pinned ((s.modL2 (fun m => amod m k (fun l => { l with pins := uid :: l.pins }))).charge uid)

/-- One line of a PIN (R84, R212); during SRAM-only service none is pinned (R378). -/
def State.pinOne (s : State) (p : PinOp) (line : Nat) : PinOne :=
  let a := wordOfNat (line * 1024)
  if !s.regs.full then .not s
  else if a.getLsbD 63 then .pinned s
  else
    let ag := opAgent p.rights p.handle
    match s.walk ag a .load with
    | (s, .found e) =>
      let (own, b) := s.whereNow stubFuel e.own (e.frame + Wbits a 59 3 % 2 ^ e.size)
      if own ≠ s.sys.self ∨ s.memTop ≤ b then .not s
      else if s.stopped b ∨ s.inTransit b then .wait
      else s.pinHere ag.cl ag.die p.rights.uid (b / 128) e.tag
    | (_, .hold) => .wait
    | (s, .damaged at_) => .not (s.damagedRec at_ p.rights.ident a)
    | (s, .fault _) => .not s

/-- Bits of a PIN's range in its lines from the given one on. -/
def PinOp.restBits (p : PinOp) (n : Nat) : Nat := p.lo.toNat + p.len - max p.lo.toNat ((p.lo.toNat / 1024 + n) * 1024)

/-- Replace a PIN in progress. -/
def State.putPin (s : State) (p : PinOp) : State := { s with pins := s.pins.map (fun q => if q.handle = p.handle then p else q) }

/-- PIN_LINE: the next line of the PIN with handle w. -/
def execPinLine (s : State) : Result :=
  s.event (fun x s =>
    match s.pins.find? (fun p => p.handle == x.w) with
    | none => none
    | some p =>
      let lo := p.lo.toNat
      if p.quota || p.cancel || decide (pinLines lo p.len ≤ p.next) then none
      else
        let line := lo / 1024 + p.next
        match s.pinOne p line with
        | .pinned s => some (s.putPin { p with next := p.next + 1 })
        | .not s => some (s.putPin { p with next := p.next + 1, notPin := p.notPin + lineOverlap lo p.len line })
        | .quota s => some (s.putPin { p with quota := true })
        | .wait => none)

/-- PIN_RESOLVE (R84, R201): lines not processed count as not pinned. -/
def execPinResolve (s : State) : Result :=
  s.event (fun x s =>
    match s.pins.find? (fun p => p.handle == x.w) with
    | none => none
    | some p =>
      let n := pinLines p.lo.toNat p.len
      if p.quota || p.cancel || decide (n ≤ p.next) then
        let rest := if n ≤ p.next then 0 else p.restBits p.next
        let s : State := { s with pins := s.pins.filter (fun q => q.handle != p.handle) }
        some (s.resolve p.handle (wordOfNat (b2n p.quota * 2 ^ 63 + (p.notPin + rest) % 2 ^ 63)) false)
      else none)

/-- Release a task's pin on a line of this package: the state, and whether it held one. -/
def State.unpinHere (s : State) (die uid line : Nat) : State × Bool :=
  match s.frameOf die (line / 512) with
  | some (n, f) =>
    if f.pins.contains (uid, line) then
      ((s.modFrame n f.page (fun f => { f with pins := f.pins.filter (· != (uid, line)) })).credit uid, true)
    else (s, false)
  | none =>
    let k := die * 2 ^ 33 + line
    match aget s.caches.l2 k with
    | none => (s, false)
    | some l =>
      let m : L2Line := { l with pins := l.pins.filter (· != uid) }
      if l.pins.contains uid then ((s.modL2 (fun x => if m.kept then aset x k m else adel x k)).credit uid, true) else (s, false)

/-- UNPIN's part on one line: the bits it released (R213). -/
def State.unpinOne (s : State) (ag : Agent) (uid line lo len : Nat) : State × Nat :=
  let a := wordOfNat (line * 1024)
  if a.getLsbD 63 then (s, 0)
  else match s.walk ag a .load with
    | (s, .found e) =>
      let (own, b) := s.whereNow stubFuel e.own (e.frame + Wbits a 59 3 % 2 ^ e.size)
      if own ≠ s.sys.self then (s, 0)
      else match s.unpinHere ag.die uid (b / 128) with
        | (s, true) => (s, lineOverlap lo len line)
        | (s, false) => (s, 0)
    | (s, .damaged at_) => (s.damagedRec at_ ag.rights.ident a, 0)
    | (s, _) => (s, 0)

/-- UNPIN (R86, R213). -/
def execUnpin (o : Ops) (s : State) : Result :=
  s.run anyMode (srcAB o) (fun c s =>
    let x := s.me c
    let lo := (x.readS o.a).toNat
    let len := (x.readS o.b).toNat
    let ag := s.ctxAgent c.cx
    let held (i : Nat) : Bool := (s.walk ag (wordOfNat ((lo / 1024 + i) * 1024)) .load).2 == .hold
    if (List.range (pinLines lo len)).any (fun i => !(wordOfNat ((lo / 1024 + i) * 1024)).getLsbD 63 && held i) then .wait s .other 0
    else
    let (s, n) := (List.range (pinLines lo len)).foldl (fun (r : State × Nat) i =>
      let q := r.1.unpinOne ag x.uid (lo / 1024 + i) lo len
      (q.1, r.2 + q.2)) (s, 0)
    .okB (s.onMe c (fun x => x.writeS o.d (wordOfNat n))))

end Sys2Proof.Machine
end

