-- ==== Sys2Proof/Machine/Ring.lean ====
section
/-!
DEFINITION. The cellar rings behind the task yard and the event queues (R371, R372): where their records lie, and how a unit
writes and reads them.
-/

namespace Sys2Proof.Machine

/-- Physical byte address of cellar descriptor k of a cluster. -/
def Cluster.cellarDesc (c : Cluster) (k : Nat) : Nat := c.celb.toNat * 2 ^ 12 + 32 * k

/-- Virtual bit address of the record with count n of the ring that a descriptor names, for records of the size given. -/
def State.ringAddr (s : State) (desc n bytes : Nat) : Word :=
  let lsz := Wbits (s.phys (desc + 8)) 4 0
  s.phys desc * 8 + wordOfNat (n % 2 ^ lsz * bytes * 8)

/-- Is the page of a ring address mapped with WR (R371)? None while the walk or the page's stack waits (R384). Ring pages are
neither tag-checked nor counted in hotness. -/
def State.ringMapped (s : State) (a : Word) : Option Bool :=
  if a.getLsbD 63 || a.getLsbD 62 then some false
  else match s.globalWalk a with
    | .leaf _ e level =>
      let t := leafEntry a e level
      if t.own = s.sys.self ∧ s.stopped (t.frame + Wbits a 59 3 % 2 ^ t.size) then none else some (t.wr && s.knows t.own)
    | .wait => none
    | _ => some false

/-- The agent that reaches the ring of descriptor n of a cluster: through the package tables, with no tag check and no count in
hotness (R371). -/
def ringAgent (cl n : Nat) : Agent := { engineAgent { cx := cl * 512, uid := 2 ^ 64 + 65 * cl + n } with ring := true }

/-- Words as one number, the first the least significant. -/
def wordsNat (ws : List Word) : Nat := ws.foldr (fun (w : Word) (x : Nat) => w.toNat + x * 2 ^ 64) 0

/-- Write the record of w bits at an address of a ring, with WR required (R371); the words that `bad` marks are poisoned. None where
its page waits or is not mapped. -/
def State.ringWrite (s : State) (cl n : Nat) (a : Word) (w v bad : Nat) : Option State :=
  match s.engWrite (ringAgent cl n) 0 [] a w v (fun p => bit bad (p.pos / 64)) with
  | .done s _ _ _ _ => some s
  | _ => none

/-- How the reading of a record ends. -/
inductive RingRead where
  /-- its bits, and a mark for each word that is poisoned -/
  | got (s : State) (v bad : Nat)
  | wait (s : State)

/-- Read the record of w bits at an address of a ring. -/
def State.ringRead (s : State) (cl n : Nat) (a : Word) (w : Nat) : RingRead :=
  let ag := ringAgent cl n
  let (s, qs) := s.checkParts ag .store false (partsOf 0 a w)
  if (worstFault qs).isSome then .wait s
  else match forwardReads ag qs s with
    | (s, false) => .wait s
    | (s, true) =>
      let bad (p : Part) : Bool := (p.own == s.sys.self && s.poisoned p.key) || lostPart s ag.rights.uid p || poisonedPart s ag.rights.uid p
      .got (touchParts ag false qs s) (laneBits s ag.rights.uid 0 qs) (bitsWhere (w / 64) (fun k => qs.any (fun p => p.pos / 64 == k && bad p)))

/-- Head count of the ring that a descriptor names. -/
def State.ringFirst (s : State) (desc : Nat) : Nat := Wbits (s.phys (desc + 16)) 31 0

/-- The record with count k of a ring leaves it: the record at the head takes its place there, and the head rises (log 105). -/
def State.ringTake (s : State) (cl n k bytes : Nat) : RingRead :=
  let desc := (s.cluster cl).cellarDesc n
  let head := s.ringFirst desc
  let off (s : State) : State := (s.dropFwds (ringAgent cl n).rights.uid).setPhys (desc + 16) (wordOfNat ((head + 1) % 2 ^ 32))
  if s.stopped desc then .wait s
  else match s.ringRead cl n (s.ringAddr desc k bytes) (8 * bytes) with
  | .wait s => .wait s
  | .got s v bad =>
    if k = head then .got (off s) v bad
    else match s.ringRead cl n (s.ringAddr desc head bytes) (8 * bytes) with
      | .wait s => .wait s
      | .got s u ub =>
        match s.ringWrite cl n (s.ringAddr desc k bytes) (8 * bytes) u ub with
        | none => .wait s
        | some s => .got (off s) v bad

end Sys2Proof.Machine
end

