-- ==== Sys2Proof/Machine/Spawn.lean ====
section
/-!
DEFINITION. Tasks, weight, votes and futures: EXIT and page 5 (R43, R46, R51, R195 to R202), with the task yard's cellar
ring (R371, R372, R398, R438).
-/

namespace Sys2Proof.Machine

/-! ## The yard cellar ring (R371, R372) -/

/-- Space a new task is asking for comes out as one of these. -/
inductive Room where
  /-- a record of the yard -/
  | record (k : Nat)
  /-- a place in the cellar ring -/
  | cellar
  | wait (s : State)
  /-- quota breach (R372, R392) -/
  | breach

/-- Where a spawned or range task of context cx goes: its firmware yard, its cluster's yard in class S, the cellar ring,
or nowhere yet (R60, R365, R371, R372, R398, R438). -/
def State.room (s : State) (cx : Nat) : Room :=
  if isMemCtx cx then
    match lowestFree (s.mcore (memCoreOf cx)).yard 64 with
    | some k => .record k
    | none => .wait s
  else
    let cl := clusterOf cx
    let C := s.cluster cl
    match C.cellar.isEmpty && decide (64 < C.freeRecs), lowestFree C.yard 1024 with
    | true, some k => if C.mayTake s.cycle 1 then .record k else .wait s
    | _, _ =>
      let desc := C.cellarDesc 0
      let addr := s.ringAddr desc (Wbits (s.phys (desc + 24)) 31 0) 128
      if s.stopped desc then .wait s
      else if (s.die (cl / 4)).yq.toNat ≤ (C.cellar.filter (fun r => r.1 == cx)).length then .breach
      else if 2 ^ Wbits (s.phys (desc + 8)) 4 0 ≤ C.cellar.length then
        if C.cellarFull then .wait s
        else .wait (((s.modCluster cl (fun c => { c with cellarFull := true })).logRec 0x2B 13 cl 0 (s.phys desc) (wordOfNat cl)).notify cl)
      else if s.ringMapped addr = none then .wait s
      else if s.ringMapped addr = some false then
        if C.cellarStop then .wait s
        else .wait (((s.modCluster cl (fun c => { c with cellarStop := true })).logRec 0x0A 13 cl 0 addr 0).notify cl)
      else .cellar

/-- Place a new task: in the record, or at the tail of the ring with its tail count raised (R371); the layout of its 1,024
bits there is free (log 32). None while the ring's page waits. -/
def State.takeIn (s : State) (cx : Nat) (r : YRec) : Option Nat → Option State
  | some k => some ((if isMemCtx cx then s else s.take (clusterOf cx) 1).placeRec cx k { r with since := s.cycle, elig := s.cycle })
  | none =>
    let cl := clusterOf cx
    let desc := (s.cluster cl).cellarDesc 0
    let tail := Wbits (s.phys (desc + 24)) 31 0
    ((s.modCluster cl (fun c => { c with cellar := c.cellar ++ [(cx, r)], cellarStop := false })).ringWrite cl 0
      (s.ringAddr desc tail 128) 1024 (wordsNat ((List.range 16).map (Config.cellarWord r.uid))) 0).map
        (fun s => s.setPhys (desc + 24) (wordOfNat ((tail + 1) % 2 ^ 32)))

/-! ## SPAWN and RANGE (R42, R46, R196) -/

/-- The starting state of a task that context cx makes (R42). -/
def State.childCtx (s : State) (cx : Nat) (entry arg wid kst twt : Word) (range : Option RangeRec) : Ctx :=
  let x := s.ctx cx
  let csrs : Csrs :=
    { vshape := x.csrs.vshape, wid := wid, wfmt := x.csrs.wfmt, sid := x.csrs.sid, ident := x.csrs.ident
      base := x.csrs.base, eff := x.csrs.base, kst := kst, twt := twt
      trapctl := b2w (isMemCtx cx) }
  { startCtx (codeAddr entry) arg (x.readS 61) csrs with cbase := x.cbase, range := range }

/-- Create a task from context cx: room first, then the weight, then the record. -/
def State.create (s : State) (c : Cur) (kind : TaskKind) (entry arg wid : Word) (range : Option RangeRec) : Res :=
  let cx := c.cx
  let x := s.ctx cx
  if x.rcount ≠ 0 then .wait s .other 0
  else
    let s0 := s
    let place (k : Option Nat) : Res :=
      match s.splitWeight x.csrs.kst x.csrs.twt with
      | none => .trap s { cause := 0x09, detail := 1, val := x.csrs.kst }
      | some (s, mine, theirs) =>
        let child := s.childCtx cx entry arg wid x.csrs.kst theirs range
        let (uid, s) := s.newUid
        let r : YRec := { uid := uid, kind := kind, base := x.csrs.base, place := .fresh { child with uid := uid }
                          stack := (s.recOf cx).stack, maker := cx }
        match (s.modCtx cx (fun x => { x with csrs := { x.csrs with twt := mine } })).takeIn cx r k with
        | some s => .okB s
        | none => .wait s0 .other 0
    match s.room cx with
    | .wait s => .wait s .other 0
    | .breach => .trap s { cause := 0x09, detail := 0, val := 0 }
    | .record k => place (some k)
    | .cellar => place none

/-- SPAWN (R196); s61, which the child inherits, is a source without a trap bit (R170, log 88). -/
def execSpawn (o : Ops) (s : State) : Result :=
  s.run anyMode [(o.a, o.ta), (o.b, o.tb), (o.d, false), (61, false)] (fun c s =>
    let x := s.me c
    s.create c .spawned (x.readS o.a) (x.readS o.b) (x.readS o.d) none)

/-- RANGE (R43, R196); s61 is a source, as of SPAWN. -/
def execRange (o : Ops) (s : State) : Result :=
  s.run anyMode [(o.a, o.ta), (o.b, o.tb), (o.c, o.tc), (pairHi o.c, o.tc), (o.d, false), (61, false)] (fun c s =>
    let x := s.me c
    let r : RangeRec := { cur := x.readS o.c, hi := x.readS (pairHi o.c), arg := x.readS o.b, s61 := x.readS 61
                          wid := x.readS o.d, vshape := x.csrs.vshape, entry := codeAddr (x.readS o.a) }
    s.create c .range (x.readS o.a) (x.readS o.b) (x.readS o.d) (some r))

/-- The next index of a range task, and the record after it (R43). -/
def RangeRec.next (r : RangeRec) : Word × RangeRec :=
  if r.cur.toNat < r.hi.toNat then (r.cur, { r with cur := r.cur + 1 }) else (0xFFFFFFFFFFFFFFFF, r)

/-- Has the task been split in this cycle? Its RNEXT of the cycle came before (R44). -/
def State.splitNow (s : State) (uid : Nat) : Bool := s.splits.any (fun x => x.2 == (s.cycle, uid))

/-- RNEXT (R43, R44, R197): all ones on a task that is not a range task. After a split of the task it completes in a later
cycle. -/
def execRnext (o : Ops) (s : State) : Result :=
  s.run anyMode [] (fun c s =>
    if s.splitNow (s.me c).uid then .wait s .other 0
    else match (s.me c).range with
    | none => .okB (s.onMe c (fun x => x.writeS o.d 0xFFFFFFFFFFFFFFFF))
    | some r => .okB (s.onMe c (fun x => ({ x with range := some r.next.2 } : Ctx).writeS o.d r.next.1)))

/-! ## Keystones (R46, R198) -/

/-- KSET: allocates a keystone, or waits while the pool is empty. -/
def execKset (o : Ops) (s : State) : Result :=
  s.run anyMode [] (fun c s =>
    match s.freeKey c.cx with
    | none => .wait s .kset 0
    | some h =>
      let x := s.me c
      let k : Keystone := { issued := 0x4000000000000000, pkst := x.csrs.kst, pwt := x.csrs.twt, owner := some x.uid }
      let s : State := { s with keystones := aset s.keystones h k }
      let s := s.modRecOf c.cx (fun r => { r with ksets := h :: r.ksets })
      .okB (s.onMe c (fun x => ({ x with csrs := { x.csrs with kst := wordOfNat h, twt := 0x4000000000000000 } } : Ctx).writeS o.d (wordOfNat h))))

/-- Did a cluster's keystone go with the cluster (R443)? -/
def State.keyLost (s : State) (h : Nat) : Bool := decide (0x8000 ≤ h) && decide (h < 0x8400) && s.boot.left.contains ((h - 0x8000) / 64)

/-- The end of a KWAIT whose keystone has all its weight back: the parent pair returns and the keystone is freed. -/
def State.finishKwait (s : State) (cx : Nat) (d : BitVec 6) (k : Nat) : State :=
  let K := (aget s.keystones k).getD {}
  let s := s.modRecOf cx (fun r => { r with ksets := r.ksets.filter (· != k) })
  let s : State := { s with keystones := adel s.keystones k }
  s.modCtx cx (fun x => ({ x with csrs := { x.csrs with kst := K.pkst, twt := K.pwt } } : Ctx).writeS d 0)

/-- KWAIT (R198, R202): the weight returns at once, and the wait goes on with twt = 0. -/
def execKwait (o : Ops) (s : State) : Result :=
  s.run anyMode (srcA o) (fun c s =>
    let x := s.me c
    let k := x.csrs.kst.toNat
    if x.readS o.a ≠ x.csrs.kst ∨ k = 0 ∨ !(s.recOf c.cx).ksets.contains k then .okB (s.onMe c (fun x => x.writeS o.d 1))
    else if s.keyLost k then
      .okB (s.onMe c (fun x => ({ x with csrs := { x.csrs with kst := 0, twt := 0 } } : Ctx).writeS o.d 2))
    else
      let s := (s.keyReturn k x.csrs.twt).onMe c (fun x => { x with kdst := o.d, csrs := { x.csrs with twt := 0 } })
      let K := (aget s.keystones k).getD {}
      if K.returned = K.issued then .okB (s.finishKwait c.cx o.d k) else .wait s .kwait x.csrs.kst)

/-! ## BARV (R51, R199, R202) -/

/-- Scope instance of a context at sc.core, sc.quad and sc.group; one instance for the wider scopes. -/
def barvInst (cx scope : Nat) : Nat :=
  match scope with
  | 0 => coreOf cx
  | 1 => coreOf cx / 4
  | 2 => coreOf cx / 16
  | _ => 0

/-- The instance with these numbers. -/
def Barrier.is (b : Barrier) (l : Option Nat) (scope inst num : Nat) : Bool := b.launch == l && b.scope == scope && b.inst == inst && b.num == num

/-- Number of the earliest instance of a scope instance that has not completed. -/
def Cluster.openBarrier (c : Cluster) (l : Option Nat) (scope inst : Nat) : Nat :=
  (c.barriers.filter (fun b => b.launch == l && b.scope == scope && b.inst == inst && b.result.isSome)).foldl (fun n b => max n b.num) 0 + 1

/-- The launch that counts the instances of a scope level: at sc.core, sc.quad and sc.group they belong to the scope instance,
whose members may be of any launch (R51, R267). -/
def barvLaunch (l scope : Nat) : Option Nat := if 3 ≤ scope then some l else none

/-- Record a join with its vote (R51). -/
def State.joinBarv (s : State) (cx : Nat) (l : Option Nat) (scope inst num : Nat) (vote : Word) : State :=
  let uid := (s.ctx cx).uid
  let cl := clusterOf cx
  let s := s.modRecOf cx (fun r => { r with joins := aset r.joins scope (num, inst) })
  let s := s.modCluster cl (fun c =>
    if c.barriers.any (fun b => b.is l scope inst num) then
      { c with barriers := c.barriers.map (fun b => if b.is l scope inst num then { b with joined := uid :: b.joined, vote := b.vote ||| vote } else b) }
    else
      let b : Barrier := { launch := l, scope := scope, inst := inst, num := num, joined := [uid], vote := vote }
      { c with barriers := b :: c.barriers })
  s.settleBarriers cl

/-- Read the result of the instance joined last, if it is complete: d takes the vote; else the context waits. -/
def State.readBarv (s : State) (c : Cur) (d : BitVec 6) (l : Option Nat) (scope inst num : Nat) : Res :=
  let cl := clusterOf c.cx
  let uid := (s.ctx c.cx).uid
  match (s.cluster cl).barriers.find? (fun b => b.is l scope inst num) with
  | none => .wait s .barv 0
  | some b =>
    match b.result with
    | none => .wait s .barv 0
    | some v =>
      let s := s.modCluster cl (fun C => { C with barriers := C.barriers.map (fun b =>
        if b.is l scope inst num then { b with joined := b.joined.filter (· != uid) } else b) })
      .okB (s.onMe c (fun x => x.writeS d v))

/-- BARV (R51, R52, R199): a launched task joins the next instance at its scope and waits for its result; any other task
has its own vote back at once. A join once recorded is not repeated. -/
def execBarv (o : Ops) (s : State) : Result :=
  s.run anyMode (srcA o) (fun c s =>
    let x := s.me c
    let r := s.recOf c.cx
    let scope := o.f.toNat
    match r.launch with
    | none => .okB (s.onMe c (fun x => x.writeS o.d (x.readS o.a)))
    | some launch =>
      let l := barvLaunch launch scope
      let last := aget r.joins scope
      let pending := match last with
        | none => false
        | some (num, inst) => (s.cluster (clusterOf c.cx)).barriers.any (fun b => b.is l scope inst num && b.joined.contains x.uid)
      match pending, last with
      | true, some (num, inst) => s.readBarv c o.d l scope inst num
      | _, _ =>
        if 1 ≤ scope ∧ x.rcount ≠ 0 then .wait s .other 0
        else
          let inst := match last with
            | some (_, i) => i
            | none => barvInst c.cx scope
          let num := match last with
            | some (n, _) => n + 1
            | none => if 3 ≤ scope then 1 else (s.cluster (clusterOf c.cx)).openBarrier l scope inst
          let s : State := if 3 ≤ scope ∨ last.isSome then s
            else s.modCluster (clusterOf c.cx) (fun C => { C with members := (scope, inst, x.uid) :: C.members })
          (s.joinBarv c.cx l scope inst num (x.readS o.a)).readBarv c o.d l scope inst num)

/-! ## EXIT and YIELD (R195, R200) -/

/-- EXIT: waits for the remote stores, then the task ends (R195). -/
def execExit (s : State) : Result :=
  s.run anyMode [] (fun c s =>
    let x := s.me c
    if x.rcount ≠ 0 then .wait s .other 0
    else
      let r := s.recOf c.cx
      .leave (({ s with ctxs := adel s.ctxs c.cx } : State).retire c.cx x.yr r x.csrs.kst x.csrs.twt))

/-- YIELD's return to the yard, once it has completed: saved with every register live, age reset, eligible later. No region is
discarded, and nothing pre-empts it. -/
def State.yield (s : State) (cx n : Nat) : State :=
  let x := s.ctx cx
  let s := s.park cx
  match aget (s.yardOf cx) x.yr with
  | none => s
  | some r => s.placeRec cx x.yr { r with age := 0, since := s.cycle, elig := s.cycle + n * 64 }

/-- YIELD (R200); it waits while its save area cannot be reached (R384). -/
def execYield (o : Ops) (s : State) : Result :=
  match s.run anyMode [] (fun c s =>
    if s.saveStands (if isMemCtx c.cx then 16 else clusterOf c.cx) (s.me c).yr then .okB s else .wait s .other 0) with
  | .next t =>
    match s.cur with
    | .core c => .next (if t.holds c.cx && (t.ctx c.cx).uid == (s.ctx c.cx).uid && (t.ctx c.cx).wait.isNone then t.yield c.cx o.imm.toNat else t)
    | _ => .next t
  | r => r

/-! ## Futures (R170, R201, R401) -/

/-- FWAIT: waits until a is full, ignoring TA; a failed register traps (R201, R401). -/
def execFwait (o : Ops) (s : State) : Result :=
  s.run anyMode [] (fun c s =>
    let x := s.me c
    if x.failS o.a then .trap s { cause := 0x08, detail := o.a.toNat, val := (x.sreg o.a).val }
    else if x.fullS o.a then .ok (s.onMe c (fun x => x.writeS o.d (x.readS o.a)))
    else .wait s .fwait (x.sreg o.a).val)

/-- FTEST: 1 if a is full (R201). -/
def execFtest (o : Ops) (s : State) : Result :=
  s.run anyMode [] (fun c s => .ok (s.onMe c (fun x => x.writeS o.d (b2w (x.fullS o.a)))))

/-- FHND: the handle if a is empty, else 0 (R201). -/
def execFhnd (o : Ops) (s : State) : Result :=
  s.run anyMode [] (fun c s => .ok (s.onMe c (fun x => x.writeS o.d (if x.fullS o.a then 0 else (x.sreg o.a).val))))

/-- Ask the engine that holds the work of a handle to stop (R201): copies but MCAST, matrix work, AGO, PIN. -/
def Cluster.cancelWork (c : Cluster) (h : Word) : Cluster :=
  { c with
    copies := c.copies.map (fun p => if p.handle == h && p.kind != .mcast then { p with cancel := true } else p)
    gen := c.gen.map (fun p => if p.handle == h then { p with cancel := true } else p)
    mason := { c.mason with
      queue := c.mason.queue.map (fun j => if j.handle == h && !j.load then { j with cancel := true } else j)
      run := c.mason.run.map (fun r => if r.job.handle == h && !r.job.load then { r with job := { r.job with cancel := true } } else r) } }

/-- Ask the engine of a handle to stop, wherever the work is. -/
def State.cancelWork (s : State) (h : Word) : State :=
  { s with
    clusters := s.clusters.map (fun c => c.cancelWork h)
    mcores := s.mcores.map (fun (m : Nat × MemCore) =>
      (m.1, { m.2 with copies := m.2.copies.map (fun p => if p.handle == h && p.kind != .mcast then { p with cancel := true } else p) }))
    pins := s.pins.map (fun p => if p.handle == h then { p with cancel := true } else p) }

/-- FCANCEL (R201). -/
def execFcancel (o : Ops) (s : State) : Result :=
  s.run anyMode [] (fun c s =>
    let x := s.me c
    if x.fullS o.a then .okB (s.onMe c (fun x => x.writeS o.d 0))
    else .okB ((s.cancelWork (x.sreg o.a).val).onMe c (fun x => x.writeS o.d 1)))

end Sys2Proof.Machine
end

