-- ==== Sys2Proof/Machine/Event.lean ====
section
/-!
DEFINITION. The event unit (R319 to R338, R436, R437): neuron records, populations, events with their weight, queues and
cellar rings, ticks, and the instructions of page 15.
-/

namespace Sys2Proof.Machine

/-- The completion NL (R312, R333). -/
def nl : Word := 0xFFFFFFFFFFFFFFFF

/-! ## Populations (R319, R321) -/

/-- Word k of a population record. -/
def Pop.word (p : Pop) (k : Nat) : Word := p.words.getD k 0

/-- Fields of a population record (R321). -/
def Pop.lk (p : Pop) : Nat := Wbits (p.word 0) 4 0
def Pop.ob (p : Pop) : Nat := Wbits (p.word 0) 18 5
def Pop.cb (p : Pop) : Nat := Wbits (p.word 0) 24 19
def Pop.npc (p : Pop) : Nat := Wbits (p.word 0) 39 25
def Pop.n (p : Pop) : Nat := Wbits (p.word 0) 63 40
def Pop.theta (p : Pop) : Nat := Wbits (p.word 1) 31 0
def Pop.init (p : Pop) : Bool := (p.word 1).getLsbD 60
def Pop.str (p : Pop) : Bool := (p.word 1).getLsbD 61
def Pop.rm (p : Pop) : Nat := Wbits (p.word 1) 63 62
def Pop.fox (p : Pop) : Word := p.word 2
def Pop.fot (p : Pop) : Word := p.word 3
def Pop.flb (p : Pop) : Word := p.word 4
def Pop.fln (p : Pop) : Nat := Wbits (p.word 5) 31 0
def Pop.soff (p : Pop) : Word := p.word 6

/-- Is a population record valid (R321)? -/
def Pop.valid (p : Pop) : Bool :=
  Wbits (p.word 1) 59 32 == 0 && Wbits (p.word 5) 63 32 == 0 && p.word 7 == 0 &&
  decide (1 ≤ p.n) && decide (1 ≤ p.npc) && decide (p.npc ≤ 16384) && decide (p.cb + ceilDiv p.n p.npc ≤ 64) &&
  decide (128 * (p.ob + p.npc) ≤ 2 ^ 21) && p.rm != 3 && Wbits p.fox 4 0 == 0 && Wbits p.fot 5 0 == 0 &&
  Wbits p.flb 5 0 == 0 && (!p.str || Wbits p.soff 6 0 == 0)

/-- Core within the cluster, and C in-core bit offset, of neuron j. -/
def Pop.core (p : Pop) (j : Nat) : Nat := p.cb + j / max 1 p.npc
def Pop.ofs (p : Pop) (j : Nat) : Nat := 128 * p.ob + 128 * (j % max 1 p.npc)

/-- Neurons that lie on core c of the cluster. -/
def Pop.onCore (p : Pop) (c : Nat) : Nat := if c < p.cb then 0 else min p.npc (p.n - (c - p.cb) * p.npc)

/-- Do the records of two populations share a bit: on a core that holds records of both? -/
def Pop.overlaps (p q : Pop) : Bool :=
  (List.range 64).any (fun c => decide (0 < p.onCore c) && decide (0 < q.onCore c) &&
    decide (p.ob < q.ob + q.onCore c) && decide (q.ob < p.ob + p.onCore c))

/-- Byte key of neuron j of a population of cluster cl, and its granule. -/
def Pop.key (p : Pop) (cl j : Nat) : Nat := windowKey (cl * 64 + p.core j) 2 (p.ofs j)
def Pop.gran (p : Pop) (cl j : Nat) : Nat := granuleId (cl * 64 + p.core j) 2 (p.ofs j)

/-! ## Neuron records (R319) -/

/-- A neuron record as the event unit reads it. -/
structure Neuron where
  v : Int := 0
  theta : Int := 0
  tl : Nat := 0
  touch : Bool := false
  dirty : Bool := false
  deriving DecidableEq, Repr

/-- The record of its two words. -/
def neuronOf (w0 w1 : Word) : Neuron :=
  { v := sextN (Wbits w0 31 0) 32, theta := sextN (Wbits w0 63 32) 32, tl := Wbits w1 31 0, touch := w1.getLsbD 32, dirty := w1.getLsbD 33 }

/-- 32 bits of a signed value. -/
def code32 (i : Int) : Nat := (BitVec.ofInt 32 i).toNat

/-- The words of a record. -/
def Neuron.word0 (r : Neuron) : Word := wordOfNat (code32 r.theta * 2 ^ 32 + code32 r.v)
def Neuron.word1 (r : Neuron) : Word := wordOfNat (b2n r.dirty * 2 ^ 33 + b2n r.touch * 2 ^ 32 + r.tl % 2 ^ 32)

/-- Read neuron j. -/
def State.neuron (s : State) (p : Pop) (cl j : Nat) : Neuron := neuronOf (s.phys (p.key cl j)) (s.phys (p.key cl j + 8))

/-- Is the record of neuron j poisoned? -/
def State.badNeuron (s : State) (p : Pop) (cl j : Nat) : Bool := s.poisoned (p.key cl j) || s.poisoned (p.key cl j + 8)

/-- Change neuron j: both words in one step, and its granule goes full. -/
def State.putNeuron (s : State) (p : Pop) (cl j : Nat) (r : Neuron) : State :=
  ((s.setPhys (p.key cl j) r.word0).setPhys (p.key cl j + 8) r.word1).fillGrans [p.gran cl j]

/-- Clamp to 32 bits; the flag says whether it clamped (R324). -/
def satI32 (i : Int) : Int × Bool :=
  if i < -(2 ^ 31) then (-(2 ^ 31), true) else if 2 ^ 31 - 1 < i then (2 ^ 31 - 1, true) else (i, false)

/-- The leak, n times over; it ends early at a fixed point (R325). -/
def leak (k : Nat) : Nat → Int → Int
  | 0, v => v
  | n + 1, v => let u := v - v / (2 ^ k : Nat); if u = v then v else leak k n u

/-- catch_up of R325. -/
def Neuron.catchUp (r : Neuron) (k t : Nat) : Neuron :=
  let n := t - r.tl
  { r with v := if k = 0 then r.v else leak k n r.v, tl := max r.tl t, touch := true, dirty := true }

/-! ## Tick keystones (R328, R48) -/

/-- Fresh weight of an event, and the root weight of a tick. -/
def eventWeight : Nat := 2 ^ 20
def rootWeight : Word := 0x4000000000000000

/-- Change an event unit. -/
def State.modEvents (s : State) (cl : Nat) (f : EventUnit → EventUnit) : State :=
  s.modCluster cl (fun c => { c with events := f c.events })

/-- The event unit of a cluster. -/
def State.events (s : State) (cl : Nat) : EventUnit := (s.cluster cl).events

/-- Issued and returned of tick u. -/
def EventUnit.keyOf (e : EventUnit) (u : Nat) : Word × Word := (aget e.keys (u % 256)).getD (rootWeight, 0)

/-- Grant an event's weight from the keystone of tick u; none where even the rebase of R48 does not suffice. -/
def EventUnit.grant (e : EventUnit) (u : Nat) : Option EventUnit :=
  match keyGrant { issued := (e.keyOf u).1, returned := (e.keyOf u).2 } eventWeight with
  | none => none
  | some K => some { e with keys := aset e.keys (u % 256) (K.issued, K.returned) }

/-- Return weight to the keystone of tick u. -/
def EventUnit.giveBack (e : EventUnit) (u w : Nat) : EventUnit :=
  { e with keys := aset e.keys (u % 256) ((e.keyOf u).1, (e.keyOf u).2 + wordOfNat w) }

/-! ## Queues and cellar rings (R331, R371, R372, R398) -/

/-- Order of queued events: tick, then key. -/
def Ev.before (a b : Ev) : Bool := decide (a.tick < b.tick) || (a.tick == b.tick && decide (a.key.toNat < b.key.toNat))

/-- Insert an event in order. -/
def insertEv (e : Ev) : List Ev → List Ev
  | [] => [e]
  | x :: xs => if e.before x then e :: x :: xs else x :: insertEv e xs

/-- The 256-bit record of a spilled event. -/
def Ev.record (e : Ev) : List Word :=
  let n := e.pop * 2 ^ 116 + e.neu * 2 ^ 92 + e.pay.toNat * 2 ^ 60 + e.tick % 2 ^ 32 * 2 ^ 28 + e.wgt % 2 ^ 28
  [wordOfNat n, wordOfNat (n >>> 64), e.key, 0]

/-- The event of a record as it was read; where it is late, and where its record lay, the unit knows. -/
def Ev.ofRecord (e : Ev) (v : Nat) : Ev :=
  { e with pop := bits v 127 116, neu := bits v 115 92, pay := BitVec.ofNat 32 (bits v 91 60), tick := bits v 59 28, wgt := bits v 27 0, key := wordOfNat (bits v 191 128) }

/-- The queue and the spilled events of core q of the cluster. -/
def EventUnit.queueOf (e : EventUnit) (q : Nat) : List Ev := (aget e.queues q).getD []
def EventUnit.spillOf (e : EventUnit) (q : Nat) : List Ev := (aget e.spilled q).getD []

/-- The spilled events of core q. -/
def EventUnit.setSpill (e : EventUnit) (q : Nat) (l : List Ev) : EventUnit :=
  { e with spilled := if l.isEmpty then adel e.spilled q else aset e.spilled q l }

/-- Head count of the ring of core q. -/
def State.ringHead (s : State) (cl q : Nat) : Nat := s.ringFirst ((s.cluster cl).cellarDesc (1 + q))

/-- Spill an event: its record is written at the tail of the ring of core q, and it takes its place in order (R331). None where the
ring's page waits. -/
def State.spill (s : State) (cl q : Nat) (e : Ev) : Option State :=
  let desc := (s.cluster cl).cellarDesc (1 + q)
  let tail := (s.ringHead cl q + ((s.events cl).spillOf q).length) % 2 ^ 32
  (s.ringWrite cl (1 + q) (s.ringAddr desc tail 32) 256 (wordsNat e.record) 0).map (fun s =>
    (s.setPhys (desc + 24) (wordOfNat ((tail + 1) % 2 ^ 32))).modEvents cl (fun u => u.setSpill q (insertEv { e with place := tail } (u.spillOf q))))

/-- How taking a spilled event back comes out. -/
inductive Unspilled where
  | got (s : State) (e : Ev) (bad : Bool)
  | wait (s : State)

/-- Take a spilled event of core q off its ring. -/
def State.unspill (s : State) (cl q : Nat) (e : Ev) : Unspilled :=
  let head := s.ringHead cl q
  match s.ringTake cl (1 + q) e.place 32 with
  | .wait s => .wait s
  | .got s v bad =>
    .got (s.modEvents cl (fun u => u.setSpill q (((u.spillOf q).filter (fun x => x.place != e.place)).map (fun x => if x.place = head then { x with place := e.place } else x))))
      (e.ofRecord v) (bad != 0)

/-- May the ring of core q take one more record: below EQ, not full, its page mapped? -/
def State.ringTakes (s : State) (cl q : Nat) : Bool :=
  let desc := (s.cluster cl).cellarDesc (1 + q)
  let n := ((s.events cl).spillOf q).length
  let eq := (s.die (cl / 4)).eq.toNat
  !s.stopped desc && decide (n < 2 ^ Wbits (s.phys (desc + 8)) 4 0) && (eq == 0 || decide (n < eq)) &&
    s.ringMapped (s.ringAddr desc (s.ringHead cl q + n) 32) == some true

/-- A spill waits: it is noted, and an unmapped ring page is reported once (R372, R398). -/
def State.noteSpill (s : State) (cl q : Nat) : State :=
  let desc := (s.cluster cl).cellarDesc (1 + q)
  let a := s.ringAddr desc (s.ringHead cl q + ((s.events cl).spillOf q).length) 32
  let m := s.ringMapped a
  if (aget (s.events cl).spillWait q).isSome || m.isNone then s
  else
    let s := s.modEvents cl (fun e => { e with spillWait := aset e.spillWait q s.cycle })
    if m = some true then s else (s.logRec 0x0A 10 cl 0 a 0).notify cl

/-- Set a core's queue; it no longer waits to spill. -/
def State.setQueue (s : State) (cl q : Nat) (l : List Ev) : State :=
  s.modEvents cl (fun e => { e with queues := if l.isEmpty then adel e.queues q else aset e.queues q l, spillWait := adel e.spillWait q })

/-- Place an event in the queue of core q, spilling the greatest where it is full; none where the spill waits. A spill that goes
on ends a stall (R436). -/
def State.placeEv (s : State) (cl q : Nat) (e : Ev) : Option State :=
  let l := (s.events cl).queueOf q
  let sp := (s.events cl).spillOf q
  let ring (s : State) (x : Ev) : Option State :=
    if s.ringTakes cl q then
      (s.spill cl q x).map (fun s => s.modEvents cl (fun u => { u with spillWait := adel u.spillWait q, stalled := false }))
    else none
  match sp.head? with
  | some x =>
    if x.before e then ring s e
    else if l.length < 4096 then some (s.setQueue cl q (insertEv e l))
    else
      let l' := insertEv e l
      (ring s (l'.getLastD e)).map (fun s => s.setQueue cl q l'.dropLast)
  | none =>
    if l.length < 4096 then some (s.setQueue cl q (insertEv e l))
    else
      let l' := insertEv e l
      (ring s (l'.getLastD e)).map (fun s => s.setQueue cl q l'.dropLast)

/-! ## Failure of a domain (R437) -/

/-- A loaded population's id, and the agent that its fan-out, log and state are reached by (R67, R327). -/
def popId (cl slot : Nat) : Nat := cl % 16 * 256 + slot % 256
def popAgent (cl slot : Nat) (p : Pop) : Agent :=
  { engineAgent { p.rights with uid := 2 ^ 63 + popId cl slot, sid := p.stream.setWidth 64 } with wins := [1, 2], away := false, only := some cl }

/-- The agent that writes: the event unit reaches A to read only (R67). -/
def popWriter (cl slot : Nat) (p : Pop) : Agent := { popAgent cl slot p with wins := [2] }

/-- Fail a page-15 future, with its record. -/
def State.eventFail (s : State) (cl cx : Nat) (ident : BitVec 24) (h w : Word) : State := s.engFail cx 10 cl ident h w

/-- The completion word of a run (R336). -/
def Run.word (r : Run) (last : Nat) : Word :=
  wordOfNat (b2n r.sat * 2 ^ 63 + b2n r.den * 2 ^ 62 + b2n r.late * 2 ^ 61 + min r.fires (2 ^ 29 - 1) * 2 ^ 32 + last % 2 ^ 32)

/-- Are all the log writes and write-backs of the domain performed: the release of an ERUN or EDRAIN (R282, R333, R338)? -/
def State.domainSettled (s : State) (cl : Nat) : Bool :=
  !s.rstores.any (fun r => decide (2 ^ 63 + popId cl 0 ≤ r.uid) && decide (r.uid < 2 ^ 63 + popId cl 0 + 256))

/-- End a run: failed with its domain (R437), or with its word. -/
def State.closeRun (s : State) (cl : Nat) (r : Run) (last : Nat) : State :=
  if r.dead then s.eventFail cl r.cx r.ident r.handle (failureWord 0x5 0x40 r.pop) else s.resolve r.handle (r.word last) false

/-- Resolve the runs that a test picks. -/
def State.endRuns (s : State) (cl : Nat) (p : Run → Bool) (last : Run → Nat) : State :=
  let rs := (s.events cl).runs.filter p
  let s := s.modEvents cl (fun e => { e with runs := e.runs.filter (fun r => !p r) })
  rs.foldl (fun s r => s.closeRun cl r (last r)) s

/-- Has the run ended at this tick, or with its domain? -/
def Run.over (r : Run) (tick : Nat) : Bool := r.dead || decide (r.till < tick)

/-- Resolve the runs that are over, once the domain's writes are performed. -/
def State.endOver (s : State) (cl : Nat) : State :=
  if s.domainSettled cl then s.endRuns cl (fun r => r.over (s.events cl).tick) (fun r => r.till) else s

/-- The domain of a cluster fails: it holds, and its pending runs fail, once its writes are performed (R333, R437). -/
def State.failDomain (s : State) (cl pop : Nat) : State :=
  let s := ((s.logRec 0x2A 10 cl 0 0 (wordOfNat pop)).notify cl)
  (s.modEvents cl (fun e => { e with
    failed := true, unloads := e.unloads.map (fun u => { u with began := true })
    runs := e.runs.map (fun (r : Run) => if r.over e.tick then r else { r with dead := true }) })).endOver cl

/-! ## Making events (R323, R328, R330) -/

/-- How an event that is to be made comes out. -/
inductive Made where
  | ok (s : State)
  /-- the spill of core q waits -/
  | wait (q : Nat)
  /-- the grant overflows -/
  | spent

/-- Make an event for a loaded population: its weight is granted and it is queued. -/
def State.makeEv (s : State) (cl : Nat) (p : Pop) (e : Ev) : Made :=
  match (s.events cl).grant e.tick with
  | none => .spent
  | some u =>
    let q := p.core e.neu
    match (s.modEvents cl (fun _ => u)).placeEv cl q { e with wgt := eventWeight } with
    | some s => .ok s
    | none => .wait q

/-! ## Integration (R325, R326, R331) -/

/-- Does the domain work on its current tick? It holds there unless a pending run covers the tick (R329, R339), and a
population that is to unload does so first (R337). -/
def EventUnit.advances (e : EventUnit) : Bool :=
  e.runs.any (fun r => decide (e.tick ≤ r.till)) && !e.unloads.any (·.began) && !e.failed

/-- EVENT_INTEGRATE: the event at the head of the queue of core j of cluster i, if it is of the current tick and the domain
advances. -/
def execEventIntegrate (s : State) : Result :=
  s.event (fun x s =>
    let cl := x.i % 16
    let e := s.events cl
    match e.queueOf x.j with
    | [] => none
    | ev :: rest =>
      if ev.tick ≠ e.tick ∨ e.advances = false then none
      else
        let s := (s.setQueue cl x.j rest).modEvents cl (fun u =>
          { u.giveBack ev.tick ev.wgt with last := s.cycle, late := u.late || ev.late, stalled := false })
        match aget e.pops (ev.pop % 256) with
        | none => some s
        | some p =>
          if s.badNeuron p cl ev.neu then some s
          else
            let r := s.neuron p cl ev.neu
            let r := if r.touch then r else r.catchUp p.lk e.tick
            let (v, sat) := satI32 (r.v + sextN ev.pay.toNat 32)
            some ((s.putNeuron p cl ev.neu { r with v := v, dirty := true }).modEvents cl (fun u => { u with sat := u.sat || sat })))

/-- EVENT_CELLAR_REFILL: the least record of the ring of core j of cluster i goes to the queue. A poisoned record fails the
domain (R437). -/
def execEventCellarRefill (s : State) : Result :=
  s.event (fun x s =>
    let cl := x.i % 16
    match (s.events cl).spillOf x.j with
    | [] => none
    | e :: _ =>
      let l := (s.events cl).queueOf x.j
      if 4096 ≤ l.length ∨ (s.events cl).failed then none
      else match s.unspill cl x.j e with
        | .wait s => some s
        | .got t e false => some (t.setQueue cl x.j (insertEv e l))
        | .got _ _ true => some (s.failDomain cl e.pop))

/-! ## Fire evaluation (R327, R437) -/

/-- The fan-out of a neuron as it was read: entries with their index, and the addresses where a fault was absorbed. -/
structure Fan where
  entries : List (Nat × Nat) := []
  den : Bool := false
  hold : Bool := false
  absorbed : List Word := []

/-- Read entries of FOT from position i on. -/
def readEntries (ag : Agent) (fot : Word) (lo : Nat) : Nat → Nat → State → List Nat → Fan → State × List Nat × Fan
  | 0, _, s, seen, f => (s, seen, f)
  | n + 1, i, s, seen, f =>
    let a := fot + wordOfNat (64 * i)
    let (s, seen, r) := s.engRead ag 10 seen a 64
    let f := if r.hold then { f with hold := true }
      else if r.fault.isSome then { f with den := true, absorbed := f.absorbed ++ [a] }
      else if r.poison then f
      else { f with den := f.den || r.den, entries := f.entries ++ [((i - lo) % 2 ^ 27, s.engVal ag r.parts)] }
    readEntries ag fot lo n (i + 1) s seen f

/-- Read the fan-out of neuron j. -/
def readFan (ag : Agent) (p : Pop) (j : Nat) (s : State) (seen : List Nat) : State × List Nat × Fan :=
  let a := p.fox + wordOfNat (32 * j)
  let (s, seen, r) := s.engRead ag 10 seen a 64
  if r.hold then (s, seen, { hold := true })
  else if r.fault.isSome then (s, seen, { den := true, absorbed := [a] })
  else if r.poison then (s, seen, { den := r.den })
  else
    let v := s.engVal ag r.parts
    readEntries ag p.fot (v % 2 ^ 32) (v / 2 ^ 32 - v % 2 ^ 32) (v % 2 ^ 32) s seen { den := r.den }

/-- Does neuron j fire at the end of the tick? A poisoned record is skipped. -/
def State.fires (s : State) (p : Pop) (cl j : Nat) : Bool :=
  !s.badNeuron p cl j && (s.neuron p cl j).touch && decide ((s.neuron p cl j).theta ≤ (s.neuron p cl j).v)

/-- Ask for everything fire evaluation reads; the flag says that all of it is there. -/
def State.askFires (s : State) (cl : Nat) : State × List Nat × Bool :=
  let e := s.events cl
  e.pops.foldl (fun (acc : State × List Nat × Bool) (sp : Nat × Pop) =>
    let ag := popAgent cl sp.1 sp.2
    let js := (List.range sp.2.n).filter (fun j => acc.1.fires sp.2 cl j)
    let acc := js.foldl (fun (acc : State × List Nat × Bool) j =>
      let (s, seen, f) := readFan ag sp.2 j acc.1 acc.2.1
      (s, seen, acc.2.2 && !f.hold)) acc
    if sp.2.flb = 0 ∨ js.isEmpty then acc
    else
      let (s, seen, r) := acc.1.engRead ag 10 acc.2.1 sp.2.flb 64
      (s, seen, acc.2.2 && !r.hold)) (s, e.logged, true)

/-- What fire evaluation carries along. -/
structure Firing where
  s : State
  seen : List Nat := []
  den : Bool := false
  sat : Bool := false
  count : Nat := 0
  /-- the core whose spill waits, or a grant that overflowed -/
  wait : Option Nat := none
  spent : Bool := false
  /-- a log write waits for a page frame or a stack (R302, R384) -/
  hold : Bool := false

/-- A fault met by the event unit is absorbed: DEN, and a record with the handle of the run for which the tick ends, the earliest
issued of them (R437, R445, log 106). -/
def Firing.absorb (f : Firing) (cl : Nat) (ident : BitVec 24) (l : List Word) : Firing :=
  let h : Word := match (f.s.events cl).runs with
    | r :: _ => r.handle
    | [] => 0
  { f with den := f.den || !l.isEmpty, s := l.foldl (fun s a => s.logRec 0x35 10 cl ident a h) f.s }

/-- Write to the fire log. -/
def Firing.log (f : Firing) (cl slot : Nat) (p : Pop) (a : Word) (w v : Nat) (bad : Bool) : Firing :=
  match f.s.engWrite (popWriter cl slot p) 10 f.seen a w v (fun _ => bad) with
  | .done s n seen gs _ => { f with s := s.fillGrans gs, seen := seen, den := f.den || n != 0 }
  | .fault s _ => ({ f with s := s } : Firing).absorb cl p.rights.ident [a]
  | .hold s => { f with s := s, hold := true }

/-- One fan-out entry of a firing neuron with payload v. -/
def Firing.entry (f : Firing) (cl slot j t : Nat) (v : Int) (ie : Nat × Nat) : Firing :=
  let (i, e) := ie
  let dly := bits e 15 8
  match aget (f.s.events cl).pops (bits e 63 56) with
  | none => f
  | some q =>
    if dly = 0 ∨ q.n ≤ bits e 55 32 ∨ f.wait.isSome ∨ f.spent then f
    else
      let (pay, sat) := satI32 (v * sextN (bits e 31 16) 16 / 256)
      let ev : Ev :=
        { pop := popId cl (bits e 63 56), neu := bits e 55 32, pay := BitVec.ofInt 32 pay, tick := t + dly
          key := wordOfNat (popId cl slot * 2 ^ 51 + j * 2 ^ 27 + i) }
      match f.s.makeEv cl q ev with
      | .ok s => { f with s := s, sat := f.sat || sat }
      | .wait q => { f with wait := some q }
      | .spent => { f with spent := true }

/-- fire of R327 for one neuron; n is the log's count before it and `bad` its poison. -/
def Firing.neuron (f : Firing) (cl slot t : Nat) (p : Pop) (bad : Bool) (n : Nat × Nat) : Firing × Nat :=
  let (j, n) := n
  let r := f.s.neuron p cl j
  if f.s.badNeuron p cl j || !r.touch then (f, n)
  else if r.v < r.theta then ({ f with s := f.s.putNeuron p cl j { r with touch := false } }, n)
  else
    let v : Int := if p.rm = 2 then r.v else 0x10000
    let (u, sat) := if p.rm = 0 then satI32 (r.v - r.theta) else (0, false)
    let f := { f with s := f.s.putNeuron p cl j { r with v := u, touch := false }, sat := f.sat || sat, count := f.count + 1 }
    let f := if p.flb = 0 ∨ p.fln ≤ n then f
      else f.log cl slot p (p.flb + wordOfNat (128 * (n + 1))) 128 (t * 2 ^ 32 + j + code32 v * 2 ^ 64) bad
    let (s, seen, fan) := readFan (popAgent cl slot p) p j f.s f.seen
    let f := ({ f with s := s, seen := seen, den := f.den || fan.den } : Firing).absorb cl p.rights.ident fan.absorbed
    (fan.entries.foldl (fun f e => f.entry cl slot j t v e) f, n + 1)

/-- Fire evaluation of one population, neurons ascending; the count word of its log moves with each fire. -/
def Firing.pop (f : Firing) (cl t : Nat) (sp : Nat × Pop) : Firing :=
  let p := sp.2
  if !(List.range p.n).any (fun j => (f.s.neuron p cl j).touch) then f
  else
    let some0 := (List.range p.n).any (fun j => f.s.fires p cl j)
    let (f, n0, bad, logged) :=
      if p.flb = 0 ∨ !some0 then (f, 0, false, false)
      else
        let ag := popAgent cl sp.1 p
        let (s, seen, r) := f.s.engRead ag 10 f.seen p.flb 64
        if r.fault.isSome then (({ f with s := s } : Firing).absorb cl p.rights.ident [p.flb], 0, false, false)
        else ({ f with s := s, seen := seen, den := f.den || r.den }, s.engVal ag r.parts, r.poison, true)
    let (f, n) := (List.range p.n).foldl (fun (fn : Firing × Nat) j => fn.1.neuron cl sp.1 t p bad (j, fn.2)) (f, n0)
    if logged && n != n0 then f.log cl sp.1 p p.flb 64 (n % 2 ^ 64) bad else f

/-! ## Ticks (R329, R336, R337) -/

/-- Is the queue of some core full, with a spill that still waits? -/
def State.spillHeld (s : State) (cl : Nat) : Bool :=
  (s.events cl).spillWait.any (fun w => decide (4096 ≤ ((s.events cl).queueOf w.1).length) && !s.ringTakes cl w.1)

/-- T becomes T + 1: the flags of the tick go to the pending runs, the keystone of T + 256 enters the window, the root weight
of T + 1 returns, the runs that end at T resolve, and the tick boundary of the pending unloadings has come. -/
def State.nextTick (s : State) (cl : Nat) (f : Firing) : State :=
  let e := s.events cl
  let t := e.tick
  let mark (r : Run) : Run := if r.till < t then r else { r with sat := r.sat || e.sat || f.sat, den := r.den || e.den || f.den, late := r.late || e.late, fires := r.fires + f.count }
  let e : EventUnit := { e with
    tick := t + 1, keys := aset e.keys (t % 256) (rootWeight, 0), runs := e.runs.map mark, sat := false, den := false, late := false
    logged := [], last := if f.count = 0 then e.last else s.cycle, stalled := e.stalled && f.count == 0
    unloads := e.unloads.map (fun u => { u with began := true }) }
  let e := e.giveBack (t + 1) rootWeight.toNat
  (s.modEvents cl (fun _ => e)).endOver cl

/-- TICK_END in cluster i: the weight of the current tick has all returned and the domain advances; fire evaluation runs
whole, and T rises (R327, R329). A run that has ended and waits for the log's acknowledgements comes first. -/
def execTickEnd (s : State) : Result :=
  s.event (fun x s =>
    let cl := x.i % 16
    let e := s.events cl
    if e.runs.any (fun r => r.over e.tick) then some (s.endOver cl)
    else if e.pops.isEmpty || !e.advances || (e.keyOf e.tick).1 != (e.keyOf e.tick).2 || s.spillHeld cl then none
    else
      match s.askFires cl with
      | (s, seen, false) => some (s.modEvents cl (fun e => { e with logged := seen }))
      | (s, seen, true) =>
        let f := (s.events cl).pops.foldl (fun (f : Firing) sp => f.pop cl e.tick sp) { s := s, seen := seen }
        if f.hold then
          some (s.modCluster cl (fun c => { c with events := { c.events with logged := seen }, streams := { c.streams with cows := (f.s.cluster cl).streams.cows } }))
        else match f.wait with
        | some q => some ((s.modEvents cl (fun e => { e with logged := seen })).noteSpill cl q)
        | none =>
          if f.spent then some (f.s.failDomain cl ((e.pops.headD (0, {})).1 + cl * 256))
          else
            let s := e.pops.foldl (fun s sp => s.dropFwds (2 ^ 63 + popId cl sp.1)) f.s
            some (s.nextTick cl f))

/-! ## Unloading (R332, R337, R436) -/

/-- Take the spilled events of a population off the ring of core q, at most n, returning their weight; how many, and whether that
ended. -/
def discardRing (cl q slot : Nat) : Nat → State → State × Nat × Bool
  | 0, s => (s, 0, true)
  | n + 1, s =>
    match ((s.events cl).spillOf q).find? (fun e => e.pop % 256 == slot) with
    | none => (s, 0, true)
    | some e =>
      match s.unspill cl q e with
      | .wait s => (s, 0, false)
      | .got s _ _ =>
        let (s, k, ok) := discardRing cl q slot n (s.modEvents cl (fun u => u.giveBack e.tick e.wgt))
        (s, k + 1, ok)

/-- Discard the queued and spilled events of a population, returning their weight; how many there were, and whether all are gone: a
ring's page may wait. -/
def State.discard (s : State) (cl slot : Nat) : State × Nat × Bool :=
  let mine (e : Ev) : Bool := e.pop % 256 == slot
  let gone := (s.events cl).queues.flatMap (fun q => q.2.filter mine)
  let s := s.modEvents cl (fun e =>
    gone.foldl (fun e v => e.giveBack v.tick v.wgt) { e with queues := (e.queues.map (fun (q : Nat × List Ev) => (q.1, q.2.filter (fun v => !mine v)))).filter (fun q => !q.2.isEmpty) })
  (s.events cl).spilled.foldl (fun (acc : State × Nat × Bool) q =>
    let (s, k, ok) := discardRing cl q.1 slot q.2.length acc.1
    (s, acc.2.1 + k, acc.2.2 && ok)) (s, gone.length, true)

/-- How write-back stands: the next record, how many are written, the pages logged, and whether it waits. -/
structure Back where
  s : State
  next : Nat
  wrote : Nat
  seen : List Nat
  hold : Bool := false

/-- Write back one record, if it is dirty; its poison moves with it (R332, R437). -/
def Back.one (b : Back) (cl slot : Nat) (p : Pop) (h : Word) (j : Nat) : Back :=
  if b.hold then b
  else
    let k := p.key cl j
    if !(b.s.neuron p cl j).dirty then { b with next := j + 1 }
    else
      let v := (b.s.phys k).toNat + (b.s.phys (k + 8)).toNat * 2 ^ 64
      let a := 0x4000000000000000 + p.soff + wordOfNat (128 * j)
      let bad (q : Part) : Bool := b.s.poisoned (if q.pos < 64 then k else k + 8)
      match b.s.engWrite (popWriter cl slot p) 10 b.seen a 128 v bad with
      | .hold s => { b with s := s, hold := true }
      | .fault s _ => { b with s := s.logRec 0x35 10 cl p.rights.ident a h, next := j + 1 }
      | .done s n seen _ _ => { b with s := s, next := j + 1, seen := seen, wrote := b.wrote + (if n = 0 then 1 else 0) }

/-- The slot is freed; with the last population the domain is empty, its pending runs resolve and T is 0 again (R322, R336). -/
def State.freePop (s : State) (cl slot : Nat) : State :=
  let s := s.endOver cl
  let s := s.modEvents cl (fun e => { e with pops := adel e.pops slot, unloads := e.unloads.filter (fun u => u.slot != slot), stalled := false, spillWait := [] })
  let e := s.events cl
  if e.pops.isEmpty then
    let s := s.endRuns cl (fun _ => true) (fun _ => if e.tick = 0 then 2 ^ 32 - 1 else e.tick - 1)
    s.modEvents cl (fun e => { e with tick := 0, keys := [], failed := false, sat := false, den := false, late := false, logged := [] })
  else s

/-- Go on with an unloading whose tick boundary has come: discard, write back, free, resolve, once the domain's writes are
performed. -/
def State.unload (s : State) (cl : Nat) (u : Unload) : State :=
  if !s.domainSettled cl then s else
  match aget (s.events cl).pops u.slot with
  | none => s.modEvents cl (fun e => { e with unloads := e.unloads.filter (fun v => v.slot != u.slot) })
  | some p =>
    match s.discard cl u.slot with
    | (s, n, false) => s.modEvents cl (fun e => { e with unloads := e.unloads.map (fun v => if v.slot = u.slot then { v with gone := v.gone + n } else v) })
    | (s, n, true) =>
    let live := p.str && ((s.cluster cl).streams.find p.stream).isSome
    let b : Back := { s := s, next := u.next, wrote := u.wrote, seen := u.logged }
    let b := if live then ((List.range p.n).drop u.next).foldl (fun b j => b.one cl u.slot p (u.handles.headD 0) j) b else b
    if b.hold then
      b.s.modEvents cl (fun e => { e with unloads := e.unloads.map (fun v =>
        if v.slot = u.slot then { v with next := b.next, wrote := b.wrote, gone := v.gone + n, logged := b.seen } else v) })
    else
      let word := wordOfNat (b.wrote * 2 ^ 32 + (u.gone + n))
      u.handles.foldl (fun s h => s.resolve h word false) (b.s.freePop cl u.slot)

/-- Ask for the unloading of a slot, for a future or none; one that is pending already is joined. With no run under way, or on
a stalled or failed domain, its boundary has come. -/
def State.askUnload (s : State) (cl slot : Nat) (h : Option Word) : State :=
  let hs := h.toList
  s.modEvents cl (fun e =>
    if e.unloads.any (fun u => u.slot == slot) then
      { e with unloads := e.unloads.map (fun u => if u.slot = slot then { u with handles := u.handles ++ hs } else u) }
    else { e with unloads := e.unloads ++ [{ slot := slot, handles := hs, began := e.runs.all (fun r => r.over e.tick) || e.stalled || e.failed }] })

/-- Slots of the populations bound to a stream in a cluster's event unit (R332). -/
def EventUnit.boundTo (e : EventUnit) (id : BitVec 32) : List Nat :=
  (e.pops.filter (fun p => p.2.stream == id && id != 0)).map (·.1)

/-- DOMAIN_STALL in cluster i: no integration and no fire for 2^20 cycles while a spill waits (R436). -/
def execDomainStall (s : State) : Result :=
  s.event (fun x s =>
    let cl := x.i % 16
    let e := s.events cl
    let since := max e.last (e.spillWait.foldl (fun m w => min m w.2) s.cycle)
    if e.spillWait.isEmpty || e.stalled || e.pops.isEmpty || decide (s.cycle < since + 2 ^ 20) then none
    else
      let pop := popId cl (e.pops.headD (0, {})).1
      some ((((s.logRec 0x29 10 cl 0 0 (wordOfNat pop)).notify cl)).modEvents cl (fun e =>
        { e with stalled := true, unloads := e.unloads.map (fun u => { u with began := true }) })))

/-! ## Page 15: issue (R333, R369) -/

/-- Issue of a page-15 instruction to the event unit of cluster t. -/
def State.eventIssue (s : State) (c : Cur) (o : Ops) (t : Nat) (op : EngOp) : Res :=
  s.engIssue c o.d 0x5 [] (decide ((s.events t).queue.length < 64)) queueEvent
    (fun h s => s.modEvents t (fun e => { e with queue := e.queue ++ [{ op with handle := h, rights := s.rightsOf c.cx }] }))

/-- Count events posted by a context (R323). -/
def State.countPosts (s : State) (cx n : Nat) : State :=
  { s with posts := aset s.posts cx (((aget s.posts cx).getD 0 + n) % 2 ^ 50) }

/-- Issue of a post of n events: the context's count moves when it issues. -/
def State.postIssue (s : State) (c : Cur) (o : Ops) (t n : Nat) (op : EngOp) : Res :=
  match s.eventIssue c o t { op with posts := (aget s.posts c.cx).getD 0 } with
  | .done s tgt b => .done (s.countPosts c.cx n) tgt b
  | r => r

/-- EPOPL (R333, R334): to the event unit that its population id names. -/
def execEpopl (o : Ops) (s : State) : Result :=
  s.run coreOnly (srcAB o) (fun c s =>
    let x := s.me c
    s.eventIssue c o (Wbits (x.readS o.a) 11 8) { op := 0, a := x.readS o.a, b := x.readS o.b })

/-- EPOST (R335). -/
def execEpost (o : Ops) (s : State) : Result :=
  s.run coreOnly (srcAB o) (fun c s =>
    let x := s.me c
    s.postIssue c o (Wbits (x.readS o.a) 63 60) 1 { op := 1, a := x.readS o.a, b := x.readS o.b })

/-- Lanes that EPOSTV posts or refuses (R335). -/
def postLanes (a : Word) : Nat := min 64 (Wbits a 38 32)

/-- EPOSTV (R335). -/
def execEpostv (o : Ops) (s : State) : Result :=
  s.run coreOnly (srcA o) (fun c s =>
    let x := s.me c
    let a := x.readS o.a
    s.postIssue c o (Wbits a 63 60) (postLanes a) { op := 2, a := a, vec := x.readV o.b })

/-- ERUN (R336). -/
def execErun (o : Ops) (s : State) : Result :=
  s.run coreOnly (srcAB o) (fun c s =>
    let x := s.me c
    s.eventIssue c o (Wbits (x.readS o.a) 11 8) { op := 3, a := x.readS o.a, b := x.readS o.b })

/-- ETICK (R333). -/
def execEtick (o : Ops) (s : State) : Result :=
  s.run coreOnly (srcA o) (fun c s =>
    let a := (s.me c).readS o.a
    s.eventIssue c o (Wbits a 11 8) { op := 4, a := a })

/-- EDRAIN (R337). -/
def execEdrain (o : Ops) (s : State) : Result :=
  s.run coreOnly (srcA o) (fun c s =>
    let a := (s.me c).readS o.a
    s.eventIssue c o (Wbits a 11 8) { op := 5, a := a })

/-! ## Page 15: at the event unit -/

/-- Take an operation off the queue of an event unit. -/
def State.endEvent (s : State) (cl : Nat) (op : EngOp) : State :=
  s.modEvents cl (fun e => { e with queue := e.queue.filter (fun q => q.handle != op.handle) })

/-- Complete an operation. -/
def State.eventDone (s : State) (cl : Nat) (op : EngOp) (v : Word) : State :=
  ((s.endEvent cl op).dropFwds op.handle.toNat).resolve op.handle v false

/-- Fail an operation. -/
def State.eventRefuse (s : State) (cl : Nat) (op : EngOp) (w : Word) : State :=
  ((s.endEvent cl op).dropFwds op.handle.toNat).eventFail cl op.rights.cx op.rights.ident op.handle w

/-- What EPOPL checks out: the words of every record (R332). -/
inductive Checkout where
  | ok (s : State) (ws : List (Word × Word)) (seen : List Nat) (den : Bool)
  | hold (s : State)
  | fail (s : State) (w : Word)

/-- Read the records of a bound population from its stream. -/
def checkout (ag : Agent) (soff : Word) : Nat → Nat → State → List (Word × Word) → List Nat → Bool → Checkout
  | 0, _, s, ws, seen, den => .ok s ws.reverse seen den
  | n + 1, j, s, ws, seen, den =>
    let a := 0x4000000000000000 + soff + wordOfNat (128 * j)
    let (s, seen, r) := s.engRead ag 10 seen a 128
    if r.hold then .hold s
    else match r.fault with
      | some t => .fail s (faultWord 0x5 1 t)
      | none =>
        if r.poison then .fail s (failureWord 0x5 0x11 j)
        else
          let v := s.engVal ag r.parts
          checkout ag soff n (j + 1) s ((wordOfNat v, wordOfNat (v >>> 64)) :: ws) seen (den || r.den)

/-- The records of a population that is being loaded (R334). -/
def State.fillPop (s : State) (cl t : Nat) (p : Pop) (ws : List (Word × Word)) : State :=
  let one (s : State) (j : Nat) : State :=
    let k := p.key cl j
    if p.str then
      let w := ws.getD j (0, 0)
      ((s.setPhys k w.1).setPhys (k + 8) (w.2 &&& ~~~(0x200000000 : Word))).fillGrans [p.gran cl j]
    else if p.init then s.putNeuron p cl j { theta := sextN p.theta 32, tl := t }
    else if s.badNeuron p cl j then s
    else (s.setPhys (k + 8) (s.phys (k + 8) &&& ~~~(0x100000000 : Word))).fillGrans [p.gran cl j]
  (List.range p.n).foldl one s

/-- Every tick keystone of an empty domain that loads its first population: T = 0 is current (R328). -/
def firstKeys : Assoc (Word × Word) := (List.range 256).map (fun u => (u, (rootWeight, if u = 0 then rootWeight else 0)))

/-- Load a slot. -/
def State.loadPop (s : State) (cl slot : Nat) (p : Pop) (ws : List (Word × Word)) (den : Bool) : State :=
  let s := s.modEvents cl (fun e => if e.pops.isEmpty then { e with tick := 0, keys := firstKeys } else e)
  let s := s.fillPop cl (s.events cl).tick p ws
  s.modEvents cl (fun e => { e with pops := aset e.pops slot p, den := e.den || den })

/-- EPOPL at the event unit. -/
def State.epopl (s : State) (cl : Nat) (op : EngOp) : State :=
  let slot := Wbits op.a 7 0
  let e := s.events cl
  if (aget e.pops slot).isSome ∨ clusterOf op.rights.cx ≠ cl ∨ e.failed then s.eventDone cl op 1
  else
    let ag : Agent := { opAgent op.rights op.handle with wins := [1, 2], away := false, only := some cl }
    let (s, seen, r) := s.engRead ag 10 [] op.b 512
    if r.hold then s
    else match r.fault with
      | some t => s.eventRefuse cl op (faultWord 0x5 0 t)
      | none =>
        if r.poison then s.eventRefuse cl op (failureWord 0x5 0x11 0)
        else
          let v := s.engVal ag r.parts
          let p : Pop := { words := (List.range 8).map (fun i => wordOfNat (v >>> (64 * i))), rights := op.rights }
          let sid : BitVec 32 := op.rights.sid.setWidth 32
          if Wbits op.b 5 0 ≠ 0 ∨ r.den ∨ !p.valid ∨ e.pops.any (fun q => p.overlaps q.2) then s.eventDone cl op 2
          else if !p.str then (s.loadPop cl slot p [] false).eventDone cl op 0
          else if ((s.cluster cl).streams.find sid).isNone then s.eventDone cl op 3
          else match checkout ag p.soff p.n 0 s [] seen false with
            | .hold s => s
            | .fail s w => s.eventRefuse cl op w
            | .ok s ws _ den => (s.loadPop cl slot { p with stream := sid } ws den).eventDone cl op 0

/-- How a post comes out: its status (R330), or a spill that waits, or a domain that fails. -/
inductive Posted where
  | done (s : State) (status : Nat)
  | wait (s : State)
  | failed (s : State)

/-- Post one event (R330). -/
def State.post (s : State) (cl pop neu : Nat) (pay : BitVec 32) (u cx count : Nat) : Posted :=
  let e := s.events cl
  match aget e.pops (pop % 256) with
  | none => .done s 2
  | some p =>
    if e.failed ∨ p.n ≤ neu then .done s 2
    else if e.tick + 255 < u then .done s 3
    else
      let late := decide (u < e.tick)
      let ev : Ev :=
        { pop := pop, neu := neu, pay := pay, tick := if late then e.tick else u, late := late
          key := wordOfNat (2 ^ 63 + cx % 8192 * 2 ^ 50 + count % 2 ^ 50) }
      match s.makeEv cl p ev with
      | .ok s => .done s (b2n late)
      | .wait q => .wait (s.noteSpill cl q)
      | .spent => .failed (s.failDomain cl pop)

/-- EPOST at the event unit. -/
def State.epost (s : State) (cl : Nat) (op : EngOp) : State :=
  match s.post cl (Wbits op.a 63 52) (Wbits op.a 51 28) (op.b.extractLsb' 32 32) (Wbits op.b 31 0) op.rights.cx op.posts with
  | .done s n => s.eventDone cl op (wordOfNat n)
  | .wait s => s
  | .failed s => s.eventDone cl op 2

/-- EPOSTV's lanes from the next one on (R335). -/
def postLanesFrom (cl : Nat) : Nat → EngOp → State → State × EngOp
  | 0, op, s => (s, op)
  | n + 1, op, s =>
    let lane : Word := op.vec.extractLsb' (64 * op.lane) 64
    match s.post cl (Wbits op.a 63 52) (Wbits lane 23 0) (lane.extractLsb' 32 32) (Wbits op.a 31 0) op.rights.cx (op.posts + op.lane) with
    | .wait s => (s, op)
    | .failed s => postLanesFrom cl n { op with lane := op.lane + 1, refused := op.refused + 1 } s
    | .done s st =>
      postLanesFrom cl n { op with
        lane := op.lane + 1, took := op.took + (if st = 0 then 1 else 0), late := op.late + (if st = 1 then 1 else 0)
        refused := op.refused + (if 2 ≤ st then 1 else 0) } s

/-- EPOSTV at the event unit: [22:16] refused, [14:8] late, [6:0] accepted. -/
def State.epostv (s : State) (cl : Nat) (op : EngOp) : State :=
  let n := Wbits op.a 38 32
  if 64 < n then s.eventDone cl op (wordOfNat (64 * 2 ^ 16))
  else
    let (s, op') := postLanesFrom cl (n - op.lane) op s
    if op'.lane = n then s.eventDone cl op (wordOfNat (op'.refused * 2 ^ 16 + op'.late * 2 ^ 8 + op'.took))
    else s.modEvents cl (fun e => { e with queue := e.queue.map (fun q => if q.handle = op.handle then op' else q) })

/-- ERUN at the event unit. -/
def State.erun (s : State) (cl : Nat) (op : EngOp) : State :=
  let e := s.events cl
  let pop := Wbits op.a 11 0
  let till := Wbits op.b 31 0
  if e.failed then s.eventRefuse cl op (failureWord 0x5 0x40 pop)
  else if (aget e.pops (pop % 256)).isNone ∨ 2 ^ 32 - 256 ≤ till then s.eventDone cl op nl
  else if till < e.tick then s.eventDone cl op (wordOfNat till)
  else
    let r : Run := { handle := op.handle, cx := op.rights.cx, ident := op.rights.ident, pop := pop, till := till }
    (s.endEvent cl op).modEvents cl (fun e => { e with runs := e.runs ++ [r] })

/-- ETICK at the event unit. -/
def State.etick (s : State) (cl : Nat) (op : EngOp) : State :=
  let e := s.events cl
  if (aget e.pops (Wbits op.a 7 0)).isNone then s.eventDone cl op nl
  else s.eventDone cl op (wordOfNat (e.pops.length * 2 ^ 40 + b2n (!e.runs.isEmpty) * 2 ^ 32 + e.tick % 2 ^ 32))

/-- EDRAIN at the event unit. -/
def State.edrain (s : State) (cl : Nat) (op : EngOp) : State :=
  let slot := Wbits op.a 7 0
  if (aget (s.events cl).pops slot).isNone then s.eventDone cl op nl
  else (s.endEvent cl op).askUnload cl slot (some op.handle)

/-- What the event unit does with an operation. -/
def State.eventOp (s : State) (cl : Nat) (op : EngOp) : State :=
  match op.op with
  | 0 => s.epopl cl op
  | 1 => s.epost cl op
  | 2 => s.epostv cl op
  | 3 => s.erun cl op
  | 4 => s.etick cl op
  | _ => s.edrain cl op

/-- May an operation be performed now: it is the first of its unit's queue that a drained cluster does not hold off, for
operations are taken in issue order (R333, R369), and a drained cluster takes none from others (R383). On a stalled domain an
EDRAIN acts at once, behind no operation but its own context's (R436, log 89). -/
def State.eventTurn (s : State) (cl : Nat) (op : EngOp) : Bool :=
  let C := s.cluster cl
  match C.events.queue.find? (fun q => !(C.drained && clusterOf q.rights.cx != cl) &&
      !(op.op == 5 && C.events.stalled && q.rights.cx != op.rights.cx)) with
  | some q => q.handle == op.handle
  | none => false

/-- EVENT_OP_RESOLVE in cluster i of the operation with handle w; or, with k = 1, of an unloading of slot j whose tick
boundary has come (R333, R337). -/
def execEventOpResolve (s : State) : Result :=
  s.event (fun x s =>
    let cl := x.i % 16
    if x.k = 1 then
      match (s.events cl).unloads.find? (fun u => u.slot == x.j && u.began) with
      | none => none
      | some u => some (s.unload cl u)
    else
      match (s.events cl).queue.find? (fun op => op.handle == x.w) with
      | none => none
      | some op => if s.eventTurn cl op then some (s.eventOp cl op) else none)

end Sys2Proof.Machine
end

