-- ==== Sys2Proof/Machine/Flags.lean ====
section
/-!
DEFINITION. The sticky flags of fcsr (R140) and how rounding, range and invalid operations raise them (R129, R130, R134 to
R138).
-/

namespace Sys2Proof.Machine

/-- The flag bits of fcsr [5:0] (R140). -/
abbrev Flags := BitVec 6

def flagNX : Flags := 1
def flagUF : Flags := 2
def flagOF : Flags := 4
def flagDZ : Flags := 8
def flagNV : Flags := 16
def flagQUF : Flags := 32

/-- A flag that is raised when the condition holds. -/
def Flags.when (f : Flags) (b : Bool) : Flags := if b then f else 0

/-- Rounding modes of PV.m [1:0] (R134). -/
inductive Mode where
  | rne | rtz | rdn | rup
  deriving DecidableEq, Repr, Inhabited

/-- The mode a two-bit field names. -/
def modeOf : Nat → Mode
  | 0 => .rne | 1 => .rtz | 2 => .rdn | _ => .rup

/-- m / 2^s rounded in a mode, for a number whose sign is given; whether it is inexact (R134). -/
def roundShift (mode : Mode) (neg : Bool) (m s : Nat) : Nat × Bool :=
  let q := m / 2 ^ s
  let r := m % 2 ^ s
  let up := match mode with
    | .rne => decide (2 ^ s < 2 * r) || (decide (2 ^ s = 2 * r) && q % 2 == 1)
    | .rtz => false
    | .rdn => neg && r != 0
    | .rup => !neg && r != 0
  (if up then q + 1 else q, r != 0)

/-- Range of a type of w bits, signed or not (R128). -/
def intLo (signed : Bool) (w : Nat) : Int := if signed then -(2 ^ (w - 1) : Nat) else 0
def intHi (signed : Bool) (w : Nat) : Int := if signed then (2 ^ (w - 1) : Nat) - 1 else (2 ^ w : Nat) - 1

/-- An exact integer as a code of w bits: wrapping, or clamped under SAT with OF (R129). -/
def intCode (signed sat : Bool) (w : Nat) (v : Int) : Nat × Flags :=
  let c := if sat then max (intLo signed w) (min (intHi signed w) v) else v
  ((c % (2 ^ w : Nat)).toNat, flagOF.when (c != v))

/-- The value of a code of w bits (R128). -/
def intVal (signed : Bool) (w c : Nat) : Int := if signed then sextN c w else (c % 2 ^ w : Nat)

/-- Quotient of R130: truncated, all ones and DZ for a zero divisor. The exact quotient is clamped or wrapped after. -/
def intDiv (signed sat : Bool) (w x y : Nat) : Nat × Flags :=
  if y % 2 ^ w = 0 then (2 ^ w - 1, flagDZ) else intCode signed sat w (Int.tdiv (intVal signed w x) (intVal signed w y))

/-- Remainder of R130. -/
def intRem (signed : Bool) (w x y : Nat) : Nat × Flags :=
  if y % 2 ^ w = 0 then (x % 2 ^ w, flagDZ)
  else (((Int.tmod (intVal signed w x) (intVal signed w y)) % (2 ^ w : Nat)).toNat, 0)

end Sys2Proof.Machine
end

