-- ==== Sys2Proof/Machine/Numbers.lean ====
section
/-!
DEFINITION. Floating formats and their exact arithmetic (R131 to R139), exp2 (R150), q4 blocks and quantisation (R141 to
R143), and the accumulation of matrix work (R144 to R148).
-/

namespace Sys2Proof.Machine

/-! ## Formats (R131) -/

/-- Which special codes a format has. -/
inductive Special where
  /-- infinities and NaN -/
  | ieee
  /-- NaN at the top magnitude only (e4m3) -/
  | nanOnly
  | none
  deriving DecidableEq, Repr

/-- A floating format. -/
structure Fmt where
  width : Nat
  mb : Nat
  bias : Nat
  special : Special
  deriving DecidableEq, Repr

def fF32 : Fmt := ⟨32, 23, 127, .ieee⟩
def fBF16 : Fmt := ⟨16, 7, 127, .ieee⟩
def fF16 : Fmt := ⟨16, 10, 15, .ieee⟩
def fE5M2 : Fmt := ⟨8, 2, 15, .ieee⟩
def fE4M3 : Fmt := ⟨8, 3, 7, .nanOnly⟩
def fE3M2 : Fmt := ⟨6, 2, 3, .none⟩
def fE2M3 : Fmt := ⟨6, 3, 1, .none⟩

/-- Sign bit of a code. -/
def Fmt.signBit (f : Fmt) : Nat := 2 ^ (f.width - 1)

/-- Magnitude code of infinity for an IEEE format: all ones in the exponent. -/
def Fmt.infMag (f : Fmt) : Nat := f.signBit - 2 ^ f.mb

/-- Largest finite magnitude code. -/
def Fmt.maxMag (f : Fmt) : Nat :=
  match f.special with
  | .ieee => f.infMag - 1
  | .nanOnly => f.signBit - 2
  | .none => f.signBit - 1

/-- Canonical NaN (R133); a format without one delivers +0 (R135). -/
def Fmt.nan (f : Fmt) : Nat :=
  match f.special with
  | .ieee => f.infMag + 2 ^ (f.mb - 1)
  | .nanOnly => f.signBit - 1
  | .none => 0

/-- A number as read: NaN, an infinity, or (−1)^neg × m × 2^e exactly. -/
inductive Fv where
  | nan
  | inf (neg : Bool)
  | fin (neg : Bool) (m : Nat) (e : Int)
  deriving DecidableEq, Repr, Inhabited

/-- Read a code; with FZI a subnormal reads as zero of its sign (R131, R136). -/
def Fmt.read (f : Fmt) (fzi : Bool) (c : Nat) : Fv :=
  let c := c % 2 ^ f.width
  let neg := decide (f.signBit ≤ c)
  let mag := c % f.signBit
  let ex := mag / 2 ^ f.mb
  let man := mag % 2 ^ f.mb
  if f.special = .ieee ∧ f.infMag ≤ mag then (if man = 0 then .inf neg else .nan)
  else if f.special = .nanOnly ∧ mag = f.signBit - 1 then .nan
  else if ex = 0 then .fin neg (if fzi then 0 else man) (1 - (f.bias : Int) - f.mb)
  else .fin neg (2 ^ f.mb + man) ((ex : Int) - f.bias - f.mb)

/-- Rounding controls: mode, SAT, FZO (R134 to R136). -/
structure Ctl where
  mode : Mode := .rne
  sat : Bool := false
  fzo : Bool := false
  fzi : Bool := false
  deriving DecidableEq, Repr, Inhabited

/-- A code with the sign given. -/
def Fmt.signed (f : Fmt) (neg : Bool) (mag : Nat) : Nat := if neg then f.signBit + mag else mag

/-- The result of an overflow (R135). -/
def Fmt.overflow (f : Fmt) (k : Ctl) (neg : Bool) : Nat :=
  let away := match k.mode with
    | .rne => true
    | .rtz => false
    | .rdn => neg
    | .rup => !neg
  if k.sat || !away then f.signed neg f.maxMag
  else match f.special with
    | .ieee => f.signed neg f.infMag
    | .nanOnly => f.nan
    | .none => f.signed neg f.maxMag

/-- An exact infinity delivered in a format (R135). -/
def Fmt.giveInf (f : Fmt) (k : Ctl) (neg : Bool) : Nat × Flags :=
  match f.special with
  | .ieee => (f.signed neg f.infMag, 0)
  | .nanOnly => (if k.sat then f.signed neg f.maxMag else f.nan, flagOF)
  | .none => (f.signed neg f.maxMag, flagOF)

/-- A NaN delivered in a format: canonical; the 6-bit formats give +0 with NV (R133, R135). -/
def Fmt.giveNan (f : Fmt) : Nat × Flags := (f.nan, flagNV.when (f.special == .none))

/-- Round the exact real (−1)^neg × m × 2^e to a format (R134 to R136). -/
def Fmt.round (f : Fmt) (k : Ctl) (neg : Bool) (m : Nat) (e : Int) : Nat × Flags :=
  if m = 0 then (f.signed neg 0, 0)
  else
    let top : Int := e + Nat.log2 m
    let least : Int := 1 - f.bias
    let tiny := decide (top < least)
    let q : Int := (if tiny then least else top) - f.mb
    let (r, inexact) := if q ≤ e then (m * 2 ^ (e - q).toNat, false) else roundShift k.mode neg m (q - e).toNat
    let mag := ((q + f.mb + f.bias - 1).toNat) * 2 ^ f.mb + r
    if tiny && k.fzo then (f.signed neg 0, flagUF ||| flagNX)
    else if f.maxMag < mag then (f.overflow k neg, flagOF ||| flagNX)
    else (f.signed neg mag, flagNX.when inexact ||| flagUF.when (tiny && inexact))

/-- Deliver a number in a format. -/
def Fmt.give (f : Fmt) (k : Ctl) : Fv → Nat × Flags
  | .nan => f.giveNan
  | .inf n => f.giveInf k n
  | .fin n m e => f.round k n m e

/-- Convert between formats (R135, R137). -/
def convert (src dst : Fmt) (k : Ctl) (c : Nat) : Nat × Flags := dst.give k (src.read k.fzi c)

/-! ## Arithmetic (R134, R138, R139, R149) -/

/-- The signed integer of a finite number in units of 2^u, for u at most its exponent. -/
def finInt (neg : Bool) (m : Nat) (e u : Int) : Int :=
  let v : Int := (m * 2 ^ (e - u).toNat : Nat)
  if neg then -v else v

/-- A signed integer in units of 2^u as a number, with the sign that an exact zero takes. -/
def ofFinInt (zero : Bool) (v u : Int) : Fv :=
  if v = 0 then .fin zero 0 0 else .fin (decide (v < 0)) v.natAbs u

/-- The sign of an exact zero sum (R139). -/
def zeroSign (mode : Mode) (x y : Bool) : Bool := if x = y then x else mode == .rdn

/-- Exact sum; a sum of opposite infinities is invalid. -/
def Fv.add (mode : Mode) : Fv → Fv → Fv × Flags
  | .nan, _ => (.nan, 0)
  | _, .nan => (.nan, 0)
  | .inf a, .inf b => if a = b then (.inf a, 0) else (.nan, flagNV)
  | .inf a, .fin .. => (.inf a, 0)
  | .fin .., .inf b => (.inf b, 0)
  | .fin a m e, .fin b n g =>
    let u := min e g
    let both := m == 0 && n == 0
    (ofFinInt (if both then zeroSign mode a b else mode == .rdn) (finInt a m e u + finInt b n g u) u, 0)

/-- The negated number. -/
def Fv.neg : Fv → Fv
  | .nan => .nan
  | .inf a => .inf (!a)
  | .fin a m e => .fin (!a) m e

/-- Exact product; zero times infinity is invalid. -/
def Fv.mul : Fv → Fv → Fv × Flags
  | .nan, _ => (.nan, 0)
  | _, .nan => (.nan, 0)
  | .inf a, .inf b => (.inf (a != b), 0)
  | .inf a, .fin b m _ => if m = 0 then (.nan, flagNV) else (.inf (a != b), 0)
  | .fin a m _, .inf b => if m = 0 then (.nan, flagNV) else (.inf (a != b), 0)
  | .fin a m e, .fin b n g => (.fin (a != b) (m * n) (e + g), 0)

/-- Fused multiply-add: the exact a × b + c. A product of zero and infinity is invalid whatever the addend (R138). -/
def Fv.fma (mode : Mode) (a b c : Fv) : Fv × Flags :=
  let (p, f) := a.mul b
  if f ≠ 0 then (.nan, f)
  else match c with
    | .nan => (.nan, 0)
    | _ => p.add mode c

/-- Quotient, exact or with a last bit that stands for the rest, precise enough for one rounding to any format. -/
def Fv.div : Fv → Fv → Fv × Flags
  | .nan, _ => (.nan, 0)
  | _, .nan => (.nan, 0)
  | .inf _, .inf _ => (.nan, flagNV)
  | .inf a, .fin b _ _ => (.inf (a != b), 0)
  | .fin a _ _, .inf b => (.fin (a != b) 0 0, 0)
  | .fin a m e, .fin b n g =>
    if n = 0 then (if m = 0 then (.nan, flagNV) else (.inf (a != b), flagDZ))
    else if m = 0 then (.fin (a != b) 0 0, 0)
    else
      let k := 64 + Nat.log2 n
      let q := m * 2 ^ k / n
      let r := m * 2 ^ k % n
      (.fin (a != b) (2 * q + (if r = 0 then 0 else 1)) (e - g - k - 1), 0)

/-- Compare two numbers that are not NaN: is the first below the second? Zeros are equal. -/
def Fv.lt : Fv → Fv → Bool
  | .inf a, .inf b => a && !b
  | .inf a, _ => a
  | _, .inf b => !b
  | .fin a m e, .fin b n g => let u := min e g; decide (finInt a m e u < finInt b n g u)
  | _, _ => false

/-- Equality of two numbers that are not NaN. -/
def Fv.same : Fv → Fv → Bool
  | .inf a, .inf b => a == b
  | .fin a m e, .fin b n g => let u := min e g; decide (finInt a m e u = finInt b n g u)
  | _, _ => false

/-- Exact sum of a list: NaN, then infinities, then the finite terms; an invalid pair of infinities sets NV. DESIGN CHOICE
(log 112): a NaN beside infinities of both signs raises nothing. The sign of a zero sum is negative only where every term is −0 (R147), or by the mode of R139. -/
def Fv.sum (mode : Mode) (l : List Fv) : Fv × Flags :=
  if l.any (· == .nan) then (.nan, 0)
  else if l.contains (.inf true) && l.contains (.inf false) then (.nan, flagNV)
  else if l.contains (.inf true) then (.inf true, 0)
  else if l.contains (.inf false) then (.inf false, 0)
  else
    let u : Int := l.foldl (fun u x => match x with | .fin _ _ e => min u e | _ => u) 0
    let v : Int := l.foldl (fun v x => match x with | .fin a m e => v + finInt a m e u | _ => v) 0
    let negZeros := !l.isEmpty && l.all (fun x => match x with | .fin a m _ => a && m == 0 | _ => false)
    let posZeros := l.all (fun x => match x with | .fin a m _ => !a && m == 0 | _ => false)
    (ofFinInt (if negZeros then true else if posZeros then false else mode == .rdn) v u, 0)

/-- Round a number to an integer type (R137). -/
def Fv.toInt (mode : Mode) (isSigned : Bool) (w : Nat) : Fv → Nat × Flags
  | .nan => (0, flagNV)
  | .inf neg => (((if neg then intLo isSigned w else intHi isSigned w) % (2 ^ w : Nat)).toNat, flagNV)
  | .fin neg m e =>
    let (r, inexact) := if 0 ≤ e then (m * 2 ^ e.toNat, false) else roundShift mode neg m (-e).toNat
    let v : Int := if neg then -r else r
    let c := max (intLo isSigned w) (min (intHi isSigned w) v)
    ((c % (2 ^ w : Nat)).toNat, if c = v then flagNX.when inexact else flagNV)

/-- An integer as a number. -/
def Fv.ofInt (v : Int) : Fv := .fin (decide (v < 0)) v.natAbs 0

/-! ## exp2 (R150) -/

/-- Is m / 2^26 at most 2^(k / 65536)? -/
def rootLe (m k : Nat) : Bool := decide (m ^ 65536 ≤ 2 ^ (k + 26 * 65536))

/-- The largest m below 2^27 with m / 2^26 ≤ 2^(k / 65536), for k below 65,536. -/
def rootFloor (k : Nat) : Nat :=
  (List.range 26).foldl (fun m i => if rootLe (m + 2 ^ (25 - i)) k then m + 2 ^ (25 - i) else m) (2 ^ 26)

/-- rne_f32 of 2^(n + k / 65536), for k below 65,536; a last bit stands for the rest where k is not 0. -/
def exp2Fv (n : Int) (k : Nat) : Fv :=
  if k = 0 then .fin false 1 n else .fin false (2 * rootFloor k + 1) (n - 27)

/-- exp2 of an f32 code (R150). -/
def exp2 (fzi fzo : Bool) (c : Nat) : Nat × Flags :=
  match fF32.read fzi c with
  | .nan => (fF32.nan, 0)
  | .inf neg => if neg then (0, 0) else (fF32.infMag, 0)
  | .fin neg m e =>
    let (r, inexact) := if -16 ≤ e then (m * 2 ^ (e + 16).toNat, false) else roundShift .rne neg m (-16 - e).toNat
    if !neg && decide (128 * 65536 ≤ r) then (fF32.infMag, flagOF ||| flagNX)
    else
      let xq : Int := if neg then -r else r
      if xq < -(200 * 65536) then (0, flagUF ||| flagNX)
      else
        let (y, f) := fF32.round { fzo := fzo } false (match exp2Fv (xq / 65536) (xq % 65536).toNat with | .fin _ m _ => m | _ => 0)
          (match exp2Fv (xq / 65536) (xq % 65536).toNat with | .fin _ _ e => e | _ => 0)
        (y, f ||| flagNX.when inexact)

/-! ## q4 blocks (R141 to R143) -/

/-- Four times the magnitude of code bits [2:0] of a signed-magnitude type. -/
def q4Mag (t c : Nat) : Nat :=
  match t with
  | 1 => [0, 2, 4, 6, 8, 12, 16, 24].getD c 0
  | 2 => [0, 1, 2, 4, 8, 16, 32, 64].getD c 0
  | _ => [0, 4, 8, 12, 16, 24, 32, 48].getD c 0

/-- Four times q4val of a code (R141). -/
def q4Val (t c : Nat) : Int :=
  if t = 0 then 4 * sextN c 4
  else if 8 ≤ c % 16 then -(q4Mag t (c % 8) : Int) else q4Mag t (c % 8)

/-- Is a scale byte a NaN scale? -/
def nanScale (s : Nat) : Bool := s % 64 == 63

/-- The element of a block with its scale byte (R141). −0 keeps its sign. -/
def q4Fv (scale code : Nat) : Fv :=
  if nanScale scale then .nan
  else
    let t := scale / 64 % 4
    let v := q4Val t code
    .fin (if t = 0 then decide (v < 0) else decide (8 ≤ code % 16)) v.natAbs ((scale % 64 : Nat) - 34)

/-- A number in units of 2^u, for u at most its exponent. -/
def Fv.units (u : Int) : Fv → Int
  | .fin n m e => finInt n m e u
  | _ => 0

/-- Least e with Mt × 2^(e − 32) ≥ amax, where amax is in units of 2^u and u ≤ −34 (R143). Found from e = −300 up. -/
def scaleExp (mt : Nat) (amax : Nat) (u : Int) : Int :=
  if amax = 0 then 0
  else
    let guess : Int := (Nat.log2 amax : Int) + u - (Nat.log2 mt : Int) + 32
    let ok (e : Int) : Bool :=
      let d := e - 32 - u
      if 0 ≤ d then decide (amax ≤ mt * 2 ^ d.toNat) else decide (amax * 2 ^ (-d).toNat ≤ mt)
    if ok (guess - 1) then guess - 1 else if ok guess then guess else if ok (guess + 1) then guess + 1 else guess + 2

/-- Better of two candidate codes for x under a mode, on the grid of a type (R143). The grid point of a code is q4Val ×
2^g units. -/
def gridBetter (mode : Mode) (t g : Nat) (x : Int) (c d : Nat) : Bool :=
  let v (c : Nat) : Int := q4Val t c * 2 ^ g
  match mode with
  | .rne =>
    let a := (x - v c).natAbs
    let b := (x - v d).natAbs
    decide (a < b) || (decide (a = b) && c % 2 == 0 && d % 2 == 1)
  | .rtz =>
    let ok (c : Nat) : Bool := decide ((v c).natAbs ≤ x.natAbs) && decide (0 ≤ v c * x)
    if ok c && ok d then decide ((v d).natAbs < (v c).natAbs) else ok c && !ok d
  | .rdn =>
    let ok (c : Nat) : Bool := decide (v c ≤ x)
    if ok c && ok d then decide (v d < v c) else if ok c then true else if ok d then false else decide (v c < v d)
  | .rup =>
    let ok (c : Nat) : Bool := decide (x ≤ v c)
    if ok c && ok d then decide (v c < v d) else if ok c then true else if ok d then false else decide (v d < v c)

/-- grid_round of R143: the code. Code 0x8 of a signed-magnitude type stands for a negative number that rounds to 0. -/
def gridRound (mode : Mode) (t g : Nat) (x : Int) : Nat :=
  let c := (List.range 16).foldl (fun b c => if t != 0 && c == 8 then b else if gridBetter mode t g x c b then c else b) 0
  if t ≠ 0 ∧ q4Val t c = 0 then (if x < 0 then 8 else 0) else c

/-- Quantise a block under one candidate type: exponent, low, high, codes, error and whether it is inexact. Units of 2^u,
u ≤ −34. -/
structure QuantTry where
  t : Nat := 0
  e : Nat := 0
  low : Bool := false
  high : Bool := false
  codes : List Nat := []
  err : Nat := 0
  inexact : Bool := false
  deriving DecidableEq, Repr, Inhabited

def quantTry (mode : Mode) (u : Int) (xs : List Int) (amax t : Nat) : QuantTry :=
  let e0 := scaleExp (match t with | 0 => 7 | 1 => 6 | 2 => 16 | _ => 12) amax u
  let e := if e0 < 0 then 0 else if 62 < e0 then 62 else e0.toNat
  let g := ((e : Int) - 34 - u).toNat
  let codes := xs.map (gridRound mode t g)
  let diffs := (xs.zip codes).map (fun p => p.1 - q4Val t p.2 * 2 ^ g)
  { t := t, e := e, low := decide (e0 < 0), high := decide (62 < e0), codes := codes
    err := diffs.foldl (fun s d => s + d.natAbs * d.natAbs) 0, inexact := diffs.any (· != 0) }

/-- Quantise a block: the scale byte, the codes and the flags (R143). -/
def quantise (mode : Mode) (candidates : List Nat) (xs : List Fv) : Nat × List Nat × Flags :=
  if xs.any (fun x => match x with | .fin .. => false | _ => true) then (0x3F, xs.map (fun _ => 0), flagNV)
  else
    let u : Int := xs.foldl (fun u x => match x with | .fin _ _ e => min u e | _ => u) (-34)
    let is := xs.map (Fv.units u)
    let amax := is.foldl (fun a x => max a x.natAbs) 0
    let tries := candidates.map (quantTry mode u is amax)
    let best := tries.foldl (fun (b : Option QuantTry) q => match b with
      | none => some q
      | some b => if q.err < b.err then some q else some b) none
    match best with
    | none => (0, xs.map (fun _ => 0), 0)
    | some q => (q.t * 64 + q.e, q.codes, flagQUF.when q.low ||| flagOF.when q.high ||| flagNX.when q.inexact)

/-! ## Accumulation (R144 to R148) -/

/-- Add an exact block or group sum to an f32 accumulator (R146, R147). DESIGN CHOICE (log 113): FZI does not flush the prior
accumulator. -/
def accAdd (fzo sat : Bool) (acc : Nat) (s : Fv × Flags) : Nat × Flags :=
  let a := fF32.read false acc
  if a = .nan then (fF32.nan, s.2)
  else
    let (v, f) := a.add .rne s.1
    let (c, g) := fF32.give { sat := sat, fzo := fzo } v
    (c, s.2 ||| f ||| g)

/-- Add an exact block sum to an i32 accumulator (R148). -/
def accInt (sat : Bool) (acc : Nat) (s : Int) : Nat × Flags := intCode true sat 32 (sextN acc 32 + s)

end Sys2Proof.Machine
end

