-- ==== Sys2Proof/Machine/Matrix.lean ====
section
/-!
DEFINITION. Matrix instructions, pages 12 and 13 (R251 to R266), and the tile-tasks that carry them out (R260, R364,
R368, R428, R431).
-/

namespace Sys2Proof.Machine

/-! ## The shape (R251) -/

def mshM (v : Word) : Nat := 128 * (Wbits v 11 6 + 1)
def mshN (v : Word) : Nat := 128 * (Wbits v 17 12 + 1)
def mshK (v : Word) : Nat := 16 * (Wbits v 33 18 + 1)
def mshKb (v : Word) : Nat := 2 ^ (Wbits v 3 0 + 4)
def mshNblk (v : Word) : Nat := ceilDiv (mshK v) (mshKb v)
def mshSA (v : Word) : Nat := 1024 * (if Wbits v 48 34 = 0 then 2 ^ 15 else Wbits v 48 34)
def mshSB (v : Word) : Nat := 1024 * (if Wbits v 63 49 = 0 then 2 ^ 15 else Wbits v 63 49)
def mshTiles (v : Word) : Nat := (Wbits v 11 6 + 1) * (Wbits v 17 12 + 1)

/-! ## Formats (R253) -/

/-- An element type of a matrix operand. -/
inductive ElTy where
  | fp (f : Fmt)
  | q4
  | int (isSigned : Bool) (w : Nat)
  deriving DecidableEq, Repr

def ElTy.width : ElTy → Nat
  | .fp f => f.width
  | .q4 => 4
  | .int _ w => w

/-- A format pair: the operands and which are scaled. -/
structure Pair where
  a : ElTy
  b : ElTy
  sa : Bool := false
  sb : Bool := false
  deriving DecidableEq, Repr

/-- The formats of page 12 by major, and of SMMA at 16 to 18. -/
def pairOf : Nat → Pair
  | 0x0 => ⟨.fp fBF16, .fp fBF16, false, false⟩
  | 0x1 => ⟨.fp fF16, .fp fF16, false, false⟩
  | 0x2 => ⟨.fp fF32, .fp fF32, false, false⟩
  | 0x3 => ⟨.fp fE4M3, .fp fE4M3, true, true⟩
  | 0x4 => ⟨.fp fE5M2, .fp fE5M2, true, true⟩
  | 0x5 => ⟨.fp fE4M3, .fp fE5M2, true, true⟩
  | 0x6 => ⟨.int true 8, .int true 8, false, false⟩
  | 0x7 => ⟨.int true 8, .int false 8, false, false⟩
  | 0x8 => ⟨.fp fE2M3, .fp fE2M3, true, true⟩
  | 0x9 => ⟨.fp fE3M2, .fp fE3M2, true, true⟩
  | 0xA => ⟨.q4, .q4, true, true⟩
  | 0xB => ⟨.q4, .fp fE4M3, true, true⟩
  | 0xC => ⟨.fp fBF16, .q4, false, true⟩
  | 0xD => ⟨.int true 4, .int true 4, false, false⟩
  | 0xE => ⟨.int true 3, .int true 8, false, false⟩
  | 16 => ⟨.fp fBF16, .fp fBF16, false, false⟩
  | 17 => ⟨.fp fE4M3, .fp fE4M3, true, true⟩
  | _ => ⟨.q4, .q4, true, true⟩

/-- Integer pairs accumulate in i32 (R145). -/
def Pair.isInt (p : Pair) : Bool :=
  match p.a with
  | .int _ _ => true
  | _ => false

/-- Indices summed exactly before a rounding: a group of 32, or a K-block (R145). -/
def Pair.unit (p : Pair) (kb : Nat) : Nat := if !p.isInt && !p.sa && !p.sb then 32 else kb

/-- An element as a number, with the scale byte of its block (R141, R253). -/
def ElTy.number (t : ElTy) (fzi scaled : Bool) (scale c : Nat) : Fv :=
  match t with
  | .q4 => q4Fv scale c
  | .int s w => Fv.ofInt (intVal s w c)
  | .fp f =>
    if !scaled then f.read fzi c
    else if nanScale scale then .nan
    else match f.read fzi c with
      | .fin n m e => .fin n m (e + ((scale % 64 : Nat) - 32 : Int))
      | x => x

/-! ## Output places (R256, R257) -/

/-- Width of an output element (R251, R265). -/
def MmaOp.wout (p : MmaOp) : Nat := if Wbit p.mshape 5 && (p.fmt == 32 || !(pairOf p.fmt).isInt) then 16 else 32

/-- Rows per core and row stride of a map for an instruction. -/
def MmaOp.rowsPer (p : MmaOp) : Nat := if p.map.g = 0 then ceilDiv (mshM p.mshape) 64 else p.map.g
def MmaOp.rowLen (p : MmaOp) : Nat := if p.map.rs = 0 then mshN p.mshape * p.wout else p.map.rs

/-- Core within the cluster and C offset of element n of row m. -/
def MmaOp.place (p : MmaOp) (m n : Nat) : Nat × Nat :=
  ((p.map.cb + p.map.cs * (m / p.rowsPer)) % 64, p.map.ob + p.rowLen * (m % p.rowsPer) + n * p.wout)

/-- Does an output element pass the C window (R256)? -/
def MmaOp.outBeyond (p : MmaOp) : Bool :=
  decide (2 ^ 21 < p.map.ob + p.rowLen * (min p.rowsPer (mshM p.mshape) - 1) + mshN p.mshape * p.wout)

/-- Bit address of a place in a window of a core of this package (R63). -/
def windowAddr (win core inc : Nat) : Word := wordOfNat (2 ^ 63 + win * 2 ^ 60 + core * 2 ^ 38 + 2 ^ 36 + inc)

/-! ## Issue (R258, R261, R263 to R266) -/

/-- The map of a slot for a task: slot 0 for everyone, the others for their owner (R256, R258). -/
def State.mapFor (s : State) (cl uid slot : Nat) : Option MapSlot :=
  if slot = 0 then some {} else match aget (s.cluster cl).maps slot with
    | some m => if m.owner = uid then some m else none
    | none => none

/-- Record length of a window operand (R255). -/
def recLen (kb w : Nat) (scaled : Bool) : Nat := 128 * ceilDiv (kb * w + (if scaled then 8 else 0)) 128

/-- Is a window operand with R rows one that the instruction refuses (R255)? -/
def State.windowBad (s : State) (cl : Nat) (base : Word) (R w : Nat) (scaled : Bool) (v : Word) : Bool :=
  if !base.getLsbD 63 then false
  else match s.placeWin base with
    | none => true
    | some q =>
      decide (2 ≤ q.win) || base.getLsbD 37 || q.pkg != s.sys.self || q.core / 64 != cl || q.inc % 128 != 0 ||
        decide (windowSpan q.win < q.inc + ceilDiv (mshNblk v) 64 * R * recLen (mshKb v) w scaled)

/-- Source entries of a dense instruction (R261). -/
def MmaOp.locks (p : MmaOp) (s : State) : List RangeLock :=
  let v := p.mshape
  let f := pairOf p.fmt
  let a := if p.a.getLsbD 63 then [] else
    [s.lockEntry false p.a ((mshM v - 1) * mshSA v + mshK v * f.a.width)] ++
      (if f.sa && p.sa != 0 then [s.lockEntry false p.sa (8 * mshM v * mshNblk v)] else [])
  let b := if p.b.getLsbD 63 || decide (16 ≤ p.fmt) then [] else [s.lockEntry false p.b ((mshN v - 1) * mshSB v + mshK v * f.b.width)]
  let sb := if (p.b.getLsbD 63 && decide (p.fmt < 16)) || !f.sb || p.sb == 0 then [] else [s.lockEntry false p.sb (8 * mshN v * mshNblk v)]
  a ++ b ++ sb

/-- What refuses an instruction at issue (R428). -/
def State.mmaRefusal (s : State) (cl : Nat) (p : MmaOp) (m : Option MapSlot) : Option Nat :=
  let v := p.mshape
  let f := pairOf p.fmt
  if m.isNone then some 0x01
  else if p.fmt != 32 && (s.windowBad cl p.a (mshM v) f.a.width f.sa v ||
      (decide (p.fmt < 16) && s.windowBad cl p.b (mshN v) f.b.width f.sb v)) then some 0x02
  else if p.outBeyond then some 0x03
  else none

/-- Has the operation's work been stopped, so that tile-tasks no engine has begun are dropped (R259, R431)? -/
def MmaOp.stopped (p : MmaOp) : Bool := p.cancel || p.failed.isSome

/-- Does an instruction hold a place of the tile generator: has it tile-tasks still to place (R368, R374)? -/
def MmaOp.unplaced (p : MmaOp) : Bool := !p.stopped && decide (p.placed < mshTiles p.mshape)

/-- Room in the tile generator: 64 places, and the corbel one where it is granted to the yard (R368, R373). -/
def Cluster.genRoom (c : Cluster) (uid : Nat) : Bool :=
  let n := (c.gen.filter MmaOp.unplaced).length
  decide (n < 64) || (c.placeFor 4 uid && decide (n < 65))

/-- Issue an instruction whose operation record is ready. -/
def State.mmaIssue (s : State) (c : Cur) (o : Ops) (p : MmaOp) (locks : List RangeLock) : Res :=
  let cl := clusterOf c.cx
  let m := s.mapFor cl (s.me c).uid (o.imm.toNat % 64)
  let p := { p with map := m.getD {} }
  match s.mmaRefusal cl p m with
  | some why => s.refused c o.d 0x2 why
  | none =>
    s.engIssue c o.d 0x2 locks ((s.cluster cl).genRoom (s.ctx c.cx).uid) queueTile
      (fun h s => s.modCluster cl (fun C => { C with gen := C.gen ++ [{ p with handle := h }] }))

/-- Scale-array addresses that an instruction reads: those of a window operand are not read (R255). `sparse` says that B is a
CSR record (R263). -/
def scaleSrcs (x : Ctx) (o : Ops) (f : Pair) (sparse : Bool) : List (BitVec 6 × Bool) :=
  if !f.sa && !f.sb then []
  else (if (x.readS o.a).getLsbD 63 then [] else [(o.c, o.tc)]) ++
    (if (x.readS o.b).getLsbD 63 && !sparse then [] else [(pairHi o.c, o.tc)])

/-- Go on once more sources are ready, as the issue of an instruction has it (R170, R391). -/
def State.needs (s : State) (c : Cur) (srcs : List (BitVec 6 × Bool)) (k : Res) : Res :=
  match (s.me c).sources srcs with
  | some (_, some t) => .trap s t
  | some (h, none) => .wait s .source h
  | none => k

/-- The operation record of an instruction of a format, from its operands. -/
def State.mmaOp (s : State) (c : Cur) (o : Ops) (fmt : Nat) : MmaOp :=
  let x := s.me c
  let f := pairOf fmt
  { rights := s.rightsOf c.cx, fmt := fmt, a := x.readS o.a, b := x.readS o.b
    sa := if f.sa && !(x.readS o.a).getLsbD 63 then x.readS o.c else 0
    sb := if f.sb && (decide (16 ≤ fmt) || !(x.readS o.b).getLsbD 63) then x.readS (pairHi o.c) else 0
    mshape := x.csrs.mshape, scope := o.imm.toNat / 64, rnd := o.rnd.toNat, fzi := o.fzi, fzo := o.fzo, sat := o.sat
    prio := x.csrs.base }

/-- MMA of a format (R258). -/
def mma (fmt : Nat) (o : Ops) (s : State) : Result :=
  let f := pairOf fmt
  s.run coreOnly (srcAB o) (fun c s =>
    let p := s.mmaOp c o fmt
    s.needs c (scaleSrcs (s.me c) o f false) (s.mmaIssue c o p (p.locks s)))

/-- MMA.BF16 (R253, R258). -/
def execMmaBf16 (o : Ops) (s : State) : Result := mma 0x0 o s
/-- MMA.F16. -/
def execMmaF16 (o : Ops) (s : State) : Result := mma 0x1 o s
/-- MMA.F32. -/
def execMmaF32 (o : Ops) (s : State) : Result := mma 0x2 o s
/-- MMA.E4M3. -/
def execMmaE4m3 (o : Ops) (s : State) : Result := mma 0x3 o s
/-- MMA.E5M2. -/
def execMmaE5m2 (o : Ops) (s : State) : Result := mma 0x4 o s
/-- MMA.E4M3E5M2. -/
def execMmaE4m3e5m2 (o : Ops) (s : State) : Result := mma 0x5 o s
/-- MMA.I8. -/
def execMmaI8 (o : Ops) (s : State) : Result := mma 0x6 o s
/-- MMA.I8N8. -/
def execMmaI8n8 (o : Ops) (s : State) : Result := mma 0x7 o s
/-- MMA.E2M3. -/
def execMmaE2m3 (o : Ops) (s : State) : Result := mma 0x8 o s
/-- MMA.E3M2. -/
def execMmaE3m2 (o : Ops) (s : State) : Result := mma 0x9 o s
/-- MMA.Q4. -/
def execMmaQ4 (o : Ops) (s : State) : Result := mma 0xA o s
/-- MMA.Q4E4M3. -/
def execMmaQ4e4m3 (o : Ops) (s : State) : Result := mma 0xB o s
/-- MMA.BF16Q4. -/
def execMmaBf16q4 (o : Ops) (s : State) : Result := mma 0xC o s
/-- MMA.I4. -/
def execMmaI4 (o : Ops) (s : State) : Result := mma 0xD o s
/-- MMA.I3I8. -/
def execMmaI3i8 (o : Ops) (s : State) : Result := mma 0xE o s

/-- What the reads that an SMMA makes at issue come to (R264). -/
inductive CsrHead where
  | got (s : State) (p : MmaOp) (first last : Nat)
  | hold (s : State)

/-- Read the CSR record, ROWP[0] and ROWP[N]; a fault or poison is held with the operation, which then fails. -/
def State.csrHead (s : State) (ag : Agent) (p : MmaOp) : CsrHead :=
  match s.engRead ag 5 [] p.b 192 with
  | (s, seen, r) =>
    if r.hold then .hold s
    else match r.fault with
      | some t => .got s { p with failed := some (faultWord 0x2 0 t) } 0 0
      | none =>
        let v := s.engVal ag r.parts
        let p := { p with rowp := wordOfNat (v % 2 ^ 64), coli := wordOfNat (v / 2 ^ 64 % 2 ^ 64), vals := wordOfNat (v / 2 ^ 128), den := r.den }
        if r.poison then .got s { p with failed := some (failureWord 0x2 0x11 0) } 0 0
        else
          let n := mshN p.mshape
          match s.engRead ag 5 seen p.rowp 32 with
          | (s, seen, r0) =>
            match s.engRead ag 5 seen (p.rowp + wordOfNat (32 * n)) 32 with
            | (s, seen, rn) =>
              if r0.hold || rn.hold then .hold s
              else match r0.fault.orElse (fun _ => rn.fault) with
                | some t => .got s { p with failed := some (faultWord 0x2 0 t) } 0 0
                | none =>
                  let p := { p with den := p.den || r0.den || rn.den, logged := seen }
                  if r0.poison then .got s { p with failed := some (failureWord 0x2 0x04 0) } 0 0
                  else if rn.poison then .got s { p with failed := some (failureWord 0x2 0x04 (n - 1)) } 0 0
                  else .got s p (s.engVal ag r0.parts) (s.engVal ag rn.parts)

/-- Source entries of a CSR record (R264). -/
def MmaOp.csrLocks (p : MmaOp) (s : State) (first last : Nat) : List RangeLock :=
  let w := (pairOf p.fmt).b.width
  [s.lockEntry false p.b 192, s.lockEntry false p.rowp (32 * (mshN p.mshape + 1)),
   s.lockEntry false (p.coli + wordOfNat (32 * first)) (32 * (last - first)),
   s.lockEntry false (p.vals + wordOfNat (w * first)) (w * (last - first))]

/-- The tile fetch unit, reading for an instruction that issues: the windows of its own cluster (R67). -/
def State.fetchAgent (s : State) (cx : Nat) : Agent :=
  { s.ctxAgent cx with tlb := none, wins := [0, 1, 2], away := false, only := some (clusterOf cx), sagt := portAgent (clusterOf cx), log := some (s.ctx cx).uid }

/-- SMMA of a format (R263, R264). -/
def smma (fmt : Nat) (o : Ops) (s : State) : Result :=
  let f := pairOf fmt
  s.run coreOnly (srcAB o) (fun c s =>
    let p := s.mmaOp c o fmt
    s.needs c (scaleSrcs (s.me c) o f true) (
      if (s.me c).rcount ≠ 0 then .wait s .other 0
      else match s.csrHead (s.fetchAgent c.cx) p with
        | .hold s => .wait s .other 0
        | .got t p first last =>
          -- what waits further is read again
          match t.mmaIssue c o p (p.locks t ++ p.csrLocks t first last) with
          | .wait _ k x => .wait (s.dropFwds (s.me c).uid) k x
          | r => r))

/-- SMMA.BF16 (R263). -/
def execSmmaBf16 (o : Ops) (s : State) : Result := smma 16 o s
/-- SMMA.E4M3. -/
def execSmmaE4m3 (o : Ops) (s : State) : Result := smma 17 o s
/-- SMMA.Q4. -/
def execSmmaQ4 (o : Ops) (s : State) : Result := smma 18 o s

/-- MZERO (R265). -/
def execMzero (o : Ops) (s : State) : Result :=
  s.run coreOnly (srcA o) (fun c s => s.mmaIssue c o { s.mmaOp c o 32 with b := 0, sa := 0, sb := 0 } [])

/-- MSHAPE (R252). -/
def execMshape (o : Ops) (s : State) : Result :=
  s.run coreOnly (srcA o) (fun c s =>
    let v := (s.me c).readS o.a
    if Wbits v 3 0 ≤ 6 then
      .okB (s.onMe c (fun x => ({ x with csrs := { x.csrs with mshape := v } } : Ctx).writeS o.d (wordOfNat (mshTiles v))))
    else .okB (s.onMe c (fun x => x.writeS o.d 0)))

/-- MMAP by its FREE bit (R257). -/
def mmap (o : Ops) (s : State) : Result :=
  s.run coreOnly (srcAB o) (fun c s =>
    let x := s.me c
    let cl := clusterOf c.cx
    let a := x.readS o.a
    let b := x.readS o.b
    let maps := (s.cluster cl).maps
    if !a.getLsbD 63 then
      match (List.range 63).find? (fun k => (aget maps (k + 1)).isNone) with
      | none => .okB (s.onMe c (fun x => x.writeS o.d 0))
      | some k =>
        let m : MapSlot := { cb := Wbits a 5 0, cs := Wbits a 11 6, g := Wbits a 19 12, ob := 128 * Wbits b 13 0, rs := 128 * Wbits b 27 14, owner := x.uid }
        .okB ((s.modCluster cl (fun C => { C with maps := aset C.maps (k + 1) m })).onMe c (fun x => x.writeS o.d (wordOfNat (k + 1))))
    else
      let k := Wbits b 5 0
      match aget maps k with
      | some m =>
        if m.owner = x.uid then .okB ((s.modCluster cl (fun C => { C with maps := adel C.maps k })).onMe c (fun x => x.writeS o.d 0))
        else .okB (s.onMe c (fun x => x.writeS o.d 0xFFFFFFFFFFFFFFFF))
      | none => .okB (s.onMe c (fun x => x.writeS o.d 0xFFFFFFFFFFFFFFFF)))

/-- MMAP, allocate (R257). -/
def execMmapAllocate (o : Ops) (s : State) : Result := mmap o s
/-- MMAP, free (R257): the same word; bit 63 of S[a] selects. -/
def execMmapFree (o : Ops) (s : State) : Result := mmap o s

/-! ## Operands of a row or column (R254, R255, R263) -/

/-- One row of A or column of B: elements with their K index, scale bytes by K-block, and the places of poison. -/
structure Line where
  els : List (Nat × Nat) := []
  scales : List Nat := []
  /-- K indices of poisoned elements -/
  bad : List Nat := []
  /-- K-blocks whose scale byte is poisoned -/
  badScale : List Nat := []
  deriving DecidableEq, Repr, Inhabited

/-- What reading for a tile-task comes to. -/
inductive TileRead (α : Type) where
  | got (s : State) (p : MmaOp) (v : α)
  | hold (s : State)
  | fault (s : State) (w : Word)

/-- Go on with what was read. -/
def TileRead.bind {α β : Type} (r : TileRead α) (f : State → MmaOp → α → TileRead β) : TileRead β :=
  match r with
  | .got s p v => f s p v
  | .hold s => .hold s
  | .fault s w => .fault s w

/-- Read each item of a list. -/
def tileList {α β : Type} (f : α → State → MmaOp → TileRead β) : List α → State → MmaOp → TileRead (List β)
  | [], s, p => .got s p []
  | x :: xs, s, p => (f x s p).bind (fun s p v => (tileList f xs s p).bind (fun s p vs => .got s p (v :: vs)))

/-- The agent of a matrix engine: W, A and C of its own cluster (R67). -/
def MmaOp.agent (p : MmaOp) : Agent :=
  { opAgent p.rights p.handle with wins := [0, 1, 2], away := false, only := some (clusterOf p.rights.cx) }

/-- Band of 128 rows of A, and of 128 columns of B, in the pins of the tile fetch unit (R262). -/
def rowBand (m : Nat) : Nat := m / 128
def colBand (n : Nat) : Nat := 4096 + n / 128

/-- Tile-tasks of an operation in the yard or on an engine. -/
def Cluster.tilesOf (c : Cluster) (h : Word) : List Tile :=
  c.tiles.filter (fun t => t.handle == h) ++ (c.engines.toList.filterMap id).filter (fun t => t.handle == h)

/-- Have all the tile-tasks that read a band ended (R262)? -/
def Cluster.bandOver (c : Cluster) (p : MmaOp) (band : Nat) : Bool :=
  let nt := Wbits p.mshape 17 12 + 1
  let last := if band < 4096 then (band + 1) * nt else mshTiles p.mshape - nt + band % 4096 + 1
  (p.stopped || decide (last ≤ p.placed)) && (c.tilesOf p.handle).all (fun t => if band < 4096 then t.tm != band else t.tn != band % 4096)

/-- Does a run lo, …, hi − 1 of rows, row m at base + m × stride and len bits long, meet the line that ends D bits after the
base (modulo 2⁶⁴)? -/
def rowsMeet (stride len D lo hi : Nat) : Bool :=
  let first := if D < len + 1024 then 0 else (D - len - 1024) / stride + 1
  decide (0 < D) && decide (0 < len) && decide (max first lo ≤ min ((D - 1) / stride) (hi - 1))

/-- An array read ahead of need, for what it says of later bands: none where it cannot be read now. -/
def State.peek (s : State) (ag : Agent) (a : Word) (n : Nat) : Option Nat :=
  match s.engRead ag 5 [] a n with
  | (t, _, r) => if r.hold || r.fault.isSome then none else some (t.engVal ag r.parts)

/-- Does a band of an instruction read the global line at a bit address (R254, R262 to R264)? A band of B whose CSR bounds
cannot be read now counts as reading the lines of the lists (log 115). -/
def State.bandReads (s : State) (p : MmaOp) (line : Word) (band : Nat) : Bool :=
  let v := p.mshape
  let f := pairOf p.fmt
  let nblk := mshNblk v
  let lo := 128 * (band % 4096)
  let meets (base : Word) (stride len a b : Nat) : Bool := rowsMeet stride len (line + 1024 - base).toNat a b
  let scales (on : Bool) (base : Word) : Bool := on && base != 0 && meets base (8 * nblk) (8 * nblk) lo (lo + 128)
  if band < 4096 then
    !p.a.getLsbD 63 && (meets p.a (mshSA v) (mshK v * f.a.width) lo (lo + 128) || scales f.sa p.sa)
  else if p.fmt < 16 then
    !p.b.getLsbD 63 && (meets p.b (mshSB v) (mshK v * f.b.width) lo (lo + 128) || scales f.sb p.sb)
  else
    let bound (n : Nat) : Option Nat := s.peek p.agent (p.rowp + wordOfNat (32 * n)) 32
    let listed (base : Word) (w : Nat) : Bool := match bound lo, bound (lo + 128) with
      | some x, some y => decide (x < y) && meets base w w x y
      | _, _ => meets base w w 0 (2 ^ 32)
    meets p.rowp 32 64 lo (lo + 128) || listed p.coli 32 || listed p.vals f.b.width || scales f.sb p.sb

/-- The bands of an instruction that some tile-task has still to read (R262). -/
def State.bandsLeft (s : State) (cl : Nat) (p : MmaOp) : List Nat :=
  let nt := Wbits p.mshape 17 12 + 1
  (List.range (mshTiles p.mshape / nt) ++ (List.range nt).map (4096 + ·)).filter (fun b => !(s.cluster cl).bandOver p b)

/-- Pin the lines of this package that parts were read from, for the band that reads them and for every other band of the
instruction that has still to read them (R262). -/
def State.pinBand (s : State) (p : MmaOp) (band : Nat) (a : Word) (qs : List Part) : State :=
  let cl := clusterOf p.rights.cx
  let left := (s.bandsLeft cl p).filter (· != band)
  let mine (h : Nat) : Bool := (s.cluster cl).gen.any (fun q => q.handle.toNat == h / 2 ^ 16)
  (qs.filter (fun q => q.win.isNone && !q.denied && q.own == s.sys.self)).foldl (fun s q =>
    let line := wordOfNat ((a.toNat + q.pos) / 1024 * 1024)
    (band :: left.filter (s.bandReads p line)).foldl
      (fun s b => s.fetchPin (cl / 4) (q.key / 128) (p.handle.toNat * 2 ^ 16 + b) mine) s) s

/-- Read n bits for a band, with the positions of poisoned ones. -/
def tileBits (role band : Nat) (a : Word) (n : Nat) (s : State) (p : MmaOp) : TileRead (Nat × List (Nat × Nat)) :=
  let ag := p.agent
  match s.engRead ag 5 p.logged a n with
  | (s, seen, r) =>
    if r.hold then .hold s
    else match r.fault with
      | some t => .fault s (faultWord 0x2 role t)
      | none => .got (s.pinBand p band a r.parts) { p with den := p.den || r.den, logged := seen } (s.engVal ag r.parts,
          (r.parts.filter (fun q => (!q.denied && q.own == s.sys.self && s.poisoned q.key) || poisonedPart s ag.rights.uid q)).map (fun q => (q.pos, q.len)))

/-- Elements i of a run of w-bit elements, numbered from k0. -/
def runEls (k0 n w v : Nat) : List (Nat × Nat) := (List.range n).map (fun i => (k0 + i, (v >>> (i * w)) % 2 ^ w))

/-- Which elements of a run touch a poisoned place. -/
def runBad (k0 n w : Nat) (bad : List (Nat × Nat)) : List Nat :=
  if bad.isEmpty then [] else ((List.range n).filter (fun i => bad.any (fun b => decide (b.1 < i * w + w) && decide (i * w < b.1 + b.2)))).map (· + k0)

/-- Bytes of a scale array. -/
def scaleBytes (n v : Nat) : List Nat := (List.range n).map (fun j => (v >>> (8 * j)) % 256)

/-- Scale bytes of a row of a global operand; an array address of 0 supplies 0x20 (R254). -/
def readScales (role band : Nat) (scaled : Bool) (base : Word) (r : Nat) (s : State) (p : MmaOp) : TileRead (List Nat × List Nat) :=
  let n := mshNblk p.mshape
  if !scaled ∨ base = 0 then .got s p (List.replicate n 0x20, [])
  else (tileBits role band (base + wordOfNat (8 * (r * n))) (8 * n) s p).bind (fun s p v =>
    .got s p (scaleBytes n v.1, runBad 0 n 8 v.2))

/-- A row of a global operand. -/
def readGlobal (role band : Nat) (t : ElTy) (scaled : Bool) (base scale : Word) (stride r : Nat) (s : State) (p : MmaOp) : TileRead Line :=
  let k := mshK p.mshape
  (tileBits role band (base + wordOfNat (r * stride)) (k * t.width) s p).bind (fun s p v =>
    (readScales (role + 2) band scaled scale r s p).bind (fun s p sc =>
      .got s p { els := runEls 0 k t.width v.1, scales := sc.1, bad := runBad 0 k t.width v.2, badScale := sc.2 }))

/-- One slice record of a window operand (R255). -/
def readRecord (role : Nat) (t : ElTy) (scaled : Bool) (base : Word) (R r : Nat) (j : Nat) (s : State) (p : MmaOp) : TileRead Line :=
  let kb := mshKb p.mshape
  let n := min kb (mshK p.mshape - j * kb)
  let core := clusterOf p.rights.cx * 64 + (Wbits base 43 38 + j) % 64
  let inc := Wbits base 22 0 + (j / 64 * R + r) * recLen kb t.width scaled
  (tileBits role 0 (windowAddr (Wbits base 62 60) core inc) (n * t.width) s p).bind (fun s p v =>
    if !scaled then .got s p { els := runEls (j * kb) n t.width v.1, scales := [0x20], bad := runBad (j * kb) n t.width v.2 }
    else (tileBits (role + 2) 0 (windowAddr (Wbits base 62 60) core (inc + kb * t.width)) 8 s p).bind (fun s p sc =>
      .got s p { els := runEls (j * kb) n t.width v.1, scales := [sc.1], bad := runBad (j * kb) n t.width v.2
                 badScale := if sc.2.isEmpty then [] else [j] }))

/-- A row of an operand, wherever it lies. -/
def readLine (role band : Nat) (t : ElTy) (scaled : Bool) (base scale : Word) (stride R r : Nat) (s : State) (p : MmaOp) : TileRead Line :=
  if base.getLsbD 63 then
    (tileList (readRecord role t scaled base R r) (List.range (mshNblk p.mshape)) s p).bind (fun s p ls =>
      .got s p { els := ls.flatMap (·.els), scales := ls.flatMap (·.scales), bad := ls.flatMap (·.bad), badScale := ls.flatMap (·.badScale) })
  else readGlobal role band t scaled base scale stride r s p

/-- Do K indices rise strictly and stay below K (R263)? -/
def indicesOk (K : Nat) : List Nat → Bool
  | [] => true
  | [k] => decide (k < K)
  | k :: l :: ks => decide (k < l) && decide (k < K) && indicesOk K (l :: ks)

/-- A column of a sparse B (R263, R264). -/
def readSparse (n : Nat) (s : State) (p : MmaOp) : TileRead Line :=
  let f := pairOf p.fmt
  let w := f.b.width
  let broken (s : State) : TileRead Line := .fault s (failureWord 0x2 0x04 n)
  (tileBits 0 (colBand n) (p.rowp + wordOfNat (32 * n)) 64 s p).bind (fun s p v =>
    if !v.2.isEmpty then broken s
    else
      let lo := v.1 % 2 ^ 32
      let cnt := v.1 / 2 ^ 32 - lo
      if cnt = 0 then (readScales 3 (colBand n) f.sb p.sb n s p).bind (fun s p sc => .got s p { scales := sc.1, badScale := sc.2 })
      else (tileBits 0 (colBand n) (p.coli + wordOfNat (32 * lo)) (32 * cnt) s p).bind (fun s p ci =>
        let ks := (List.range cnt).map (fun i => (ci.1 >>> (32 * i)) % 2 ^ 32)
        if !ci.2.isEmpty || !indicesOk (mshK p.mshape) ks then broken s
        else (tileBits 0 (colBand n) (p.vals + wordOfNat (w * lo)) (w * cnt) s p).bind (fun s p vs =>
          (readScales 3 (colBand n) f.sb p.sb n s p).bind (fun s p sc =>
            .got s p { els := ks.zip ((runEls 0 cnt w vs.1).map (·.2)), scales := sc.1
                       bad := (runBad 0 cnt w vs.2).map (fun i => ks.getD i 0), badScale := sc.2 }))))

/-- Column n of B. -/
def readCol (n : Nat) (s : State) (p : MmaOp) : TileRead Line :=
  let f := pairOf p.fmt
  if 16 ≤ p.fmt then readSparse n s p
  else readLine 1 (colBand n) f.b f.sb p.b p.sb (mshSB p.mshape) (mshN p.mshape) n s p

/-- Row m of A. -/
def readRow (m : Nat) (s : State) (p : MmaOp) : TileRead Line :=
  let f := pairOf p.fmt
  readLine 0 (rowBand m) f.a f.sa p.a p.sa (mshSA p.mshape) (mshM p.mshape) m s p

/-! ## Arithmetic of one element (R144 to R148) -/

/-- Products of a K-block or group: the pairs that are present. -/
def MmaOp.terms (p : MmaOp) (row col : Line) (b : Nat) : List (Nat × Nat × Nat) :=
  let u := (pairOf p.fmt).unit (mshKb p.mshape)
  (col.els.filter (fun e => e.1 / u == b)).filterMap (fun e => (row.els.lookup e.1).map (fun x => (e.1, x, e.2)))

/-- Sum of a block or group of an f32 pair (R146, R147): infinities of both signs are invalid even beside a NaN. -/
def MmaOp.blockSum (p : MmaOp) (row col : Line) (ts : List (Nat × Nat × Nat)) : Fv × Flags :=
  let f := pairOf p.fmt
  let j (k : Nat) : Nat := k / mshKb p.mshape
  let ps := ts.map (fun t => (f.a.number p.fzi f.sa (row.scales.getD (j t.1) 0x20) t.2.1).mul
    (f.b.number p.fzi f.sb (col.scales.getD (j t.1) 0x20) t.2.2))
  let vs := ps.map (·.1)
  let both := vs.contains (.inf true) && vs.contains (.inf false)
  let r := Fv.sum .rne vs
  (r.1, ps.foldl (fun g q => g ||| q.2) (r.2 ||| flagNV.when both))

/-- One output element from its prior code (0 without ACC), with its flags (R144 to R148, R258). -/
def MmaOp.element (p : MmaOp) (row col : Line) (prior : Nat) : Nat × Flags :=
  let f := pairOf p.fmt
  let u := f.unit (mshKb p.mshape)
  let blocks := ((List.range (ceilDiv (mshK p.mshape) u)).map (p.terms row col)).filter (fun ts => !ts.isEmpty)
  if f.isInt then
    let val (t : ElTy) (c : Nat) : Int := match t with
      | .int sg w => intVal sg w c
      | _ => 0
    blocks.foldl (fun (acc : Nat × Flags) ts =>
      let r := accInt p.sat acc.1 (ts.foldl (fun v t => v + val f.a t.2.1 * val f.b t.2.2) 0)
      (r.1, acc.2 ||| r.2)) (prior, 0)
  else
    let start := if p.wout = 16 then prior * 65536 else prior
    let acc := blocks.foldl (fun (acc : Nat × Flags) ts =>
      let r := accAdd p.fzo p.sat acc.1 (p.blockSum row col ts)
      (r.1, acc.2 ||| r.2)) (start, 0)
    if p.wout = 16 then
      let r := fBF16.give { mode := modeOf p.rnd, sat := p.sat, fzo := p.fzo } (fF32.read false acc.1)
      (r.1, acc.2 ||| r.2)
    else acc

/-- Does an element take a poisoned product (R431)? -/
def MmaOp.taints (p : MmaOp) (row col : Line) : Bool :=
  let kb := mshKb p.mshape
  col.els.any (fun e => row.bad.contains e.1 || col.bad.contains e.1 || row.badScale.contains (e.1 / kb) || col.badScale.contains (e.1 / kb))

/-! ## Row segments (R256, R258, R260) -/

/-- Output interval of a row segment: core, first bit, past its last bit. -/
def MmaOp.segment (p : MmaOp) (tn m : Nat) : Nat × Nat × Nat :=
  let q := p.place m (128 * tn)
  (q.1, q.2, q.2 + 128 * p.wout)

/-- Do two row segments share a bit? -/
def segMeet (x y : Nat × Nat × Nat) : Bool := x.1 == y.1 && decide (x.2.1 < y.2.2) && decide (y.2.1 < x.2.2)

/-- The row segments of a tile-task. -/
def MmaOp.tileSegs (p : MmaOp) (tm tn : Nat) : List (Nat × Nat × Nat) := (List.range 128).map (fun i => p.segment tn (128 * tm + i))

/-- Was a word of row m's segment written by another row of the same instruction (R256)? -/
def MmaOp.rewritten (p : MmaOp) (tm tn m core bit : Nat) : Bool :=
  let tns := Wbits p.mshape 17 12 + 1
  let mine := tm * tns + tn
  (List.range (mine + 1)).any (fun t =>
    (List.range 128).any (fun i =>
      let m' := 128 * (t / tns) + i
      (t < mine || m' < m) && segMeet (p.segment (t % tns) m') (core, bit, bit + 64)))

/-- Where a segment overlaps a row written before, each word is the new one or the old one (R256, log 16). -/
def MmaOp.blend (p : MmaOp) (fresh tm tn m old new : Nat) : Nat :=
  let sg := p.segment tn m
  (List.range (2 * p.wout)).foldl (fun v i =>
    let w := if p.rewritten tm tn m sg.1 (sg.2.1 + 64 * i) && !Config.overlapWins (fresh * 64 + i) then old else new
    v + (w >>> (64 * i)) % 2 ^ 64 * 2 ^ (64 * i)) 0

/-- The values of a row segment: the packed elements, the flags, and the elements that are poisoned. -/
def rowSegment (tn m : Nat) (prior : Nat) (badPrior : List (Nat × Nat)) (s : State) (p : MmaOp) : TileRead (Nat × Flags × List Nat) :=
  let w := p.wout
  let pri (n : Nat) : Nat := (prior >>> (n * w)) % 2 ^ w
  if p.fmt = 32 then
    .got s p ((List.range 128).foldl (fun v n => v + p.a.toNat % 2 ^ w * 2 ^ (n * w)) 0, 0, [])
  else
    (readRow m s p).bind (fun s p row =>
      (tileList (fun n s p => readCol (128 * tn + n) s p) (List.range 128) s p).bind (fun s p cols =>
        let es := (cols.zip (List.range 128)).map (fun c => (p.element row c.1 (pri c.2), p.taints row c.1 || (runBad 0 128 w badPrior).contains c.2))
        .got s p ((es.zip (List.range 128)).foldl (fun v e => v + e.1.1.1 % 2 ^ w * 2 ^ (e.2 * w)) 0,
          es.foldl (fun g e => g ||| e.1.2) 0,
          ((es.zip (List.range 128)).filter (fun e => e.1.2)).map (·.2))))

/-! ## The yard, the engines and the end (R259, R260, R364, R368, R431) -/

/-- The operation of a handle in a cluster's tile generator. -/
def State.mmaOf (s : State) (cl : Nat) (h : Word) : Option MmaOp := (s.cluster cl).gen.find? (fun p => p.handle == h)

/-- Replace an operation. -/
def State.putMma (s : State) (cl : Nat) (p : MmaOp) : State :=
  s.modCluster cl (fun c => { c with gen := c.gen.map (fun q => if q.handle = p.handle then p else q) })

/-- Drop the tile-tasks of stopped operations that no engine has begun. -/
def Cluster.dropStopped (c : Cluster) : Cluster :=
  let gone := c.tiles.filter (fun t => c.gen.any (fun p => p.handle == t.handle && p.stopped))
  gone.foldl (fun c t => c.freeRec t.yr) { c with tiles := c.tiles.filter (fun t => !gone.contains t) }

/-- Completion word of matrix work (R259). -/
def MmaOp.word (p : MmaOp) : Word :=
  wordOfNat (b2n (p.cancel && decide (p.ran < mshTiles p.mshape)) * 2 ^ 63 + b2n p.den * 2 ^ 62 + p.flg.toNat * 2 ^ 48 + p.ran % 2 ^ 13)

/-- Is there nothing left of an operation to place or to run? -/
def Cluster.mmaOver (c : Cluster) (p : MmaOp) : Bool :=
  (p.stopped || p.placed == mshTiles p.mshape) && (c.tilesOf p.handle).isEmpty

/-- Remove an operation from its generator. -/
def Cluster.endMma (c : Cluster) (h : Word) : Cluster := { c with gen := c.gen.filter (fun q => q.handle != h) }

/-- Release the pins of the bands of an operation that no tile-task has still to read. -/
def State.releaseBands (s : State) (cl : Nat) (p : MmaOp) : State :=
  s.unfetch (fun h => h / 2 ^ 16 == p.handle.toNat && (s.cluster cl).bandOver p (h % 2 ^ 16))

/-- Resolve the operations of a list that are over (R259, R431). -/
def resolveMmas (cl : Nat) : List MmaOp → State → State
  | [], s => s
  | p :: ps, s =>
    resolveMmas cl ps (if !(s.cluster cl).mmaOver p then s
      else
        let s := ((s.modCluster cl (fun c => c.endMma p.handle)).dropFwds p.handle.toNat).unfetch (fun h => h / 2 ^ 16 == p.handle.toNat)
        match p.failed with
        | some w => s.engFail p.rights.cx 7 cl p.rights.ident p.handle w
        | none =>
          if p.tainted then s.engFail p.rights.cx 7 cl p.rights.ident p.handle (failureWord 0x2 0x11 p.ran)
          else s.engResolve p.rights.cx p.handle p.word)

/-- Drop what is stopped and resolve what is over. -/
def State.settleMma (s : State) (cl : Nat) : State :=
  let s := s.modCluster cl Cluster.dropStopped
  resolveMmas cl (s.cluster cl).gen s

/-- Place the next tile-task of the generator, in issue order, tn fastest (R258, R365, R368); the last one frees the
instruction's place (R374). -/
def State.placeTile (s : State) (cl : Nat) : State :=
  let c := s.cluster cl
  match c.gen.find? MmaOp.unplaced with
  | none => s
  | some p =>
    match (if c.mayTake s.cycle 2 then c.recordFor 32 1 else none) with
    | none => s
    | some k =>
      let nt := Wbits p.mshape 17 12 + 1
      let t : Tile := { handle := p.handle, tm := p.placed / nt, tn := p.placed % nt, yr := k, ord := c.nextOrd }
      let r : YRec := { uid := p.handle.toNat, kind := .tile, base := p.prio, place := .tile, since := s.cycle }
      let free (c : Cluster) : Cluster := if p.placed + 1 = mshTiles p.mshape then c.placeFree 4 1 else c
      ((s.take cl 2).modCluster cl (fun c => { (free c).spendGrant 1 k with tiles := c.tiles ++ [t], nextOrd := c.nextOrd + 1, yard := aset c.yard k r })).putMma cl
        { p with placed := p.placed + 1 }

/-- TILE_PLACE in cluster i. -/
def execTilePlace (s : State) : Result := s.event (fun x s => some ((s.settleMma x.i).placeTile x.i))

/-- Full/empty granules of the slice records that a tile-task reads of a window operand (R255, R260). -/
def windowGrans (cl : Nat) (base : Word) (t : ElTy) (scaled : Bool) (R first : Nat) (v : Word) : List Nat :=
  if !base.getLsbD 63 then []
  else (List.range (mshNblk v)).flatMap (fun j =>
    let rl := recLen (mshKb v) t.width scaled
    let core := cl * 64 + (Wbits base 43 38 + j) % 64
    (List.range 128).flatMap (fun i =>
      let inc := Wbits base 22 0 + (j / 64 * R + first + i) * rl
      (List.range (rl / 128)).map (fun g => granuleId core (Wbits base 62 60) (inc + 128 * g))))

/-- Do both conditions of R260 hold for a tile-task? -/
def State.tileReady (s : State) (cl : Nat) (t : Tile) : Bool :=
  match s.mmaOf cl t.handle with
  | none => false
  | some p =>
    let f := pairOf p.fmt
    let v := p.mshape
    let need := if p.fmt = 32 then [] else
      windowGrans cl p.a f.a f.sa (mshM v) (128 * t.tm) v ++ (if 16 ≤ p.fmt then [] else windowGrans cl p.b f.b f.sb (mshN v) (128 * t.tn) v)
    let c := s.cluster cl
    let earlier := (c.tiles ++ c.engines.toList.filterMap id).filter (fun u => decide (u.ord < t.ord))
    let mine := p.tileSegs t.tm t.tn
    need.all s.granFull && earlier.all (fun u => match s.mmaOf cl u.handle with
      | none => true
      | some q => !(q.tileSegs u.tm u.tn).any (fun y => mine.any (segMeet y)))

/-- Priority of a tile-task: its instruction's base priority (R260). -/
def State.tilePrio (s : State) (cl : Nat) (t : Tile) : Nat := match s.mmaOf cl t.handle with
  | some p => p.prio.toNat
  | none => 0

/-- The tile-task to send to an engine: highest priority, then oldest by issue order. -/
def State.nextTile (s : State) (cl : Nat) : Option Tile :=
  ((s.cluster cl).tiles.filter (s.tileReady cl)).foldl (fun (b : Option Tile) t => match b with
    | none => some t
    | some u => if s.tilePrio cl u < s.tilePrio cl t ∨ (s.tilePrio cl u = s.tilePrio cl t ∧ t.ord < u.ord) then some t else b) none

/-- Engine e of a cluster. -/
def Cluster.engine (c : Cluster) (e : Nat) : Option Tile := c.engines[e % 4]'(Nat.mod_lt _ (by decide))

/-- Set an engine. -/
def Cluster.setEngine (c : Cluster) (e : Nat) (t : Option Tile) : Cluster := { c with engines := c.engines.set (e % 4) t (Nat.mod_lt _ (by decide)) }

/-- TILE_TASK_DISPATCH in cluster i: the lowest free engine takes the next eligible tile-task (R260). -/
def execTileTaskDispatch (s : State) : Result :=
  s.event (fun x s =>
    let s := s.settleMma x.i
    match (List.range 4).find? (fun e => ((s.cluster x.i).engine e).isNone), s.nextTile x.i with
    | some e, some t => some (s.modCluster x.i (fun c => { c with tiles := c.tiles.filter (fun u => u.ord != t.ord) }.setEngine e (some t)))
    | _, _ => some s)

/-- A fault stops the tile-task; a broken CSR column stops all of its instruction (R431). -/
def State.stopTile (s : State) (cl e : Nat) (p : MmaOp) (w : Word) : State :=
  let all := Wbits w 59 52 == 0x04
  let s := s.putMma cl { p with failed := some (p.failed.getD w) }
  s.modCluster cl (fun c =>
    { c with engines := Vector.ofFn (fun (i : Fin 4) => (c.engines[i]).map (fun t =>
        if i.val = e % 4 ∨ (all ∧ t.handle = p.handle) then { t with stop := true } else t)) })

/-- Write the next row segment of the tile-task on an engine. -/
def State.writeRow (s : State) (cl e : Nat) (t : Tile) (p : MmaOp) : State :=
  let m := 128 * t.tm + t.row
  let sg := p.segment t.tn m
  let n := 128 * p.wout
  let addr := windowAddr 2 (64 * cl + sg.1) sg.2.1
  match tileBits 0 0 addr n s p with
  | .hold s => s
  | .fault s w => s.stopTile cl e p w
  | .got s p old =>
    let prior := if Wbit p.mshape 4 && p.fmt != 32 then old else (0, [])
    match rowSegment t.tn m prior.1 prior.2 s p with
    | .hold s => s
    | .fault s w => s.stopTile cl e p w
    | .got s p (v, g, bad) =>
      let hit (q : Part) : Bool := bad.any (fun k => decide (k * p.wout < q.pos + q.len) && decide (q.pos < k * p.wout + p.wout))
      match s.engWrite p.agent 5 p.logged addr n (p.blend s.fresh t.tm t.tn m old.1 v) hit with
      | .hold s => s
      | .fault s f => s.stopTile cl e p (faultWord 0x2 0 f)
      | .done s _ seen gs _ =>
        let s := (s.fillGrans gs).dropFwds p.handle.toNat
        (s.putMma cl { p with flg := p.flg ||| g, tainted := p.tainted || !bad.isEmpty, logged := seen }).modCluster cl
          (fun c => c.setEngine e (some { t with row := t.row + 1 }))

/-- ROW_SEGMENT_WRITE on engine k of cluster i (R258). -/
def execRowSegmentWrite (s : State) : Result :=
  s.event (fun x s =>
    match (s.cluster x.i).engine x.k with
    | none => none
    | some t =>
      match s.mmaOf x.i t.handle with
      | none => none
      | some p => if t.stop || decide (128 ≤ t.row) then none else some (s.writeRow x.i x.k t p))

/-- TILE_TASK_END on engine k of cluster i: the record is freed, and the future resolves with the last (R259, R431). -/
def execTileTaskEnd (s : State) : Result :=
  s.event (fun x s =>
    match (s.cluster x.i).engine x.k with
    | none => none
    | some t =>
      if !t.stop && decide (t.row < 128) then none
      else
        let s := s.modCluster x.i (fun c => (c.freeRec t.yr).setEngine x.k none)
        let s := match s.mmaOf x.i t.handle with
          | some p => (if t.stop then s else s.putMma x.i { p with ran := p.ran + 1 }).releaseBands x.i p
          | none => s
        some ((s.settleMma x.i).serveHerds x.i))

end Sys2Proof.Machine
end

