-- ==== Sys2Proof/Machine/Mason.lean ====
section
/-!
DEFINITION. The attention sequencer (R340 to R355, R439, R440): the instructions of page 16, mason jobs, and the
micro-operations.
-/

namespace Sys2Proof.Machine

/-! ## Parameters (R345 to R347) -/

/-- Word k of a job's parameter record. -/
def Job.word (j : Job) (k : Nat) : Word := j.params.getD k 0

/-- Fields of the parameter record. -/
def Job.sl (j : Job) : Nat := Wbits (j.word 0) 31 0
def Job.head (j : Job) : Nat := Wbits (j.word 2) 11 0
def Job.mode (j : Job) : Nat := Wbits (j.word 5) 57 56
def Job.rows (j : Job) : Nat := Wbits (j.word 5) 51 45 + 1
def Job.dim (j : Job) : Nat := 64 * 2 ^ Wbits (j.word 5) 53 52
def Job.fmt (j : Job) : Fmt := if (j.word 5).getLsbD 54 then fE4M3 else fBF16
def Job.width (j : Job) : Nat := if (j.word 5).getLsbD 54 then 8 else 16
def Job.wout (j : Job) : Nat := if (j.word 5).getLsbD 55 then 16 else 32
def Job.cka (j : Job) : Word := j.word 7

/-- Tokens of a page, and pages of the job. -/
def Job.pageTokens (j : Job) : Nat := 2 ^ 19 / (j.dim * j.width)
def Job.pages (j : Job) : Nat := ceilDiv j.sl j.pageTokens

/-- Rows per core of the job's map, and the bits of one output row. -/
def Job.perCore (j : Job) : Nat := if j.map.g = 0 then ceilDiv j.rows 64 else j.map.g
def Job.outLen (j : Job) : Nat := if j.map.rs = 0 then j.dim * j.wout else j.map.rs

/-- Core within the cluster of row i (R256). -/
def Job.core (j : Job) (i : Nat) : Nat := (j.map.cb + j.map.cs * (i / max 1 j.perCore)) % 64

/-- C offsets of row i: its output, its O buffer b, its score area (R347). -/
def Job.outAt (j : Job) (i : Nat) : Nat := j.map.ob + j.outLen * (i % max 1 j.perCore)
def Job.bufAt (j : Job) (b i : Nat) : Nat :=
  128 * (if b = 0 then Wbits (j.word 6) 63 50 else Wbits (j.word 6) 49 36) + 32 * j.dim * (i % max 1 j.perCore)
def Job.scoreAt (j : Job) (i : Nat) : Nat := 128 * Wbits (j.word 6) 35 22 + 32 * j.pageTokens * (i % max 1 j.perCore)

/-- Is an f32 code finite? -/
def finite32 (c : Nat) : Bool := bits c 30 23 != 255

/-- Is the record valid, as far as the job itself says (R345)? The stream and the map slot are looked up beside it. -/
def Job.valid (j : Job) (s : State) (cl : Nat) : Bool :=
  let last := min (max 1 j.perCore) j.rows - 1
  let qa := j.word 1
  let qok := if !qa.getLsbD 63 then true
    else Wbits qa 62 60 == 1 && !qa.getLsbD 37 && (match s.placeWin qa with | some w => w.pkg == s.sys.self && w.core / 64 == cl | none => false)
  j.mode != 3 && Wbits (j.word 5) 53 52 != 3 && Wbits (j.word 5) 41 0 == 0 && Wbits (j.word 6) 21 0 == 0 && j.sl != 0 &&
  (j.mode != 2 || Wbits (j.word 4) 31 0 != 0) && finite32 (Wbits (j.word 3) 63 32) && finite32 (Wbits (j.word 3) 31 0) &&
  !(j.word 3).getLsbD 31 && Wbits (j.word 3) 30 0 != 0 && qok && Wbits j.cka 63 62 == 0 && Wbits j.cka 5 0 == 0 &&
  decide (j.outAt last + j.dim * j.wout ≤ 2 ^ 21) && decide (j.bufAt 0 last + 32 * j.dim ≤ 2 ^ 21) &&
  decide (j.bufAt 1 last + 32 * j.dim ≤ 2 ^ 21) && decide (j.scoreAt last + 32 * j.pageTokens ≤ 2 ^ 21)

/-! ## Page 16 (R351 to R354) -/

/-- Change the mason of a cluster. -/
def State.modMason (s : State) (cl : Nat) (f : Mason → Mason) : State := s.modCluster cl (fun c => { c with mason := f c.mason })

/-- The jobs that are queued: not an ALOAD whose turn has come (R354). -/
def Mason.queued (m : Mason) : List Job := m.queue.filter (fun j => !j.begun)

/-- May a job enter the queue? -/
def State.masonRoom (s : State) (cl uid : Nat) : Bool :=
  let C := s.cluster cl
  decide (C.mason.queued.length < 16) || (C.placeFor 34 uid && decide (C.mason.queued.length < 17))

/-- Issue of a job. -/
def State.jobIssue (s : State) (c : Cur) (o : Ops) (locks : List RangeLock) (j : Job) : Res :=
  let cl := clusterOf c.cx
  s.engIssue c o.d 0x3 locks (s.masonRoom cl (s.ctx c.cx).uid) queueMason
    (fun h s => s.modMason cl (fun m => { m with queue := m.queue ++ [{ j with handle := h, rights := s.rightsOf c.cx }] }))

/-- ALOAD (R352). -/
def execAload (o : Ops) (s : State) : Result :=
  s.run coreOnly (srcAB o) (fun c s =>
    let x := s.me c
    let b := x.readS o.b
    s.jobIssue c o [] { load := true, src := x.readS o.a, first := Wbits b 26 16, count := Wbits b 11 0 })

/-- The completion word of a job (R353). -/
def jobWord (cxl den : Bool) (stat : Nat) (flg : BitVec 6) (pgs : Nat) : Word :=
  wordOfNat (b2n cxl * 2 ^ 63 + b2n den * 2 ^ 62 + stat * 2 ^ 60 + flg.toNat * 2 ^ 48 + pgs % 2 ^ 32)

/-- AGO (R345, R353): the record is read and judged at issue. One that must wait for its range lock reads the record again
then. -/
def execAgo (o : Ops) (s : State) : Result :=
  s.run coreOnly (srcAB o) (fun c s =>
    let x := s.me c
    let cl := clusterOf c.cx
    let a := x.readS o.a
    let b := x.readS o.b
    if x.rcount ≠ 0 then .wait s .other 0
    else if !s.masonRoom cl x.uid then .wait s .other (wordOfNat queueMason)
    else if a.getLsbD 63 ∨ Wbits a 5 0 ≠ 0 then s.givenAtOnce c o.d (jobWord false false 3 0 0)
    else
      let ag := engineAgent (s.rightsOf c.cx)
      let (t, seen, r) := s.engRead ag 8 [] a 512
      let den := r.parts.any (·.denied)
      if r.hold then .wait t .other 0
      else if r.fault.isSome || r.poison then (logDenials ag 8 r.parts seen t).1.givenAtOnce c o.d (jobWord false den 3 0 0)
      else
        let early := s.dropFwds x.uid
        let s := t
        let v := s.engVal ag r.parts
        let j : Job :=
          { rights := s.rightsOf c.cx, first := Wbits b 10 0, res := b.getLsbD 16, den := den
            params := (List.range 8).map (fun i => wordOfNat (v >>> (64 * i))) }
        match s.mapFor cl x.uid (Wbits (j.word 5) 63 58), (s.cluster cl).streams.find j.stream with
        | some m, some _ =>
          let j := { j with map := m }
          if j.valid s cl then
            let qa := j.word 1
            match s.jobIssue c o (if Wbits qa 63 62 = 0 then [s.lockEntry false qa (j.rows * j.dim * j.width)] else []) j with
            | .wait _ k w => .wait early k w
            | issued => issued
          else s.givenAtOnce c o.d (jobWord false den 3 0 0)
        | _, _ => s.givenAtOnce c o.d (jobWord false den 3 0 0))

/-- What ASTAT reports of a queued job: its micro pc is the entry word (R354). An ALOAD whose turn has come runs, with no micro pc. -/
def Mason.waiting (m : Mason) (h : Word) : Word :=
  match m.queue.find? (fun j => j.handle == h) with
  | some j => if j.begun then wordOfNat (2 * 2 ^ 62) else wordOfNat (2 ^ 62 + j.first % 2048 * 2 ^ 32)
  | none => 0

/-- What ASTAT reports of a handle, or with handle 0 of the queue (R354). -/
def Mason.report (m : Mason) (h : Word) : Word :=
  if h = 0 then wordOfNat (m.queued.length * 2 ^ 48 + b2n (m.run.isSome || m.queue.any (·.begun)) * 2 ^ 47)
  else match m.run with
    | some r =>
      if r.job.handle = h then wordOfNat (2 * 2 ^ 62 + (r.upc % 2048).toNat * 2 ^ 32 + r.pgs)
      else m.waiting h
    | none => m.waiting h

/-- ASTAT (R354). -/
def execAstat (o : Ops) (s : State) : Result :=
  s.run coreOnly (srcA o) (fun c s =>
    if (s.me c).rcount ≠ 0 then .wait s .other 0
    else s.givenAtOnce c o.d ((s.cluster (clusterOf c.cx)).mason.report ((s.me c).readS o.a)))

/-- Resolve a job. -/
def State.jobDone (s : State) (j : Job) (v : Word) : State := (s.engResolve j.rights.cx j.handle v).dropFwds j.handle.toNat

/-- The word of a job stopped before it ran or at a boundary (R350, R353, R355). -/
def Job.stopWord (j : Job) (den : Bool) (flg : BitVec 6) (pgs : Nat) : Word :=
  if j.stop then jobWord false den 2 flg pgs else jobWord true den 1 flg pgs

/-- ASTOP (R354): a queued job leaves the queue; a running one stops at its next boundary, and ASTOP resolves after it. -/
def execAstop (o : Ops) (s : State) : Result :=
  s.run coreOnly (srcA o) (fun c s =>
    let cl := clusterOf c.cx
    let h := (s.me c).readS o.a
    let m := (s.cluster cl).mason
    let mine (j : Job) : Bool := j.handle == h && !j.load
    if (s.me c).rcount ≠ 0 then .wait s .other 0
    else match m.queue.find? mine with
      | some j =>
        if j.rights.ident ≠ (s.me c).csrs.ident then s.givenAtOnce c o.d 2
        else ((s.modMason cl (fun m => { m with queue := m.queue.filter (fun j => !mine j) })).jobDone j (jobWord true j.den 1 0 0)).givenAtOnce c o.d 0
      | none =>
        match m.run with
        | none => s.givenAtOnce c o.d 1
        | some r =>
          if !mine r.job then s.givenAtOnce c o.d 1
          else if r.job.rights.ident ≠ (s.me c).csrs.ident then s.givenAtOnce c o.d 2
          else s.engIssue c o.d 0x3 [] true 0 (fun h s => s.modMason cl (fun m => { m with
            run := m.run.map (fun (r : JobRun) => { r with job := { r.job with cancel := true }, stops := r.stops ++ [h] }) })))

/-! ## The start and the end of a job (R340, R352, R440) -/

/-- The tile-task of a micro-operation ends, and frees its record (R364). -/
def State.endTile (s : State) (cl : Nat) (r : JobRun) : State :=
  match r.tile with
  | some k => (s.modCluster cl (fun c => c.freeRec k)).serveHerds cl
  | none => s

/-- End the running job with a word, failed or not, and the ASTOP futures that wait for it. -/
def State.endRun (s : State) (cl : Nat) (r : JobRun) (v : Word) (failed : Bool) : State :=
  let s := (s.modMason cl (fun m => { m with run := none })).endTile cl r
  let s := if failed then (s.engFail r.job.rights.cx 8 cl r.job.rights.ident r.job.handle v).dropFwds r.job.handle.toNat else s.jobDone r.job v
  r.stops.foldl (fun s h => s.resolve h (b2w (!(r.job.cancel && !failed))) false) s

/-- The words of an image go to the control store; their parity is good again. -/
def Mason.load (m : Mason) (first : Nat) (ws : List Word) : Mason :=
  { m with
    store := (ws.zipIdx first).foldl (fun (t : Assoc Word) x => if x.1 = 0 then adel t x.2 else aset t x.2 x.1) m.store
    parity := m.parity.filter (fun k => decide (k < first) || decide (first + ws.length ≤ k)) }

/-- An ALOAD whose turn has come. -/
def State.runLoad (s : State) (cl : Nat) (j : Job) : State :=
  let drop (s : State) : State := s.modMason cl (fun m => { m with queue := m.queue.filter (fun q => q.handle != j.handle) })
  let fail (s : State) (w : Word) : State := ((drop s).engFail j.rights.cx 8 cl j.rights.ident j.handle w).dropFwds j.handle.toNat
  if j.count = 0 ∨ 2048 < j.first + j.count ∨ Wbits j.src 5 0 ≠ 0 then (drop s).jobDone j 1
  else
    let ag : Agent := { opAgent j.rights j.handle with wins := [1, 2], away := false, only := some cl }
    let (s, _, r) := s.engRead ag 8 [] j.src (64 * j.count)
    if r.hold then s.modMason cl (fun m => { m with queue := m.queue.map (fun q => if q.handle = j.handle then { q with begun := true } else q) })
    else match r.fault with
      | some t => fail s (faultWord 0x3 0 t)
      | none =>
        match r.parts.find? (fun p => !p.denied && ((p.own == s.sys.self && s.poisoned p.key) || poisonedPart s ag.rights.uid p)) with
        | some p => fail s (failureWord 0x3 0x11 (p.pos / 64))
        | none =>
          let v := s.engVal ag r.parts
          let ws := (List.range j.count).map (fun i => wordOfNat (v >>> (64 * i)))
          ((drop s).modMason cl (fun m => m.load j.first ws)).jobDone j (wordOfNat (b2n r.den * 2 ^ 62))

/-- MASON_JOB_START in cluster i: a queued job that is stopped leaves; else, with none running, the oldest begins (R340,
R352, R355). -/
def execMasonJobStart (s : State) : Result :=
  s.event (fun x s =>
    let cl := x.i % 16
    let m := (s.cluster cl).mason
    let s := if m.queue.isEmpty then s else s.modCluster cl (fun c => c.placeFree 34 2)
    match m.queue.find? (fun j => j.stop || j.cancel) with
    | some j =>
      some ((s.modMason cl (fun m => { m with queue := m.queue.filter (fun q => q.handle != j.handle) })).jobDone j (j.stopWord j.den 0 0))
    | none =>
      match m.run, m.queue with
      | none, j :: rest =>
        if j.load then some (s.runLoad cl j)
        else some (s.modMason cl (fun m => { m with
          queue := rest, run := some { job := j, upc := j.first, rows := List.replicate j.rows {}, den := j.den } }))
      | _, _ => none)

/-! ## Running a micro-operation (R342, R343, R440) -/

/-- What a micro-operation comes to. -/
inductive MicroRes where
  /-- done: the job, at its next word -/
  | go (s : State) (r : JobRun)
  /-- not done yet, with the job as it stands -/
  | more (s : State) (r : JobRun)
  | hold (s : State)
  | fail (s : State) (w : Word)
  | finish (s : State) (r : JobRun)

/-- The next word. -/
def JobRun.next (r : JobRun) : JobRun := { r with upc := r.upc + 1 }

/-- A register of the job: g0 reads as zero. -/
def JobRun.read (r : JobRun) (k : BitVec 4) : Word := if k = 0 then 0 else r.g[k.toNat]'k.isLt
def JobRun.write (r : JobRun) (k : BitVec 4) (v : Word) : JobRun := if k = 0 then r else { r with g := r.g.set k.toNat v k.isLt }

/-- IMM, read signed. -/
def simm (m : Micro) : Word := m.imm.signExtend 64

/-- Run a micro-operation of the job that the mason of the present turn runs. The job's end, failed or not, waits for the
acknowledgements of its stores (R280, R341); what it read of other packages is read anew by the next micro-operation. -/
def State.micro (s : State) (f : Nat → JobRun → State → MicroRes) : Result :=
  match s.cur with
  | .mason cl =>
    match (s.cluster cl).mason.run with
    | none => .fault .notInTurn
    | some r =>
      .next (match f cl r s with
        | .go s q => ((s.endTile cl r).dropFwds r.job.handle.toNat).modMason cl (fun m => { m with run := some { q with tile := none } })
        | .more s q => s.modMason cl (fun m => { m with run := some q })
        | .hold s => s
        | .fail t w => if s.engSettled r.job.handle then t.endRun cl r w true else s
        | .finish s r => s.endRun cl r (jobWord false r.den 0 r.flg r.pgs) false)
  | _ => .fault .notInTurn

/-- What the turn of a mason comes to: a state, or the micro-operation to run. -/
inductive MasonTurn where
  | done (s : State)
  | run (i : Instr)

/-- The turn of a mason: a job told to stop, or one that has lost a store at another package (R428), ends at this boundary; else its next word is read (R343, R350, R440). An end
waits for the acknowledgements of the job's stores (R341). -/
def State.masonTurn (s : State) (cl : Nat) : MasonTurn :=
  let m := (s.cluster cl).mason
  match m.run with
  | none => .done s
  | some r =>
    let stop := (r.job.stop || r.job.cancel) && r.chk.isNone
    let bad := decide (r.upc < 0 ∨ 2048 ≤ r.upc)
    let k := r.upc.toNat
    let word := decodeMicro ((aget m.store k).getD 0)
    if (stop || bad || (m.parity.contains k && r.chk.isNone) || word.isNone || r.lost.isSome) && !s.engSettled r.job.handle then .done s
    else if r.lost.isSome then .done (s.endRun cl r (r.lost.getD 0) true)
    else if stop then .done (s.endRun cl r (r.job.stopWord r.den r.flg r.pgs) false)
    else if bad then .done (s.endRun cl r (failureWord 0x3 0x21 (r.upc % 4096).toNat) true)
    else if m.parity.contains k && r.chk.isNone then
      .done (((s.logRec 0x31 8 cl r.job.rights.ident 0 (wordOfNat k)).notify cl).endRun cl r (failureWord 0x3 0x22 k) true)
    else match word with
      | some i => .run i
      | none => .done (s.endRun cl r (failureWord 0x3 0x20 k) true)

/-! ## The C areas (R347) -/

/-- Byte key of a C place. -/
def cKey (cl core inc : Nat) : Nat := windowKey (cl * 64 + core) 2 inc

/-- n f32 codes from a C place. -/
def State.cRead (s : State) (cl core inc n : Nat) : List Nat :=
  let v := memBytes s.mem (4 * n) (cKey cl core inc)
  (List.range n).map (fun i => (v >>> (32 * i)) % 2 ^ 32)

/-- The failure that a poisoned word of a C area gives the job (R421, R428). -/
def State.cBad (s : State) (cl core inc n : Nat) : Option Word :=
  let k := cKey cl core inc
  (s.poison.find? (fun a => decide (k ≤ a) && decide (a < k + 4 * n))).map (fun a =>
    failureWord 0x3 0x11 (faultField 0 (windowAddr 2 (cl * 64 + core) (inc + (a - k) * 8))))

/-- Codes of w bits packed into words. -/
def packCodes (w : Nat) (cs : List Nat) : List Word :=
  let v := (cs.zipIdx).foldl (fun (v : Nat) x => v + x.1 % 2 ^ w * 2 ^ (w * x.2)) 0
  (List.range (ceilDiv (w * cs.length) 64)).map (fun i => wordOfNat (v >>> (64 * i)))

/-- Write codes to a C place. -/
def State.cWrite (s : State) (cl core inc w : Nat) (cs : List Nat) : State :=
  let k := cKey cl core inc
  ({ s with mem := memSetWords s.mem k (packCodes w cs) } : State).unpoison k (w * cs.length / 8)

/-- Work on every row in turn: the rows, and the flags. -/
def eachRow (f : Nat → RowState → State → Except Word (State × RowState × Flags)) :
    Nat → List RowState → State → Flags → Except Word (State × List RowState × Flags)
  | _, [], s, g => .ok (s, [], g)
  | i, x :: xs, s, g =>
    match f i x s with
    | .error w => .error w
    | .ok (s, x, h) =>
      match eachRow f (i + 1) xs s (g ||| h) with
      | .error w => .error w
      | .ok (s, xs, g) => .ok (s, x :: xs, g)

/-- A micro-operation that acts on every row. -/
def rowOp (f : Nat → Job → Nat → RowState → State → Except Word (State × RowState × Flags)) (cl : Nat) (r : JobRun) (s : State) : MicroRes :=
  match eachRow (f cl r.job) 0 r.rows s 0 with
  | .error w => .fail s w
  | .ok (t, rows, g) => .go t { r.next with rows := rows, flg := r.flg ||| g }

/-- A page micro-operation: with no page open it reads and changes nothing (R348). -/
def pageOp (f : Nat → JobRun → State → MicroRes) (cl : Nat) (r : JobRun) (s : State) : MicroRes :=
  if r.isOpen then f cl r s else .go s r.next

/-- f32 arithmetic with RNE (R348). -/
def rd32 (c : Nat) : Fv := fF32.read false c
def give32 (v : Fv × Flags) : Nat × Flags := let (c, g) := fF32.give {} v.1; (c, v.2 ||| g)
def mul32 (a b : Nat) : Nat × Flags := give32 ((rd32 a).mul (rd32 b))
def sub32 (a b : Nat) : Nat × Flags := give32 ((rd32 a).add .rne (rd32 b).neg)

/-- The greater of two f32 codes, with −0 below +0; NaN in either gives the canonical NaN (R232). -/
def max32 (a b : Nat) : Nat :=
  if rd32 a == .nan || rd32 b == .nan then fF32.nan
  else if Fv.lt (rd32 a) (rd32 b) then b
  else if Fv.same (rd32 a) (rd32 b) && bit a 31 then b else a

/-- Codes of −∞ and 1.0. -/
def negInf32 : Nat := 0xFF800000
def one32 : Nat := 0x3F800000

/-- The sum of products in groups of 32, added to an accumulator (R146). -/
def dotGroups : Nat → List (Fv × Fv) → Nat → Flags → Nat × Flags
  | 0, _, acc, g => (acc, g)
  | n + 1, ps, acc, g =>
    if ps.isEmpty then (acc, g)
    else
      let qs := (ps.take 32).map (fun p => p.1.mul p.2)
      let vs := qs.map (·.1)
      let both := vs.contains (.inf true) && vs.contains (.inf false)
      let r := Fv.sum .rne vs
      let (acc, h) := accAdd false false acc (r.1, qs.foldl (fun f q => f ||| q.2) (r.2 ||| flagNV.when both))
      dotGroups n (ps.drop 32) acc (g ||| h)

/-! ## MSINK and MPAGE (R346, R348, R350) -/

/-- The agent of a job: A and C of its cluster, with the identity and stream it was issued with (R67, R340). -/
def Job.agent (j : Job) (cl : Nat) : Agent := { opAgent j.rights j.handle with wins := [1, 2], away := false, only := some cl }

/-- The start of a job that does not resume. -/
def freshRows (cl : Nat) (r : JobRun) (x : BitVec 4) (s : State) : MicroRes :=
  let j := r.job
  let s := (List.range j.rows).foldl (fun s i => s.cWrite cl (j.core i) (j.bufAt 0 i) 32 (List.replicate j.dim 0)) s
  let sink : BitVec 32 := (j.word 3).extractLsb' 32 32
  .go s (({ r.next with rows := r.rows.map (fun q => { q with m := sink, l := 0x3F800000 }), buf := 0, p := 0, pgs := 0 } : JobRun).write x 0)

/-- MSINK (R348, R350). -/
def execMsink (m : Micro) (s : State) : Result :=
  s.micro (fun cl r s =>
    let j := r.job
    if !j.res ∨ j.cka = 0 then freshRows cl r m.x s
    else
      let ag := j.agent cl
      let (s, seen, h) := s.engRead ag 8 r.logged j.cka 128
      if h.hold then .hold s
      else match h.fault with
        | some t => .fail s (faultWord 0x3 3 t)
        | none =>
          if h.poison then .fail s (failureWord 0x3 0x11 (faultField 3 j.cka))
          else
            let v := s.engVal ag h.parts
            let w0 := wordOfNat v
            let r := { r with den := r.den || h.den, logged := seen }
            if !w0.getLsbD 63 ∨ v / 2 ^ 64 ≠ j.head * 2 ^ 32 + j.stream.toNat then freshRows cl r m.x s
            else
              let a := j.cka + 128
              let (s, seen, h) := s.engRead ag 8 r.logged a (64 * j.rows)
              if h.hold then .hold s
              else match h.fault with
                | some t => .fail s (faultWord 0x3 3 t)
                | none =>
                  if h.poison then .fail s (failureWord 0x3 0x11 (faultField 3 a))
                  else
                    let v := s.engVal ag h.parts
                    let p := Wbits w0 31 0
                    .go s (({ r.next with
                      rows := r.rows.zipIdx.map (fun (q : RowState × Nat) =>
                        { q.1 with m := BitVec.ofNat 32 (v >>> (64 * q.2)), l := BitVec.ofNat 32 (v >>> (64 * q.2 + 32)) })
                      buf := b2n (w0.getLsbD 32), p := p, pgs := 0, den := r.den || h.den, logged := seen } : JobRun).write m.x (wordOfNat p)))

/-- One page as MPAGE translates it: its frame and tag, or the failure that is held with it; none while the stream migrates. -/
def State.openPage (s : State) (cl : Nat) (sid : BitVec 32) (role page : Nat) : Option (Nat × Nat × Option Word) :=
  let x : Word := 0x4000000000000000 + wordOfNat (page * 2 ^ 19)
  match s.walkStream cl sid x .load with
  | .hold => none
  | .damaged _ => some (0, 0, some (failureWord 0x3 0x11 (faultField role x)))
  | .fault _ => some (0, 0, some (failureWord 0x3 0x10 (faultField role x)))
  | .found e => if s.memTop ≤ e.frame then some (0, 0, some (failureWord 0x3 0x14 (faultField role x))) else some (e.frame, e.tag, none)

/-- A translation of MPAGE that a damaged entry ends leaves its record (R413). -/
def State.openRec (s : State) (cl : Nat) (sid : BitVec 32) (ident : BitVec 24) (page : Nat) : State :=
  let x : Word := 0x4000000000000000 + wordOfNat (page * 2 ^ 19)
  match s.walkStream cl sid x .load with
  | .damaged a => s.damagedRec a ident x
  | _ => s

/-- The tag of a page of the job is checked; a denied one is logged once (R346). -/
def State.pageAllowed (s : State) (r : JobRun) (page frm tag : Nat) : State × JobRun × Bool :=
  match s.allowed (engineAgent r.job.rights) tag with
  | (s, true) => (s, r, true)
  | (s, false) =>
    let id := s.sys.self * 2 ^ 32 + frm / 2 ^ 16
    if r.logged.contains id then (s, { r with den := true }, false)
    else (s.denial r.job.rights.ident tag 8 r.job.rights.cx (0x4000000000000000 + wordOfNat (page * 2 ^ 19)) s.sys.self (frm / 2 ^ 16) false,
      { r with den := true, logged := id :: r.logged }, false)

/-- MPAGE (R346, R348). -/
def execMpage (m : Micro) (s : State) : Result :=
  s.micro (fun cl r s =>
    let j := r.job
    if j.pages ≤ r.p then .go s (({ r.next with isOpen := false } : JobRun).write m.x 0)
    else
      let off := j.head * Wbits (j.word 2) 27 12 + r.p
      let kp := Wbits (j.word 2) 63 46 + off
      let vp := Wbits (j.word 2) 45 28 + off
      match s.openPage cl j.stream 0 kp, s.openPage cl j.stream 1 vp with
      | some (kf, kt, ke), some (vf, vt, ve) =>
        let s := (s.openRec cl j.stream j.rights.ident kp).openRec cl j.stream j.rights.ident vp
        let (s, r, kok) := if ke.isSome then (s, r, true) else s.pageAllowed r kp kf kt
        let (s, r, vok) := if ve.isSome then (s, r, true) else s.pageAllowed r vp vf vt
        .go s (({ r.next with
          isOpen := true, masked := !(kok && vok), kfrm := kf, vfrm := vf, ktag := kt, vtag := vt, kfail := ke, vfail := ve
          rows := r.rows.map (fun q => { q with m' := q.m, s := 0 }) } : JobRun).write m.x
            (wordOfNat (min j.pageTokens (j.sl - r.p * j.pageTokens))))
      | _, _ => .hold s)

/-! ## The fold (R348, R349) -/

/-- Read n bytes of a page of the job, line by line with its tags; a denied line reads zeros, and poison is an error (R105,
R346, R439). -/
def pageBytes (role page tag : Nat) : Nat → Nat → Nat → State → JobRun → Except Word (State × JobRun × Nat)
  | 0, _, _, s, r => .ok (s, r, 0)
  | k + 1, a, n, s, r =>
    if n = 0 then .ok (s, r, 0)
    else
      let m := min n (128 - a % 128)
      let key := a / 128 * 128
      let ag := engineAgent r.job.rights
      let x : Word := 0x4000000000000000 + wordOfNat (page * 2 ^ 19)
      let had := s.lineTag ag key tag
      match s.allowed ag had with
      | (s, ok) =>
        match ok, s.poison.find? (fun q => decide (a / 8 * 8 ≤ q) && decide (q < a + m)) with
        | true, some q => .error (failureWord 0x3 0x11 (faultField role (x + wordOfNat (q % 2 ^ 16 * 8))))
        | _, _ =>
          let id := s.sys.self * 2 ^ 32 + a / 2 ^ 16
          let s := if ok then s.readLine ag.die none (key / 128) tag true
            else if r.logged.contains id then s
            else s.denial r.job.rights.ident had 8 r.job.rights.cx (x + wordOfNat (a % 2 ^ 16 * 8)) s.sys.self (a / 2 ^ 16) false
          let v := if ok then memBytes s.mem m a else 0
          let r := if ok then r else { r with den := true, logged := if r.logged.contains id then r.logged else id :: r.logged }
          match pageBytes role page tag k (a + m) (n - m) s r with
          | .error w => .error w
          | .ok (s, r, u) => .ok (s, r, v + u * 2 ^ (8 * m))

/-- May a micro-operation read a page now: none of its granules is in a stack whose memory cores are stopped (R384)? -/
def State.pageStands (s : State) (frm : Nat) : Bool :=
  s.boot.stackStop.isEmpty || (List.range 16).all (fun i => !s.stopped (frm + 4096 * i))

/-- The tokens of a page as numbers: a list of D for each token; zeros where the page is denied. -/
def pageTokensOf (role page frm tag : Nat) : Nat → Nat → State → JobRun → Except Word (State × JobRun × List (List Fv))
  | 0, _, s, r => .ok (s, r, [])
  | k + 1, t, s, r =>
    let j := r.job
    let n := j.dim * j.width / 8
    match (if r.masked then .ok (s, r, 0) else pageBytes role page tag (n / 128 + 2) (frm + t * n) n s r) with
    | .error w => .error w
    | .ok (s, r, v) =>
      match pageTokensOf role page frm tag k (t + 1) s r with
      | .error w => .error w
      | .ok (s, r, rest) => .ok (s, r, (List.range j.dim).map (fun d => j.fmt.read false (v >>> (j.width * d))) :: rest)

/-- How reading Q comes out. -/
inductive QRead where
  | ok (s : State) (r : JobRun) (rows : List (List Fv))
  | hold (s : State)
  | fail (s : State) (w : Word)

/-- Read rows of Q from row i on. -/
def readQ (cl : Nat) : Nat → Nat → State → JobRun → List (List Fv) → QRead
  | 0, _, s, r, acc => .ok s r acc.reverse
  | n + 1, i, s, r, acc =>
    let j := r.job
    let ag := j.agent cl
    let a := j.word 1 + wordOfNat (i * j.dim * j.width)
    let (s, seen, h) := s.engRead ag 8 r.logged a (j.dim * j.width)
    if h.hold then .hold s
    else match h.fault with
      | some t => .fail s (faultWord 0x3 2 t)
      | none =>
        if h.poison then .fail s (failureWord 0x3 0x11 (faultField 2 a))
        else
          let v := s.engVal ag h.parts
          readQ cl n (i + 1) s { r with den := r.den || h.den, logged := seen }
            ((List.range j.dim).map (fun d => j.fmt.read false (v >>> (j.width * d))) :: acc)

/-- Key page and value page numbers of the open page. -/
def JobRun.keyPage (r : JobRun) : Nat := Wbits (r.job.word 2) 63 46 + r.job.head * Wbits (r.job.word 2) 27 12 + r.p
def JobRun.valPage (r : JobRun) : Nat := Wbits (r.job.word 2) 45 28 + r.job.head * Wbits (r.job.word 2) 27 12 + r.p

/-- A micro-operation that runs as tile-tasks of priority 3: it takes a record of class H, or the corbel record, which its
tile-task holds from its placement to its end (R341, R364, R365). -/
def onTile (f : Nat → JobRun → State → MicroRes) (cl : Nat) (r : JobRun) (s : State) : MicroRes :=
  match r.tile with
  | some _ => f cl r s
  | none =>
    match (if (s.cluster cl).mayTake s.cycle 3 then (s.cluster cl).recordFor 0 2 else none) with
    | none => .hold s
    | some k =>
      let t : YRec := { uid := r.job.handle.toNat, kind := .tile, base := 3, place := .tile, since := s.cycle }
      .more ((s.take cl 3).modCluster cl (fun c => { c.spendGrant 2 k with yard := aset c.yard k t })) { r with tile := some k }

/-- MQK (R348, R439). -/
def execMqk (s : State) : Result :=
  s.micro (pageOp (onTile (fun cl r s =>
    let j := r.job
    match r.kfail with
    | some w => .fail s w
    | none =>
      if !s.pageStands r.kfrm then .hold s
      else match readQ cl j.rows 0 s r [] with
      | .hold s => .hold s
      | .fail s w => .fail s w
      | .ok s r qs =>
        match pageTokensOf 0 r.keyPage r.kfrm r.ktag j.pageTokens 0 s r with
        | .error w => .fail s w
        | .ok (s, r, ks) =>
          let (s, g) := qs.zipIdx.foldl (fun (acc : State × Flags) (q : List Fv × Nat) =>
            let rs := ks.map (fun k => dotGroups (j.dim / 32) (q.1.zip k) 0 0)
            (acc.1.cWrite cl (j.core q.2) (j.scoreAt q.2) 32 (rs.map (·.1)), rs.foldl (fun f x => f ||| x.2) acc.2)) (s, r.flg)
          .go s { r.next with flg := g })))

/-- Is token t allowed for row i (R346)? -/
def JobRun.allows (r : JobRun) (i t : Nat) : Bool :=
  let j := r.job
  let q := Wbits (j.word 4) 63 32 + i
  !r.masked && decide (t < j.sl) &&
    (match j.mode with
     | 0 => true
     | 1 => decide (t ≤ q)
     | _ => decide (q < t + Wbits (j.word 4) 31 0) && decide (t ≤ q))

/-- MMASK (R348). -/
def execMmask (s : State) : Result :=
  s.micro (pageOp (fun cl r s => rowOp (fun cl j i x s =>
    match s.cBad cl (j.core i) (j.scoreAt i) j.pageTokens with
    | some w => .error w
    | none =>
      let cs := (s.cRead cl (j.core i) (j.scoreAt i) j.pageTokens).zipIdx.map (fun (c : Nat × Nat) =>
        if r.allows i (r.p * j.pageTokens + c.2) then c.1 else negInf32)
      .ok (s.cWrite cl (j.core i) (j.scoreAt i) 32 cs, x, 0)) cl r s))

/-- The scores of a row, or the failure where one is poisoned. -/
def withScores (f : List Nat → RowState → State → State × RowState × Flags) (cl : Nat) (j : Job) (i : Nat) (x : RowState) (s : State) :
    Except Word (State × RowState × Flags) :=
  match s.cBad cl (j.core i) (j.scoreAt i) j.pageTokens with
  | some w => .error w
  | none => .ok (f (s.cRead cl (j.core i) (j.scoreAt i) j.pageTokens) x s)

/-- The score scale of a job. -/
def Job.scale (j : Job) : Nat := Wbits (j.word 3) 31 0

/-- MMAX (R348). -/
def execMmax (s : State) : Result :=
  s.micro (pageOp (rowOp (fun cl j i x s => withScores (fun cs x s =>
    if cs.all (· == negInf32) then (s, x, 0)
    else
      let top := cs.foldl max32 negInf32
      let (c, g) := mul32 j.scale top
      (s, { x with m' := BitVec.ofNat 32 (max32 x.m'.toNat c) }, g)) cl j i x s)))

/-- MEXP (R348). -/
def execMexp (s : State) : Result :=
  s.micro (pageOp (rowOp (fun cl j i x s => withScores (fun cs x s =>
    let rs := cs.map (fun c =>
      let (t, g) := mul32 j.scale c
      let (u, h) := sub32 t x.m'.toNat
      let (y, k) := exp2 false false u
      (y, g ||| h ||| k))
    (s.cWrite cl (j.core i) (j.scoreAt i) 32 (rs.map (·.1)), x, rs.foldl (fun f y => f ||| y.2) 0)) cl j i x s)))

/-- MSUM (R348). -/
def execMsum (s : State) : Result :=
  s.micro (pageOp (rowOp (fun cl j i x s => withScores (fun cs x s =>
    let (c, g) := give32 (Fv.sum .rne (cs.map rd32))
    (s, { x with s := BitVec.ofNat 32 c }, g)) cl j i x s)))

/-- A row of the committed O buffer, or the failure where it is poisoned. -/
def withBuf (b : Nat) (f : List Nat → RowState → State → State × RowState × Flags) (cl : Nat) (j : Job) (i : Nat) (x : RowState) (s : State) :
    Except Word (State × RowState × Flags) :=
  match s.cBad cl (j.core i) (j.bufAt b i) j.dim with
  | some w => .error w
  | none => .ok (f (s.cRead cl (j.core i) (j.bufAt b i) j.dim) x s)

/-- MSCL (R348). -/
def execMscl (s : State) : Result :=
  s.micro (pageOp (fun cl r s => rowOp (fun cl j i x s => withBuf r.buf (fun cs x s =>
    let (t, g) := sub32 x.m.toNat x.m'.toNat
    let (a, h) := exp2 false false t
    let (l, k) := give32 (Fv.fma .rne (rd32 a) (rd32 x.l.toNat) (rd32 x.s.toNat))
    let rs := cs.map (fun c => mul32 a c)
    (s.cWrite cl (j.core i) (j.bufAt (1 - r.buf) i) 32 (rs.map (·.1)), { x with l' := BitVec.ofNat 32 l },
      rs.foldl (fun f y => f ||| y.2) (g ||| h ||| k))) cl j i x s) cl r s))

/-- MPV (R348, R439). -/
def execMpv (s : State) : Result :=
  s.micro (pageOp (onTile (fun cl r s =>
    match r.vfail with
    | some w => .fail s w
    | none =>
      if !s.pageStands r.vfrm then .hold s
      else match pageTokensOf 1 r.valPage r.vfrm r.vtag r.job.pageTokens 0 s r with
      | .error w => .fail s w
      | .ok (s, r, vs) =>
        rowOp (fun cl j i x s =>
          match s.cBad cl (j.core i) (j.scoreAt i) j.pageTokens with
          | some w => .error w
          | none =>
            let ps := (s.cRead cl (j.core i) (j.scoreAt i) j.pageTokens).map (fun c => convert fF32 fBF16 {} c)
            let pv := ps.map (fun p => fBF16.read false p.1)
            let g0 := ps.foldl (fun (f : Flags) p => f ||| p.2) 0
            withBuf (1 - r.buf) (fun cs x s =>
              let rs := cs.zipIdx.map (fun (c : Nat × Nat) =>
                dotGroups (j.pageTokens / 32) (pv.zip (vs.map (fun v => v.getD c.2 .nan))) c.1 0)
              (s.cWrite cl (j.core i) (j.bufAt (1 - r.buf) i) 32 (rs.map (·.1)), x, rs.foldl (fun f y => f ||| y.2) g0)) cl j i x s)
          cl r s)))

/-- The checkpoint record of a job (R349). -/
def JobRun.record (r : JobRun) : List Word :=
  wordOfNat (2 ^ 63 + r.buf * 2 ^ 32 + r.p) :: wordOfNat (r.job.head * 2 ^ 32 + r.job.stream.toNat)
    :: r.rows.map (fun x => x.l ++ x.m)

/-- The commit of the open page. -/
def JobRun.commit (r : JobRun) : JobRun :=
  if r.isOpen then
    { r with rows := r.rows.map (fun x => { x with m := x.m', l := x.l' }), buf := 1 - r.buf, p := r.p + 1, pgs := r.pgs + 1, isOpen := false }
  else r

/-- The words of a value of several words. -/
def wordsValue (ws : List Word) : Nat := ws.zipIdx.foldl (fun n (w : Word × Nat) => n + w.1.toNat * 2 ^ (64 * w.2)) 0

/-- Write the header word of a record at the place that was translated for it (R439), or at that to which its line has moved (R100);
a denied one is dropped with its record (R103). None while the line waits. -/
def State.chkHead (s : State) (cl : Nat) (r : JobRun) (c : ChkSpot) (v : Word) : Option (State × JobRun) :=
  let ag := r.job.agent cl
  let w := s.whereNow stubFuel c.own c.key
  if w.1 = s.sys.self && (s.stopped w.2 || s.inTransit w.2) then none
  else
    let p : Part := { addr := r.job.cka, len := 64, own := w.1, key := w.2, tag := c.tag, page := c.page, denied := c.denied }
    let (s, seen) := logDenials ag 8 [p] r.logged s
    let ws : List Wr := if c.denied then [] else [{ part := p, val := v.toNat }]
    some (engParts ag ws clean ws [] s, { r with logged := seen, chk := none })

/-- MCHK (R349, R439): where a word of the record does not translate, no part takes effect. Words 1 on are written first;
the header word and the commit come once those are acknowledged, a release (R341), and nothing is translated again. -/
def execMchk (s : State) : Result :=
  s.micro (fun cl r s =>
    let q := r.commit
    let a := r.job.cka
    let ag := r.job.agent cl
    let ws := q.record
    let head (s : State) (r : JobRun) (c : ChkSpot) : MicroRes :=
      if !s.engSettled r.job.handle then .more s { r with chk := some c }
      else match s.chkHead cl { q.next with logged := r.logged } c (ws.getD 0 0) with
        | some (s, q) => .go s q
        | none => .more s { r with chk := some c }
    if a = 0 then .go s q.next
    else match r.chk with
    | some c => head s r c
    | none =>
      if !s.engSettled r.job.handle then .hold s
      else
      let (t, parts) := s.checkParts ag .store false (partsOf 0 a 64)
      match worstFault parts, parts with
      | some f, _ => if f.cause = 0 then .hold t else .fail t (faultWord 0x3 3 f)
      | none, [] => .hold t
      | none, p :: _ =>
        match t.engWrite ag 8 r.logged (a + 64) (64 * (ws.length - 1)) (wordsValue (ws.drop 1)) clean with
        | .fault s f => .fail s (faultWord 0x3 3 f)
        | .hold s => .hold s
        | .done s _ seen _ _ => head s { r with logged := seen } { own := p.own, key := p.key, tag := p.tag, page := p.page, denied := p.denied })

/-! ## Control and output (R348) -/

/-- MLOOP. -/
def execMloop (m : Micro) (s : State) : Result :=
  s.micro (fun _ r s =>
    let v := r.read m.x - 1
    let r' := r.write m.x v
    .go s (if v = 0 then r'.next else { r' with upc := r.upc + m.imm.toInt }))

/-- Does the condition of MBR hold? -/
def microCond (y : BitVec 4) (g : Word) : Bool :=
  match y.toNat with
  | 0 => true
  | 1 => g == 0
  | 2 => g != 0
  | _ => g.getLsbD 63

/-- MBR. -/
def execMbr (m : Micro) (s : State) : Result :=
  s.micro (fun _ r s => .go s (if microCond m.y (r.read m.x) then { r with upc := r.upc + m.imm.toInt } else r.next))

/-- MNORM. -/
def execMnorm (s : State) : Result :=
  s.micro (fun cl r s => rowOp (fun cl j i x s => withBuf r.buf (fun cs x s =>
    let rs := cs.map (fun c => give32 (Fv.div (rd32 c) (rd32 x.l.toNat)))
    (s.cWrite cl (j.core i) (j.bufAt r.buf i) 32 (rs.map (·.1)), x, rs.foldl (fun f y => f ||| y.2) 0)) cl j i x s) cl r s)

/-- Full/empty granules of an output row. -/
def Job.outGrans (j : Job) (cl i : Nat) : List Nat :=
  (List.range (j.dim * j.wout / 128)).map (fun k => granuleId (cl * 64 + j.core i) 2 (j.outAt i + 128 * k))

/-- MOUT: a row going full is a release of every access of the job before it (R341). -/
def execMout (s : State) : Result :=
  s.micro (fun cl r s => if !s.engSettled r.job.handle then .hold s else rowOp (fun cl j i x s => withBuf r.buf (fun cs x s =>
    let rs := if j.wout = 16 then cs.map (fun c => convert fF32 fBF16 {} c) else cs.map (fun c => (c, (0 : Flags)))
    ((s.cWrite cl (j.core i) (j.outAt i) j.wout (rs.map (·.1))).fillGrans (j.outGrans cl i), x, rs.foldl (fun f y => f ||| y.2) 0)) cl j i x s) cl r s)

/-- MWAIT: a granule of a window of the cluster; any other address makes the word reserved. -/
def execMwait (m : Micro) (s : State) : Result :=
  s.micro (fun cl r s =>
    if m.imm = 0 then (if s.engSettled r.job.handle then .go s r.next else .hold s)
    else
      let a := r.read m.y
      match (if a.getLsbD 63 then s.placeWin a else none) with
      | some w =>
        if w.pkg = s.sys.self ∧ w.core / 64 = cl ∧ w.win ≤ 2 then
          if s.granFull (granuleId w.core w.win w.inc) then .go s r.next else .hold s
        else .fail s (failureWord 0x3 0x20 r.upc.toNat)
      | none => .fail s (failureWord 0x3 0x20 r.upc.toNat))

/-- MSET. -/
def execMset (m : Micro) (s : State) : Result :=
  s.micro (fun _ r s => .go s (r.next.write m.x (if m.z = 0 then simm m else r.job.word m.imm.toNat)))

/-- MADD. -/
def execMadd (m : Micro) (s : State) : Result :=
  s.micro (fun _ r s => .go s (r.next.write m.x (r.read m.y + r.read m.z + simm m)))

/-- MEND: the future resolves once every store of the job is acknowledged (R341, R353). -/
def execMend (s : State) : Result :=
  s.micro (fun _ r s => if s.engSettled r.job.handle then .finish s r else .hold s)

end Sys2Proof.Machine
end

