-- ==== Sys2Proof/Machine/Memory.lean ====
section
/-!
DEFINITION. Loads, stores, full/empty access, fences and cache operations of pages 0 and 6 (R184, R205 to R211), and the
atomics of page 7 (R214 to R216).
-/

namespace Sys2Proof.Machine

/-- Go on with what an access gave. -/
def Got.bind {α : Type} (g : Got α) (f : State → α → Res) : Res :=
  match g with
  | .ok s v => f s v
  | .wait s k x => .wait s k x
  | .trap s t => .trap s t

/-! ## Loads and stores (R184, R205, R206) -/

/-- d := f of the w bits at S[a] + imm × w. -/
def loadReg (o : Ops) (w : Nat) (f : Nat → Word) (s : State) : Result :=
  s.run anyMode (srcA o) (fun c s =>
    (s.load c.cx (effAddr (s.me c) o w) w).bind (fun s v => .ok (s.onMe c (fun x => x.writeS o.d (f v)))))

/-- A store completes; one to window 0b011 is a region boundary (R54, R75). -/
def stored (a : Word) (s : State) (_ : Unit) : Res := if marksState a then .okB s else .ok s

/-- The w bits at S[a] + imm × w := the low bits of S[d]. -/
def storeReg (o : Ops) (w : Nat) (s : State) : Result :=
  s.run anyMode (srcAD o) (fun c s =>
    let a := effAddr (s.me c) o w
    (s.store c.cx a w ((s.me c).readS o.d).toNat).bind (stored a))

/-- LD (R184). -/
def execLd (o : Ops) (s : State) : Result := loadReg o 64 wordOfNat s
/-- ST (R184). -/
def execSt (o : Ops) (s : State) : Result := storeReg o 64 s
/-- LDF (R205). -/
def execLdf (o : Ops) (s : State) : Result := loadReg o (widthOf o) wordOfNat s
/-- LDFS (R205). -/
def execLdfs (o : Ops) (s : State) : Result := loadReg o (widthOf o) (fun v => wordOfInt (sextN v (widthOf o))) s
/-- STF (R205). -/
def execStf (o : Ops) (s : State) : Result := storeReg o (widthOf o) s

/-- Write the pair (d, d + 1) from 128 bits (R206). -/
def Ctx.writePair (x : Ctx) (d : BitVec 6) (v : Nat) : Ctx :=
  (x.writeS d (wordOfNat v)).writeS (pairHi d) (wordOfNat (v / 2 ^ 64))

/-- The 128 bits of the pair (d, d + 1). -/
def Ctx.readPair (x : Ctx) (d : BitVec 6) : Nat := (x.readS d).toNat + (x.readS (pairHi d)).toNat * 2 ^ 64

/-- LDP (R206). -/
def execLdp (o : Ops) (s : State) : Result :=
  s.run anyMode (srcA o) (fun c s =>
    (s.load c.cx (effAddr (s.me c) o 128) 128).bind (fun s v => .ok (s.onMe c (fun x => x.writePair o.d v))))

/-- STP (R206). -/
def execStp (o : Ops) (s : State) : Result :=
  s.run anyMode [(o.a, o.ta), (o.d, false), (pairHi o.d, false)] (fun c s =>
    let a := effAddr (s.me c) o 128
    (s.store c.cx a 128 ((s.me c).readPair o.d)).bind (stored a))

/-! ## Full/empty access (R76, R77, R207, R208) -/

/-- Does an operand of w bits lie in W, A or C and within one full/empty granule (R76)? Under interleaved placement a
granule's two words lie 2^12 offsets apart, so the operand must lie in one word. -/
def inGranule (a : Word) (w : Nat) : Bool :=
  a.getLsbD 63 && decide (Wbits a 62 60 ≤ 2) &&
    (if a.getLsbD 37 then decide (Wbits a 5 0 + w ≤ 64) else decide (Wbits a 6 0 + w ≤ 128))

/-- The full/empty granule of a checked part in a window. -/
def Part.gran (p : Part) : Nat :=
  match p.win with
  | some w => granuleId w.core w.win w.inc
  | none => 0

/-- Width of LDFE's SZ field (R207). -/
def ldfeWidth (f : BitVec 4) : Nat := 16 * 2 ^ (f.toNat % 4)

/-- Make the granules of parts empty. -/
def emptyGrans (ps : List Part) (s : State) : State := ps.foldl (fun s p => s.setGran p.gran false) s

/-- LDFE writes its result: with clear it is a region boundary (R207). -/
def State.ldfeGive (s : State) (c : Cur) (o : Ops) (v : Nat) : Res :=
  let s := s.onMe c (fun x => if ldfeWidth o.f = 128 then x.writePair o.d v else x.writeS o.d (wordOfNat v))
  if o.f.getLsbD 3 then .okB s else .ok s

/-- Is this the entry of the LDFE that the context waits at? -/
def LdfeWait.isOf (e : LdfeWait) (uid : Nat) (pc : Word) : Bool := e.req.isNone && e.uid == uid && e.pc == pc

/-- What an LDFE that has waited has been served (R77). -/
def State.ldfeGot (s : State) (c : Cur) : LdfeGot :=
  match s.ldfes.find? (fun e => e.isOf (s.me c).uid c.addr && s.ldfeLive e) with
  | some e => e.got
  | none => .pending

/-- The LDFE begins to wait at its granule, behind those that wait there; one that waits already keeps its place. -/
def State.ldfeWait (s : State) (e : LdfeWait) : State :=
  if s.ldfes.any (fun q => q.isOf e.uid e.pc && s.ldfeLive q) then s
  else { s with ldfes := s.ldfes.filter (fun q => s.ldfeLive q && (q.req.isSome || q.uid != e.uid)) ++ [e] }

/-- LDFE once its operand is checked: wait or trap on an empty granule, then read (R207). -/
def State.ldfe (s : State) (c : Cur) (o : Ops) (a : Word) (qs : List Part) : Res :=
  let w := ldfeWidth o.f
  let ag := s.ctxAgent c.cx
  match qs with
  | [] => .ok s
  | p :: _ =>
    if p.own ≠ s.sys.self then .wait (s.forward ag p.own p.key 0x04 a [wordOfNat p.off, wordOfNat (0x10 + o.f.toNat)] p.tag 3) .granule a
    else if qs.any (fun p => !s.granFull p.gran) then
      if o.f.getLsbD 2 then .trap s { cause := 0x07, val := a }
      else .wait (s.ldfeWait { uid := (s.me c).uid, pc := c.addr, gran := p.gran, key := p.key, off := p.off, w := w, clr := o.f.getLsbD 3 }) .granule a
    else match qs.find? (fun p => s.poisoned p.key) with
      | some p => .trap s { cause := 0x0E, val := p.addr }
      | none =>
        let v := laneBits s ag.rights.uid 0 qs
        (if o.f.getLsbD 3 then emptyGrans qs s else s).ldfeGive c o v

/-- The answer of another package to an LDFE: an acknowledgement alone says that a granule is empty (R207). -/
def State.ldfeAway (s : State) (c : Cur) (o : Ops) (a : Word) (f : Fwd) : Res :=
  let t := s.dropFwds (s.me c).uid
  match f.poison, f.resp with
  | some n, _ => .trap t { cause := 0x0E, val := a + wordOfNat n }
  | none, none => .wait s .granule a
  | none, some [] => .trap t { cause := 0x07, val := a }
  | none, some ws => t.ldfeGive c o ((ws.getD 0 0).toNat + (ws.getD 1 0).toNat * 2 ^ 64)

/-- May an LDFE pass a range lock? One with block waits on an empty granule of a locked destination, and reads the copied
bits once it goes full (R76, R224); every other meets the lock. -/
def State.ldfePasses (s : State) (c : Cur) (o : Ops) (qs : List Part) : Bool :=
  !o.f.getLsbD 2 && (qs.any (fun p => !s.granFull p.gran) || (match (s.me c).wait with
    | some w => w.kind == .granule && w.pc == c.addr
    | none => false))

/-- The entry of an LDFE of this task is done with. -/
def State.ldfeDone (s : State) (uid : Nat) : State :=
  { s with ldfes := s.ldfes.filter (fun e => e.req.isSome || e.uid != uid) }

/-- LDFE (R207): an operand not within one granule of W, A or C is misaligned, detail 1. One that has been served while it
waited completes with what it was served (R77). -/
def execLdfe (o : Ops) (s : State) : Result :=
  s.run anyMode (srcA o) (fun c s =>
    let w := ldfeWidth o.f
    let a := effAddr (s.me c) o w
    match s.ldfeGot c with
    | .value v => (s.ldfeDone (s.me c).uid).ldfeGive c o v
    | .poisoned n => .trap (s.ldfeDone (s.me c).uid) { cause := 0x0E, val := a + wordOfNat n }
    | .pending =>
      match s.atomSent (s.me c).uid with
      | some f => s.ldfeAway c o a f
      | none =>
      if !inGranule a w then .trap s { cause := 0x02, detail := 1, val := a }
      else
        let (s, qs) := s.checkParts (s.ctxAgent c.cx) .load false (partsOf 0 a w)
        match worstFault qs with
        | some t => if t.cause = 0x05 && s.ldfePasses c o qs then s.ldfe c o a qs else .trap s t
        | none => s.ldfe c o a qs)

/-- The one write of an STFE: both words of its granule are written in one step, which makes the granule full (R208). -/
def stfeWrite (narrow : Bool) (v : Nat) : List Part → List Wr
  | [] => []
  | p :: ps =>
    [{ part := p, val := p.cut v, narrow := narrow, fill := [p.gran]
       more := ps.head?.map (fun q => (q.key, q.mask, wordOfNat (q.cut v * 2 ^ q.off))) }]

/-- STFE (R208). -/
def execStfe (o : Ops) (s : State) : Result :=
  s.run anyMode (srcAD o) (fun c s =>
    let a := effAddr (s.me c) o 64
    if !inGranule a 64 then .trap s { cause := 0x02, detail := 1, val := a }
    else
      let ag := s.ctxAgent c.cx
      let (s, qs) := s.checkParts ag .store false (partsOf 0 a 64)
      match worstFault qs with
      | some t => .trap s t
      | none =>
        let v := ((s.me c).readS o.d).toNat
        (s.writeParts ag 1 (stfeWrite (isNarrow a 64 || decide (1 < qs.length)) v qs)).bind (fun s _ => .okB s))

/-! ## Acquire, release, fences (R118, R209, R210, R275, R278) -/

/-- A release at a scope level waits for the remote stores of the task, at sc.quad and wider (R118). -/
def State.mustDrain (s : State) (cx : Nat) (scope : Nat) : Bool := decide (1 ≤ scope) && (s.ctx cx).rcount != 0

/-- Must an LDA at a scope wait for an earlier STR of the task that has not been acknowledged: at sc.quad and wider by the
narrower of the two scopes (R278)? -/
def State.behindStr (s : State) (uid scope : Nat) : Bool :=
  s.rstores.any (fun r => r.uid == uid && (match r.rel with
    | some p => decide (1 ≤ min p scope)
    | none => false))

/-- LDA (R209, R278): never before an earlier STR at the narrower of their scopes. -/
def execLda (o : Ops) (s : State) : Result :=
  s.run anyMode (srcA o) (fun c s =>
    let a := effAddr (s.me c) o 64
    if Wbits a 5 0 ≠ 0 then .trap s { cause := 0x02, val := a }
    else if s.behindStr (s.me c).uid o.f.toNat then .wait s .other 0
    else (s.load c.cx a 64).bind (fun s v => .ok (s.onMe c (fun x => x.writeS o.d (wordOfNat v)))))

/-- STR (R209): waits per R118, then stores. -/
def execStr (o : Ops) (s : State) : Result :=
  s.run anyMode (srcAD o) (fun c s =>
    let a := effAddr (s.me c) o 64
    if Wbits a 5 0 ≠ 0 then .trap s { cause := 0x02, val := a }
    else if s.mustDrain c.cx o.f.toNat then .wait s .other 0
    else (s.store c.cx a 64 ((s.me c).readS o.d).toNat (some o.f.toNat)).bind (stored a))

/-- A fence that waits per R118 at its scope. -/
def fenceRelease (o : Ops) (s : State) : Result :=
  s.run anyMode [] (fun c s => if s.mustDrain c.cx o.f.toNat then .wait s .other 0 else .ok s)

/-- FENCE.acq (R210, R285): loads, LDAs and atomics complete in program order, remote stores are not among what it waits for
(R280, log 87), and no instruction is held fetched ahead. -/
def execFenceAcq (_ : Ops) (s : State) : Result := s.run anyMode [] (fun _ s => .ok s)
/-- FENCE.rel (R210). -/
def execFenceRel (o : Ops) (s : State) : Result := fenceRelease o s
/-- FENCE.acqrel (R210). -/
def execFenceAcqrel (o : Ops) (s : State) : Result := fenceRelease o s
/-- FENCE.sc (R210, R279). -/
def execFenceSc (o : Ops) (s : State) : Result := fenceRelease o s
/-- FENCE.rdrain: waits for a remote-store counter of zero at any scope (R210). -/
def execFenceRdrain (_ : Ops) (s : State) : Result :=
  s.run anyMode [] (fun c s => if (s.me c).rcount ≠ 0 then .wait s .other 0 else .ok s)

/-! ## Prefetch and cache operations (R211) -/

/-- The line or 64 KiB page that contains an address: its first bit address. -/
def blockBase (a : Word) (w : Nat) : Word := wordOfNat (a.toNat / w * w)

/-- Byte keys of the lines of n bits from a physical byte key. -/
def linesOf (key w : Nat) : List Nat := (List.range (w / 1024)).map (fun i => key + 128 * i)

/-- The fill that PREF asks for at a physical byte key of a page: none where the line has moved to another package, is in transit,
or its stack is stopped (R96, R100, R384). -/
def State.prefFill (s : State) (ag : Agent) (e : TlbEntry) (key : Nat) : Option Fill :=
  match s.whereNow stubFuel e.own key with
  | (own, k) =>
    if own = s.sys.self ∧ k < s.memTop ∧ !s.inTransit k ∧ !s.stopped k then
      some { die := ag.die, line := k / 128, tag := e.tag, core := ag.core, mc := s.mcServing k, ofs := s.stackOfs k, stream := e.stream }
    else none

/-- Put fills into the fill queue of a die: those that find no room are not asked for (R211, log 103). -/
def State.addFills (s : State) (die : Nat) (l : List Fill) : State :=
  let room := Config.fillQueue - (s.caches.fills.filter (fun f => f.die == die)).length
  { s with caches := { s.caches with fills := s.caches.fills ++ l.take room } }

/-- PREF: asks for the lines; it never faults and never traps (R211). A walk that a damaged entry ends leaves its record
(R413). -/
def execPref (o : Ops) (s : State) : Result :=
  s.run anyMode (srcA o) (fun c s =>
    let w := widthOf o
    let a := effAddr (s.me c) o w
    if a.getLsbD 63 then .ok s
    else
      let ag := s.ctxAgent c.cx
      match s.translate ag (blockBase a w) .load with
      | (s, .found e) =>
        let b := e.frame + Wbits (blockBase a w) 59 3 % 2 ^ e.size
        .ok (s.addFills ag.die ((linesOf b w).filterMap (fun k => s.prefFill ag e k)))
      | (s, .damaged at_) => .ok (s.damagedRec at_ ag.rights.ident (blockBase a w))
      | (s, _) => .ok s)

/-- Write back a line in a die, from L1D to slice and on: it stays present and clean. CINV invalidates it, but for a pinned
line and one in a frame, whose tag is loaded again (R106, R211). -/
def State.cleanLine (s : State) (inval : Bool) (tag : Nat) (die line : Nat) : State :=
  let s := if inval then s.dropL1 die line none else s.shareL1 die line
  let clean (l : L2Line) : L2Line := if l.st = .m && !l.framed then { l with st := .e } else l
  let k := die * 2 ^ 33 + line
  let s := match s.frameOf die (line / 512) with
    | some (n, f) => if inval then s.modFrame n f.page (fun g => { g with tag := tag }) else s
    | none => s
  match aget s.caches.l2 k with
  | none => s
  | some l =>
    if inval && !l.framed && !l.pinned then s.dropLine die line
    else
      let s := if l.st = .m && !l.framed then s.homeHop die line 3 0 else s
      s.modL2 (fun m => aset m k (if inval then { clean l with tag := tag } else clean l))

/-- Write back the lines in every die; CINV also invalidates them and drops the fills that are on their way. -/
def State.cleanLines (s : State) (inval : Bool) (lines : List Nat) (tag : Nat) : State :=
  let s := lines.foldl (fun s l => ((List.range 4).foldl (fun s d => s.cleanLine inval tag d l) s)) s
  if inval then
    let s := lines.foldl (fun s l => s.dropIcache l) s
    s.dropFills lines.contains
  else s

/-- Send one request per line that another package owns; whether all are answered. -/
def forwardLines (ag : Agent) (op tag : Nat) : List Part → State → State × Bool
  | [], s => (s, true)
  | q :: qs, s =>
    match s.net.fwds.find? (fun f => f.isFor ag.rights.uid q.own q.key 0x04) with
    | some f => let (s, r) := forwardLines ag op tag qs s; (s, r && (f.resp.isSome || f.lost))
    | none =>
      let (s, _) := forwardLines ag op tag qs (s.forward ag q.own q.key 0x04 q.addr [0, wordOfNat op, wordOfNat tag] tag)
      (s, false)

/-- The lines of a cache operation, each an access of its own (R103). -/
def lineParts (a : Word) (w : Nat) : List Part :=
  (List.range (w / 1024)).map (fun i => { addr := blockBase a w + wordOfNat (1024 * i), len := 1024 })

/-- The lock that a cache operation on a window meets, if any (R224). -/
def State.blockLock (s : State) (ag : Agent) (a : Word) (w : Nat) : Option Trap :=
  (partsOf 0 (blockBase a w) w).findSome? (fun p =>
    let q := s.placePart ag p
    if q.fault.isSome then none else s.lockTrap ag .cache q)

/-- Perform what is before a cache operation to its lines: the flows with the task's pending stores there (R211). -/
def State.catchLines (s : State) (ag : Agent) (lines : List Nat) : State :=
  s.flushFlows (fun r => r.uid == ag.rights.uid && lines.contains (r.key / 128))

/-- CFLUSH and CINV: translated with no permission bit, each line tag-checked as a store, done in every die (R211, R412). -/
def cacheOp (inval : Bool) (o : Ops) (s : State) : Result :=
  s.run anyMode (srcA o) (fun c s =>
    let w := widthOf o
    let a := effAddr (s.me c) o w
    let ag := s.ctxAgent c.cx
    if a.getLsbD 63 then
      match (s.placePart ag { addr := a, len := 1 }).fault with
      | some t => .trap s t
      | none => match s.blockLock ag a w with
        | some t => .trap s t
        | none => .ok s
    else
      let (s, qs) := s.checkParts ag .cache false (lineParts a w)
      match worstFault qs with
      | some t => .trap s t
      | none =>
        let live := qs.filter (fun q => !q.denied)
        let here := live.filter (fun q => q.own == s.sys.self)
        let (s, tag) := match if inval then s.walk ag (blockBase a w) .cache else (s, .hold) with
          | (s, .found e) => (s, e.tag)
          | (s, _) => (s, (qs.headD {}).tag)
        match forwardLines ag (if inval then 0x21 else 0x20) tag (live.filter (fun q => q.own != s.sys.self)) s with
        | (s, false) => .wait s .other 0
        | (s, true) =>
          let s := (logDenials ag 1 qs [] s).1
          let lines := here.map (fun q => q.key / 128)
          .ok (((s.catchLines ag lines).cleanLines inval lines tag).dropFwds ag.rights.uid))

/-- CFLUSH (R211). -/
def execCflush (o : Ops) (s : State) : Result := cacheOp false o s
/-- CINV (R211). -/
def execCinv (o : Ops) (s : State) : Result := cacheOp true o s

/-! ## Atomics (R214 to R216) -/

/-- An atomic of class WCLS on the operand at S[a]: `f` gives new from old and y = the low bits of S[b], with the flags it
raises; at sc.quad and wider it first waits per R118. -/
def atomicReg (o : Ops) (code : Nat) (srcs : List (BitVec 6 × Bool)) (f : Ctx → Nat → Nat → Nat → Nat × Flags) (s : State) : Result :=
  s.run anyMode srcs (fun c s =>
    let x := s.me c
    let w := classWidth o.cls.toNat
    let a := x.readS o.a
    let y := (x.readS o.b).toNat % 2 ^ w
    if 64 < Wbits a 5 0 + w then .trap s { cause := 0x02, val := a }
    else if s.mustDrain c.cx o.scope.toNat then .wait s .other 0
    else
      (s.atomic c.cx a w [wordOfNat code, wordOfNat w, o.scope.setWidth 64, wordOfNat y, x.readS o.c] (fun old => some (f x w old y).1)).bind
        (fun s r => .okB (s.onMe c (fun z =>
          (z.orFlags (if r.2 then (f x w r.1 y).2 else 0)).writeS o.d (wordOfNat r.1)))))

/-- An atomic that raises no flag. -/
def atomicOp (o : Ops) (code : Nat) (f : Nat → Nat → Nat → Nat) (s : State) : Result :=
  atomicReg o code (srcAB o) (fun _ w old y => (f w old y, 0)) s

/-- Signed comparison of two w-bit codes. -/
def sltN (w x y : Nat) : Bool := decide (sextN x w < sextN y w)

/-- AMOADD (R214). -/
def execAmoadd (o : Ops) (s : State) : Result := atomicOp o 0 (fun w old y => (old + y) % 2 ^ w) s
/-- AMOAND (R214). -/
def execAmoand (o : Ops) (s : State) : Result := atomicOp o 1 (fun _ old y => old &&& y) s
/-- AMOOR (R214). -/
def execAmoor (o : Ops) (s : State) : Result := atomicOp o 2 (fun _ old y => old ||| y) s
/-- AMOXOR (R214). -/
def execAmoxor (o : Ops) (s : State) : Result := atomicOp o 3 (fun _ old y => old ^^^ y) s
/-- AMOMIN (R214). -/
def execAmomin (o : Ops) (s : State) : Result := atomicOp o 4 (fun w old y => if sltN w y old then y else old) s
/-- AMOMAX (R214). -/
def execAmomax (o : Ops) (s : State) : Result := atomicOp o 5 (fun w old y => if sltN w old y then y else old) s
/-- AMOMINN (R214). -/
def execAmominn (o : Ops) (s : State) : Result := atomicOp o 6 (fun _ old y => min old y) s
/-- AMOMAXN (R214). -/
def execAmomaxn (o : Ops) (s : State) : Result := atomicOp o 7 (fun _ old y => max old y) s
/-- AMOSWP (R214). -/
def execAmoswp (o : Ops) (s : State) : Result := atomicOp o 8 (fun _ _ y => y) s

/-- CAS (R214). -/
def execCas (o : Ops) (s : State) : Result :=
  atomicReg o 9 (srcABC o) (fun x w old y => (if old = (x.readS o.c).toNat % 2 ^ w then y else old, 0)) s

/-- The bf16 or f32 sum of AMOFADD: RNE, FZI = FZO = 0, no SAT (R215). -/
def fadd (w old y : Nat) : Nat × Flags :=
  let f := if w = 16 then fBF16 else fF32
  let (v, g) := (f.read false old).add .rne (f.read false y)
  let (r, h) := f.give {} v
  (r, g ||| h)

/-- AMOFADD (R215). -/
def execAmofadd (o : Ops) (s : State) : Result := atomicReg o 11 (srcAB o) (fun _ w old y => fadd w old y) s

/-- CAS2: 128 bits at a multiple of 128, one step (R216). -/
def execCas2 (o : Ops) (s : State) : Result :=
  s.run anyMode [(o.a, o.ta), (o.b, o.tb), (pairHi o.b, o.tb), (o.c, o.tc), (pairHi o.c, o.tc)] (fun c s =>
    let x := s.me c
    let a := x.readS o.a
    if Wbits a 6 0 ≠ 0 then .trap s { cause := 0x02, val := a }
    else if s.mustDrain c.cx o.scope.toNat then .wait s .other 0
    else
      (s.atomic c.cx a 128 [10, 128, o.scope.setWidth 64, x.readS o.b, x.readS (pairHi o.b), x.readS o.c, x.readS (pairHi o.c)]
        (fun old => if old = x.readPair o.c then some (x.readPair o.b) else none)).bind
        (fun s r => .okB (s.onMe c (fun z => z.writePair o.d r.1))))

end Sys2Proof.Machine
end

