-- ==== Sys2Proof/Machine/Sched.lean ====
section
/-!
DEFINITION. From a doorbell to a context (R39 to R50, R58, R117, R193, R200, R202, R281, R358 to R374, R402, R408, R411):
command chains, the dispatcher, the task yard, pre-emption, range splits, the cellar ring and plumb tokens. Each is an event
of the device; its operands are in the event argument.
-/

namespace Sys2Proof.Machine

/-! ## Command chains (R358 to R362) -/

/-- A write of CHCFGn: while EN is 1 it changes only EN; a reserved LSZ keeps the old one (R8, R358). -/
def CmdChain.config (c : CmdChain) (v : Word) : CmdChain :=
  if c.en then { c with en := v.getLsbD 0 }
  else
    let lsz := Wbits v 6 2
    let c : CmdChain := { c with base := v.extractLsb' 12 28, lsz := if lsz = 0 ∨ 20 < lsz then c.lsz else v.extractLsb' 2 5 }
    if v.getLsbD 0 then { c with en := true, head := 0, tail := 0, start := c.read, point := 0, stopped := false } else c

/-- Does the host reach the package through a Porva port (R27, R358)? -/
def State.hostReach (s : State) : Bool := !s.boot.ports.isEmpty

/-- Physical byte address of the record that chain n reads next (R358). -/
def CmdChain.recAddr (c : CmdChain) : Nat := c.base.toNat * 2 ^ 12 + 64 * (c.head.toNat % 2 ^ c.lsz.toNat)

/-- A chain stops, with its record 0x11 and the notification (R360, R411). -/
def State.stopChain (s : State) (n : Nat) : State :=
  let c := s.chain n
  ((s.modChain n (fun c => { c with stopped := true })).logRec 0x11 13 0 0 (wordOfNat c.recAddr) (wordOfNat (n % 16))).notifyPkg

/-- A write of CHCFGn: where SRAM-only service stands with no cluster, the chain reader stops the chain that it enables (R358,
R444, log 54). -/
def State.chainConfig (s : State) (n : Nat) (v : Word) : State :=
  let t := s.modChain n (fun c => c.config v)
  if s.serving && s.clusBits == 0 && !(s.chain n).en && v.getLsbD 0 then t.stopChain n else t

/-- CHAIN_ENABLE of chain i with the value w (R358). -/
def execChainEnable (s : State) : Result :=
  s.event (fun x s =>
    if s.hostReach && s.alive && !(s.chain x.i).en && x.w.getLsbD 0 then some (s.chainConfig x.i x.w) else none)

/-- CHAIN_STOP of chain i with the value w (R358). -/
def execChainStop (s : State) : Result :=
  s.event (fun x s =>
    if s.hostReach && s.alive && (s.chain x.i).en && !x.w.getLsbD 0 then some (s.chainConfig x.i x.w) else none)

/-- A write of CHDBn.TAIL: one that breaks the bound stops the chain (R360). -/
def State.doorbell (s : State) (n : Nat) (v : Word) : State :=
  let s := s.modChain n (fun c => { c with tail := v.extractLsb' 0 32 })
  let c := s.chain n
  if c.en && !c.stopped && decide (2 ^ c.lsz.toNat < (c.tail - c.head).toNat) then s.stopChain n else s

/-- DOORBELL of chain i with the value w (R360). -/
def execDoorbell (s : State) : Result :=
  s.event (fun x s => if s.hostReach && s.alive then some (s.doorbell x.i x.w) else none)

/-- The record at the head of chain n, where the chain reader may read it: once service has begun (R376), and not while its
stack's memory cores are stopped (R384). -/
def State.chainHead (s : State) (n : Nat) : Option (List Word) :=
  let c := s.chain n
  if s.serving && c.en && !c.stopped && !c.held && c.tail != c.head && !s.stopped c.recAddr then some (memWords s.mem 8 c.recAddr) else none

/-- Does a record offend (R359, R360)? -/
def badRecord (ws : List Word) : Bool :=
  let w := ws.headD 0
  let op := Wbits w 63 56
  let tgt := Wbits w 52 48
  decide (2 < op) || (op == 1 && decide (0x10 ≤ tgt) && tgt != 0x1F) || Wbits w 55 53 != 0 || Wbits w 47 32 != 0 ||
    (ws.drop 2).any (fun x => x != 0)

/-- The chain reader has read the record: HEAD advances, and the record joins those that have not completed (R360, R362). -/
def State.takeRec (s : State) (n : Nat) (w : Word) (done : Bool) : State :=
  (s.modChain n (fun c => { c with
    head := c.head + 1, read := c.read + 1, recs := c.recs ++ [(c.read, w.extractLsb' 0 32, done)] })).settleChain n

/-- The clusters in service and not drained, the one with the most free yard records first, ties to the lower index. -/
def State.emptiest (s : State) : Option Nat :=
  (List.range 16).foldl (fun (best : Option Nat) c =>
    if !(s.cluster c).inService || (s.cluster c).drained then best
    else match best with
      | none => some c
      | some b => if (s.cluster b).freeRecs < (s.cluster c).freeRecs then some c else best) none

/-- The target of a LAUNCH record (R359). -/
def State.launchTarget (s : State) (w : Word) : Option Nat := if Wbits w 52 48 = 0x1F then s.emptiest else some (Wbits w 52 48)

/-- Is chain n one that the chain reader can take a record of now: enabled, TAIL ≠ HEAD, and not waiting (R360, R361)? -/
def State.chainReady (s : State) (n : Nat) : Bool :=
  match s.chainHead n with
  | none => false
  | some ws =>
    badRecord ws || Wbits (ws.headD 0) 63 56 != 1 ||
      (match s.launchTarget (ws.headD 0) with
       | none => s.clusBits == 0
       | some cl => !(s.cluster cl).inService || decide ((s.cluster cl).disp.length < 8))

/-- The chain whose turn it is, in round robin (R360, R369). -/
def State.chainTurn (s : State) : Option Nat :=
  ((List.range 16).map (fun k => (s.regs.nextChain + k) % 16)).find? s.chainReady

/-- Read a record of chain n with the OP given, in its turn: one that offends stops the chain. -/
def State.chainRead (s : State) (n op : Nat) (f : List Word → State → Option State) : Option State :=
  if s.chainTurn ≠ some (n % 16) then none
  else match s.chainHead n with
    | none => none
    | some ws =>
      let s : State := { s with regs := { s.regs with nextChain := (n % 16 + 1) % 16 } }
      if badRecord ws then some (s.stopChain n) else if Wbits (ws.headD 0) 63 56 = op then f ws s else none

/-- COMMAND_NOP of chain i: it completes when read (R361). -/
def execCommandNop (s : State) : Result :=
  s.event (fun x s => s.chainRead x.i 0 (fun ws s => some (s.takeRec x.i (ws.headD 0) true)))

/-- COMMAND_LAUNCH of chain i: the launch goes to the dispatcher's input queue; while that is full the chain waits (R361,
R369, R383). Where the target is not in service, or for TGT 0x1F no cluster is, the chain stops (R443, R444, log 54). -/
def execCommandLaunch (s : State) : Result :=
  s.event (fun x s => s.chainRead x.i 1 (fun ws s =>
    match s.launchTarget (ws.headD 0) with
    | none => if s.clusBits = 0 then some (s.stopChain x.i) else none
    | some cl =>
      if !(s.cluster cl).inService then some (s.stopChain x.i)
      else if 8 ≤ (s.cluster cl).disp.length then none
      else
        let (l, s) := s.newUid
        let la : Launch := { chain := x.i % 16, recNo := (s.chain x.i).read, hdr := (ws.getD 1 0).toNat, cl := cl }
        let s : State := { s with launches := aset s.launches l la }
        some ((s.modCluster cl (fun c => { c with disp := c.disp ++ [l] })).takeRec x.i (ws.headD 0) false)))

/-- COMMAND_WAIT of chain i: it holds every later record (R361). -/
def execCommandWait (s : State) : Result :=
  s.event (fun x s => s.chainRead x.i 2 (fun ws s =>
    some ((s.takeRec x.i (ws.headD 0) false).modChain x.i (fun c => { c with held := true }))))

/-- WAIT_RELEASE of chain i: every earlier record has completed (R361). -/
def execWaitRelease (s : State) : Result :=
  s.event (fun x s =>
    match (s.chain x.i).held, (s.chain x.i).recs with
    | true, [r] => some ((s.modChain x.i (fun c => { c with held := false })).completeRec x.i r.1)
    | _, _ => none)

/-! ## The dispatcher (R39 to R41, R47, R363) -/

/-- Fields of a launch header by word (R39). -/
def Launch.word (la : Launch) (k : Nat) : Word := la.words.getD k 0
def Launch.fw (la : Launch) (j : Nat) : Nat := Wbits (la.word 3) (7 * j + 6) (7 * j)
def Launch.maxExt (la : Launch) (j : Nat) : Nat := Wbits (la.word (4 + j / 2)) (32 * (j % 2) + 31) (32 * (j % 2))
def Launch.kmode (la : Launch) : Nat := Wbits (la.word 3) 60 59
def Launch.prio (la : Launch) : BitVec 2 := (la.word 3).extractLsb' 61 2
def Launch.ice (la : Launch) : Bool := (la.word 3).getLsbD 63
def Launch.ident (la : Launch) : BitVec 24 := (la.word 7).extractLsb' 40 24
def Launch.stksz (la : Launch) : Nat := Wbits (la.word 7) 39 24

/-- Initial vshape: 0 where the header's value is not valid (R39, R226). -/
def Launch.vshape (la : Launch) : Word :=
  let v := ((la.word 7).extractLsb' 0 24).setWidth 64
  if vshapeOk v then v else 0

/-- Does a header lie in device memory, aligned (R40)? -/
def State.headerIn (s : State) (la : Launch) : Bool := la.hdr % 512 == 0 && decide (la.hdr / 8 + 64 ≤ s.memTop)

/-- Is a header well formed as far as it tells itself (R40)? FWj = 0 leaves EXTj ignored. -/
def State.headerOk (s : State) (la : Launch) : Bool :=
  s.headerIn la && (List.range 8).all (fun k => !s.poisoned (la.hdr / 8 + 8 * k)) &&
  Wbits (la.word 0) 3 0 == 0 && decide (((List.range 6).map la.fw).sum ≤ 64) &&
  (List.range 6).all (fun j => la.fw j == 0 || decide (32 ≤ la.fw j) || decide (la.maxExt j ≤ 2 ^ la.fw j)) &&
  (!la.ice || (Wbits (la.word 2) 4 0 == 0 && Wbits (la.word 2) 63 62 == 0)) && decide (la.kmode ≤ 1) &&
  decide (la.stksz ≤ (s.cluster la.cl).stkaSlot.toNat)

/-- The name under which a dispatcher waits for answers of other packages. -/
def dispUid (cl : Nat) : Nat := 2 ^ 62 + cl

/-- The indirect counts, read with the rights of the launch's identity (R41): a fault or poison gives none. -/
inductive Counts where
  | hold (s : State)
  | bad (s : State)
  | ok (s : State) (v : Nat)

/-- Read the counts of a launch. -/
def State.readCounts (s : State) (la : Launch) : Counts :=
  if !la.ice then .ok s 0
  else
    let rights : Rights := { cx := la.cl * 512, uid := dispUid la.cl, ident := la.ident, cbase := s.clearance la.ident }
    let ag := engineAgent rights
    let (s, _, r) := (s.identRead la.ident).engRead ag 0 [] (la.word 2) 192
    if r.hold then .hold s
    else
      let s' := s.dropFwds (dispUid la.cl)
      if r.fault.isSome || r.poison then .bad s' else .ok s' (s.engVal ag r.parts)

/-- Effective extents (R41). -/
def Launch.extents (la : Launch) (counts : Nat) : List Nat :=
  (List.range 6).map (fun j =>
    if la.fw j = 0 then 1
    else if la.ice then min (la.maxExt j) (bits counts (32 * j + 31) (32 * j)) else la.maxExt j)

/-- Keep what the dispatcher has read of a launch (R39, R41). -/
def State.keepLaunch (s : State) (l : Nat) (la : Launch) : State := { s with launches := aset s.launches l la }

/-- A launch leaves the dispatcher's input queue. -/
def State.leaveQueue (s : State) (cl l : Nat) : State :=
  s.modCluster cl (fun c => { c with disp := c.disp.filter (· != l), waits := c.waits.filter (fun w => w.src != 0) })

/-- A launch whose header is not well formed is rejected: record 0x10, and its chain record completes (R40, R410). -/
def State.rejectLaunch (s : State) (l : Nat) (la : Launch) : State :=
  ((((s.keepLaunch l la).leaveQueue la.cl l).logRec 0x10 13 la.cl la.ident (wordOfNat la.hdr) (wordOfNat la.chain)).launchDone l).notify la.cl

/-- The dispatcher begins a launch whose counts it has read: the keystone, then the tasks (R46, R47, R363); none while the
keystone pool is empty (R369). -/
def State.beginLaunch (s : State) (l : Nat) (la : Launch) (counts : Nat) : Option State :=
  let ext := la.extents counts
  let total := ext.foldl (· * ·) 1
  let la : Launch := { la with ext := ext, total := total, next := if total = 0 then none else some (List.replicate 6 0) }
  let go (s : State) (la : Launch) : State :=
    let s := (s.leaveQueue la.cl l).keepLaunch l la
    if total = 0 then s else s.modCluster la.cl (fun c => { c with cur := some l })
  if la.kmode = 0 then some (let t := go s la; if total = 0 then t.launchDone l else t)
  else match s.freeKey (la.cl * 512) with
    | none => none
    | some k =>
      let K : Keystone := { issued := 0x4000000000000000, launch := some l }
      let s := go { s with keystones := aset s.keystones k K } { la with kst := some k }
      some (if total = 0 then s.keyReturn k 0x4000000000000000 else s)

/-- DISPATCHER_TAKE_LAUNCH of cluster i (R363): the header is read once and judged, then the counts are read once, then the
launch begins. A launch with KMODE 01 waits while the keystone pool is empty (R46, R369). -/
def execDispatcherTakeLaunch (s : State) : Result :=
  s.event (fun x s =>
    let cl := x.i % 16
    let C := s.cluster cl
    match C.cur, C.disp with
    | none, l :: _ =>
      if !s.serving || !C.inService || C.drained then none
      else
        let la : Launch := (aget s.launches l).getD {}
        if la.words.isEmpty && (s.stopped (la.hdr / 8) && s.headerIn la) then none
        else
          let la : Launch := if la.words.isEmpty then { la with words := memWords s.mem 8 (la.hdr / 8), cl := cl } else la
          if ((aget s.launches l).getD {}).words.isEmpty && !s.headerOk la then some (s.rejectLaunch l la)
          else match la.counts with
            | some n => s.beginLaunch l la n
            | none =>
              match s.readCounts la with
              | .hold s => some (s.keepLaunch l la)
              | .bad s => some (s.rejectLaunch l la)
              | .ok s n =>
                let la : Launch := { la with counts := some n }
                some ((s.beginLaunch l la n).getD (s.keepLaunch l la))
    | _, _ => none)

/-- The coordinates after these, innermost first; none after the last (R41). -/
def nextCoords : List Nat → List Nat → Option (List Nat)
  | c :: cs, e :: es => if c + 1 < e then some ((c + 1) :: cs) else (nextCoords cs es).map (fun r => 0 :: r)
  | _, _ => none

/-- The work identifier of a coordinate tuple (R38). -/
def packWid : List Nat → List Nat → Nat → Nat
  | c :: cs, w :: ws, o => c * 2 ^ o + packWid cs ws (o + w)
  | _, _, _ => 0

/-- The starting state of a launched task (R42). -/
def State.launchedCtx (s : State) (la : Launch) (coords : List Nat) : Ctx :=
  let wid := wordOfNat (packWid coords ((List.range 6).map la.fw) 0)
  let csrs : Csrs :=
    { vshape := la.vshape, wid := wid, wfmt := (la.word 3).extractLsb' 0 42 |>.setWidth 64, ident := la.ident
      base := la.prio, eff := la.prio, kst := wordOfNat (la.kst.getD 0), twt := if la.kst.isSome then 0x100000000 else 0 }
  { startCtx (la.word 0) 0 (la.word 1) csrs with cbase := s.clearance la.ident }

/-- TASK_CREATE in cluster i: the next task of the launch takes a record of class D (R363, R365); after the last the dispatcher
returns its own weight, or with KMODE 00 the launch completes (R47, R361). -/
def execTaskCreate (s : State) : Result :=
  s.event (fun x s =>
    let cl := x.i % 16
    let C := s.cluster cl
    match C.cur with
    | none => none
    | some l =>
      let la := (aget s.launches l).getD {}
      match la.next, (if C.mayTake s.cycle 0 then C.recordFor (yardThreshold 0) 0 else none) with
      | some coords, some yr =>
        match (match la.kst with | none => some s | some k => s.keyIssue k (2 ^ 32)) with
        | none => none
        | some s =>
          let s := s.identRead la.ident
          let c := s.launchedCtx la coords
          let (uid, s) := s.newUid
          let r : YRec := { uid := uid, kind := .launched, base := la.prio, place := .fresh { c with uid := uid }, since := s.cycle
                            elig := s.cycle, stack := la.stksz, launch := some l, maker := cl * 512 }
          let s := ((s.take cl 0).modCluster cl (fun c => c.spendGrant 0 yr)).placeRec (cl * 512) yr r
          let next := nextCoords coords la.ext
          let s : State := { s with launches := aset s.launches l { la with next := next, created := la.created + 1 } }
          let s := s.modCluster cl (fun c => { c with waits := c.waits.filter (fun w => w.src != 0) })
          some (if next.isSome then s
            else
              let s := s.modCluster cl (fun c => { c with cur := none })
              match la.kst with
              | none => s.launchDone l
              | some k => s.keyReturn k 0x4000000000000000)
      | _, _ => none)

/-! ## The yard's choice (R60, R364, R366) -/

/-- First context of unit u: a cluster, or 16 + memory core. -/
def unitCtx (u : Nat) : Nat := if u < 16 then u * 512 else memCtxBase + 8 * (u - 16)

/-- Does the unit give contexts (R382)? -/
def State.unitServes (s : State) (u : Nat) : Bool :=
  if u < 16 then (s.cluster u).inService && !(s.cluster u).drained else (s.mcore (u - 16)).inService

/-- Wait age of a record that waits (R366). -/
def YRec.waited (r : YRec) (cycle : Nat) : Nat := r.age + (cycle - r.since)

/-- Does the record's task wait for a context, and may it take one (R200, R364, R397)? -/
def YRec.waits (r : YRec) (cycle : Nat) : Bool :=
  !r.held && !r.dying && decide (r.elig ≤ cycle) &&
    (match r.place with | .fresh _ => true | .suspended => true | .kept _ => true | _ => false)

/-- Yard priority (R366). -/
def YRec.yardPrio (r : YRec) (cycle : Nat) : Nat := min 3 (r.base.toNat + r.waited cycle / 4096)

/-- Is record x to be served before y? Lower record numbers come first in the list. -/
def servedBefore (cycle : Nat) (x y : YRec) : Bool :=
  decide (y.yardPrio cycle < x.yardPrio cycle) || (x.yardPrio cycle == y.yardPrio cycle && decide (y.waited cycle < x.waited cycle))

/-- The waiting task that the yard serves next (R366). -/
def bestWaiting (cycle : Nat) (y : Assoc YRec) : Option (Nat × YRec) :=
  y.foldl (fun (best : Option (Nat × YRec)) (x : Nat × YRec) =>
    if !x.2.waits cycle then best
    else match best with
      | none => some x
      | some b => if servedBefore cycle x.2 b.2 then some x else best) none

/-- The free context of group j of a cluster, or of a memory core, that is served first: the lowest core, and its lowest
context. -/
def State.freeCtx (s : State) (u j : Nat) : Option Nat :=
  let all := if u < 16 then (List.range 128).map (fun k => u * 512 + j % 4 * 128 + k) else (List.range 8).map (fun k => unitCtx u + k)
  all.find? (fun cx => !s.holds cx)

/-- YARD_GIVE in unit i to group j (R366). -/
def execYardGive (s : State) : Result :=
  s.event (fun x s =>
    if !s.unitServes x.i then none
    else match bestWaiting s.cycle (s.yardOf (unitCtx x.i)), s.freeCtx x.i x.j with
      | some (yr, _), some cx => if s.saveStands x.i yr then some (s.giveCtx cx yr) else none
      | _, _ => none)

/-- YIELD_ELIGIBLE of record j in unit i (R200). -/
def execYieldEligible (s : State) : Result :=
  s.event (fun x s =>
    match aget (s.yardOf (unitCtx x.i)) x.j with
    | none => none
    | some r => if r.elig ≠ 0 ∧ r.elig ≤ s.cycle then some (s.placeRec (unitCtx x.i) x.j { r with elig := 0 }) else none)

/-- RESUME_COUNTER_DRAIN of context i (R281). -/
def execResumeCounterDrain (s : State) : Result :=
  s.event (fun x s =>
    if s.holds x.i && (s.ctx x.i).drain && (s.ctx x.i).rcount == 0 then some (s.modCtx x.i (fun c => { c with drain := false, since := s.cycle }))
    else none)

/-- Since when a context has waited to issue while ready (R58). -/
def Ctx.readySince (c : Ctx) : Nat := max c.since c.turned

/-- Effective priority: a level for every 4,096 cycles of waiting while ready (R58). -/
def Ctx.effNow (c : Ctx) (cycle : Nat) : Nat := min 3 (c.csrs.base.toNat + (if c.ready then (cycle - c.readySince) / 4096 else 0))

/-- Does the first context go before the second in a pipe: by effective priority, and then by how long it has waited (R58)? -/
def Ctx.outranks (a b : Ctx) (cycle : Nat) : Bool :=
  decide (b.effNow cycle < a.effNow cycle) || (a.effNow cycle == b.effNow cycle && decide (a.readySince < b.readySince))

/-- Has the pipe of a core issued in this cycle: it issues one instruction a cycle (R58)? -/
def State.pipeUsed (s : State) (core : Nat) (vec : Bool) : Bool := aget s.pipes (2 * core + b2n vec) == some s.cycle

/-- A context issues in a pipe. -/
def State.useCycle (s : State) (cx : Nat) (vec : Bool) : State := { s with pipes := aset s.pipes (2 * coreOf cx + b2n vec) s.cycle }

/-- PRIORITY_AGE of context i: a ready context's effective priority rises (R58). A task's wait age is counted by its record
(R366). -/
def execPriorityAge (s : State) : Result :=
  s.event (fun x s =>
    let c := s.ctx x.i
    let eff := c.effNow s.cycle
    if s.holds x.i && c.ready && decide (c.csrs.eff.toNat < eff) then
      some (s.modCtx x.i (fun c => { c with csrs := { c.csrs with eff := BitVec.ofNat 2 eff } }))
    else none)

/-! ## Pre-emption (R52, R367) -/

/-- The contexts of a unit that hold tasks, by ctxid. -/
def State.running (s : State) (u : Nat) : List (Nat × Ctx) :=
  s.ctxs.filter (fun x => decide (unitCtx u ≤ x.1) && decide (x.1 < unitCtx u + (if u < 16 then 512 else 8)))

/-- The first context of a list that no other comes before. -/
def firstBy (f : Nat × Ctx → Nat × Ctx → Bool) : List (Nat × Ctx) → Option (Nat × Ctx)
  | [] => none
  | x :: xs => match firstBy f xs with
    | none => some x
    | some y => if f y x then some y else some x

/-- Does a task take part in an incomplete instance (R51, R52)? -/
def Barrier.has (b : Barrier) (C : Cluster) (l uid : Nat) : Bool :=
  b.result.isNone && (match b.launch with
    | some m => m == l
    | none => C.members.contains (b.scope, b.inst, uid))

/-- Does a participant of an incomplete BARV instance, of the launch of the context's task, wait for a context (R52)? -/
def State.barvStarves (s : State) (u : Nat) (c : Ctx) : Bool :=
  let y := s.yardOf (unitCtx u)
  match (aget y c.yr).bind (·.launch) with
  | none => false
  | some l => y.any (fun r => r.2.waits s.cycle && r.2.launch == some l &&
      (s.cluster u).barriers.any (fun b => b.has (s.cluster u) l r.2.uid))

/-- Since when a context that is not ready has not been. -/
def Ctx.notReadySince (c : Ctx) : Nat := max c.since c.turned

/-- The victim in case k of R367, where the case applies; in case 1 of the contexts that wait in BARV the one with the lowest
ctxid (log 51). -/
def State.victim (s : State) (u k : Nat) : Option Nat :=
  let y := s.yardOf (unitCtx u)
  let run := (s.running u).filter (fun x => !((aget y x.2.yr).getD {}).dying)
  let top := match bestWaiting s.cycle y with
    | some (_, r) => r.yardPrio s.cycle
    | none => 0
  let long := y.any (fun r => r.2.waits s.cycle && decide (2 ^ 16 ≤ r.2.waited s.cycle))
  let barv := run.filter (fun x => (match x.2.wait with | some w => w.kind == .barv | none => false) && s.barvStarves u x.2)
  let below := run.filter (fun x => decide (x.2.csrs.base.toNat < top))
  let stuck := run.filter (fun x => !x.2.ready && decide (2 ^ 16 ≤ s.cycle - x.2.notReadySince))
  let v : Option (Nat × Ctx) := match k with
   | 1 => barv.head?
   | 2 => firstBy (fun a b =>
       decide (a.2.csrs.base.toNat < b.2.csrs.base.toNat) ||
         (a.2.csrs.base == b.2.csrs.base &&
           ((!a.2.ready && b.2.ready) || (a.2.ready == b.2.ready && decide (b.2.uid < a.2.uid))))) below
   | 3 => if long then firstBy (fun a b => decide (a.2.notReadySince < b.2.notReadySince)) stuck else none
   | 4 => if long && barv.isEmpty && below.isEmpty && stuck.isEmpty then firstBy (fun a b => decide (a.2.taken < b.2.taken)) run else none
   | _ => none
  v.map (fun x => x.1)

/-- Cycle of the last pre-emption started in a unit. -/
def State.lastPreempt (s : State) (u : Nat) : Nat := if u < 16 then (s.cluster u).lastPreempt else (s.mcore (u - 16)).lastPreempt

/-- Note a pre-emption. -/
def State.notePreempt (s : State) (u : Nat) : State :=
  if u < 16 then s.modCluster u (fun c => { c with lastPreempt := s.cycle })
  else s.modMcore (u - 16) (fun m => { m with lastPreempt := s.cycle })

/-- The task has an effect under way that is neither performed nor still to come, as R202 has it at a pre-emption: an atomic at
another package, or an LDFE that has been served (log 22). An LDFE that waits at another package is taken back first (R207). -/
def State.atomicOut (s : State) (uid : Nat) : Bool := s.net.fwds.any (fun f => f.uid == uid && f.op == 4) || s.ldfeServed uid

/-- PREEMPT in unit i by case j of R367: but for a starved BARV no context is free; the victim's goes to the task that R366
chooses; at most one in 256 cycles. -/
def execPreempt (s : State) : Result :=
  s.event (fun x s =>
    let u := x.i
    let free := (List.range 4).any (fun g => (s.freeCtx u g).isSome)
    if (free && x.j != 1) || !s.unitServes u || decide (s.cycle < s.lastPreempt u + 256) then none
    else match s.victim u x.j, bestWaiting s.cycle (s.yardOf (unitCtx u)) with
      | some cx, some (yr, _) =>
        if !s.saveStands u (s.ctx cx).yr || !s.saveStands u yr then none
        else if s.atomicOut (s.ctx cx).uid then some (s.takeBack cx (s.ctx cx).uid)
        else some (((s.suspend cx).giveCtx cx yr).notePreempt u)
      | _, _ => none)

/-! ## Range splits (R44, R45, R50) -/

/-- The state of a task as a split finds it: its context, or what its record or save area holds. -/
def State.taskState (s : State) (rep yr : Nat) (r : YRec) : Option Ctx :=
  match r.place with
  | .running cx => some (s.ctx cx)
  | .kept c => some c
  | .fresh c => some c
  | .suspended => some (s.readSave ((s.cluster (clusterOf rep)).saveArea yr) r.kind)
  | .tile => none

/-- Change the range record and weight of a task, wherever it is. -/
def State.setSplit (s : State) (rep yr : Nat) (r : YRec) (hi twt : Word) : State :=
  let f (c : Ctx) : Ctx := { c with range := c.range.map (fun g => { g with hi := hi }), csrs := { c.csrs with twt := twt } }
  match r.place with
  | .running cx => s.modCtx cx f
  | .kept c => s.placeRec rep yr { r with place := .kept (f c) }
  | .fresh c => s.placeRec rep yr { r with place := .fresh (f c) }
  | .suspended =>
    let a := (s.cluster (clusterOf rep)).saveArea yr
    (s.setPhys (a + 0x108) hi).setPhys (a + 0x70) twt
  | .tile => s

/-- Length left of a range task that may be split: at least 2, and no draw that R50 forbids; 0 otherwise. -/
def State.splitLen (s : State) (c : Ctx) : Nat :=
  match c.range with
  | none => 0
  | some g => if g.cur.toNat + 2 ≤ g.hi.toNat ∧ (s.splitWeight c.csrs.kst c.csrs.twt).isSome then g.hi.toNat - g.cur.toNat else 0

/-- The range tasks of a unit in the order of R44: running by context, then the others by record. -/
def State.rangeTasks (s : State) (u : Nat) : List (Nat × YRec) :=
  let y := s.yardOf (unitCtx u)
  let run := (s.running u).filterMap (fun x => (aget y x.2.yr).map (fun r => (x.2.yr, r)))
  let rest := y.filter (fun r => match r.2.place with | .suspended => true | .kept _ => true | .fresh _ => true | _ => false)
  (run ++ rest).filter (fun r => r.2.kind == .range && !r.2.dying)

/-- The victim of a split: the eligible range task with the most left, the earlier in the order on a tie. -/
def State.splitVictim (s : State) (u : Nat) : Option (Nat × YRec × Ctx) :=
  (s.rangeTasks u).foldl (fun (best : Option (Nat × YRec × Ctx)) (x : Nat × YRec) =>
    match s.taskState (unitCtx u) x.1 x.2 with
    | none => best
    | some c =>
      let n := s.splitLen c
      match best with
      | none => if n = 0 then none else some (x.1, x.2, c)
      | some (b : Nat × YRec × Ctx) => if s.splitLen b.2.2 < n then some (x.1, x.2, c) else best) none

/-- The thief's starting state (R42). -/
def thiefCtx (rep : Nat) (v : Ctx) (g : RangeRec) (mid twt : Word) : Ctx :=
  let csrs : Csrs :=
    { vshape := g.vshape, wid := g.wid, wfmt := v.csrs.wfmt, sid := v.csrs.sid, ident := v.csrs.ident, base := v.csrs.base
      eff := v.csrs.base, kst := v.csrs.kst, twt := twt, trapctl := b2w (isMemCtx rep) }
  { startCtx g.entry g.arg g.s61 csrs with cbase := v.cbase, range := some { g with cur := mid } }

/-- A record for a thief: class T of a cluster, any of a memory core (R45, R60, R365). -/
def State.thiefRecord (s : State) (u : Nat) : Option Nat :=
  if u < 16 then (if 64 < (s.cluster u).freeRecs && (s.cluster u).mayTake s.cycle 1 then lowestFree (s.cluster u).yard 1024 else none)
  else lowestFree (s.mcore (u - 16)).yard 64

/-- Has a unit completed a split in this cycle: one a cycle (R45)? -/
def State.splitDone (s : State) (u : Nat) : Bool := match aget s.splits u with
  | some x => x.1 == s.cycle
  | none => false

/-- WORK_REQUEST of core j of unit i (R44, R45, R50): an idle core gets a thief, or a refusal; after a split it is answered in a
later cycle. -/
def execWorkRequest (s : State) : Result :=
  s.event (fun x s =>
    let u := x.i
    let rep := unitCtx u
    let cx? := ((List.range 8).map (fun k => rep + (if u < 16 then x.j % 64 * 8 else 0) + k)).find? (fun cx => !s.holds cx)
    match cx? with
    | none => none
    | some cx =>
      if !s.unitServes u || (bestWaiting s.cycle (s.yardOf rep)).isSome || s.splitDone u then none
      else match s.splitVictim u, s.thiefRecord u with
        | some (vr, r, v), some yr =>
          match v.range, s.splitWeight v.csrs.kst v.csrs.twt with
          | some g, some (s, mine, theirs) =>
            let mid := g.cur + wordOfNat ((g.hi.toNat - g.cur.toNat) / 2)
            let s : State := { s.setSplit rep vr r mid mine with splits := aset s.splits u (s.cycle, r.uid) }
            let (uid, s) := s.newUid
            let c := thiefCtx rep v g mid theirs
            let t : YRec := { uid := uid, kind := .range, base := c.csrs.base, place := .fresh { c with uid := uid }, since := s.cycle
                              elig := s.cycle, stack := r.stack, maker := cx }
            some (((if u < 16 then s.take u 1 else s).placeRec rep yr t).giveCtx cx yr)
          | _, _ => some s
        | _, _ => some s)

/-! ## The cellar ring (R371) -/

/-- CELLAR_REFILL in cluster i: the head of the ring, once it has been read, takes a record (R371, R438). What the record holds is
the model's own (log 32). -/
def execCellarRefill (s : State) : Result :=
  s.event (fun x s =>
    let cl := x.i % 16
    let C := s.cluster cl
    match C.cellar, (if 64 < C.freeRecs && C.mayTake s.cycle 1 then lowestFree C.yard 1024 else none) with
    | (_, r) :: rest, some yr =>
      match s.ringTake cl 0 (s.ringFirst (C.cellarDesc 0)) 128 with
      | .wait s => some s
      | .got s _ _ =>
        let s := s.modCluster cl (fun c => { c with cellar := rest, cellarFull := false })
        some ((s.take cl 1).placeRec (cl * 512) yr { r with since := s.cycle, elig := s.cycle })
    | _, _ => none)

/-! ## Plumb tokens (R373, R374) -/

/-- Queue number of the queue at which a wait record's code places a context: 5 copy engine, 6 event unit. -/
def waitqQueue : Nat → Option Nat
  | 1 => some 1
  | 2 => some 5
  | 3 => some 3
  | 4 => some 6
  | 5 => some 2
  | _ => none

/-- The queue at which a task of a record waits at issue. -/
def State.issueWait (s : State) (r : YRec) : Option Nat :=
  match r.place with
  | .running cx => waitqQueue (s.ctx cx).waitq
  | .suspended => waitqQueue r.waitq
  | _ => none

/-- The oldest running or suspended task of a yard. -/
def oldestTask (y : Assoc YRec) : Option YRec :=
  y.foldl (fun (best : Option YRec) (x : Nat × YRec) =>
    match x.2.place with
    | .fresh _ => best
    | .tile => best
    | _ => match best with
      | none => some x.2
      | some b => if x.2.uid < b.uid then some x.2 else best) none

/-- Is the mason's next micro-operation one that takes a yard record, and has not yet? -/
def State.masonWants (s : State) (cl : Nat) : Bool :=
  match s.masonTurn cl, (s.cluster cl).mason.run with
  | .run i, some r => (i == .mqk || i == .mpv) && r.tile.isNone
  | _, _ => false

/-- What queue q of a cluster waits on, with the entry that cannot leave (R373): 0 the dispatcher, 1 the tile generator, 2 the
mason, 3 the stream processor, 4 the task yard. -/
def State.waitsOn (s : State) (cl q : Nat) : Option (Nat × Nat) :=
  let C := s.cluster cl
  let blocked (n : Nat) : Bool := (C.recordFor (yardThreshold n) n).isNone
  match q with
  | 0 => match C.cur with
    | some l => if blocked 0 then some (4, l) else none
    | none => none
  | 1 => match C.gen.find? (fun p => !p.stopped && decide (p.placed < mshTiles p.mshape)) with
    | some p => if blocked 1 then some (4, p.handle.toNat * 8192 + p.placed) else none
    | none => none
  | 2 => if s.masonWants cl && blocked 2 then some (4, (C.mason.run.map (fun r => r.job.handle.toNat)).getD 0) else none
  | 3 => match C.streams.herdq with
    | k :: _ => if blocked 3 then some (4, k) else none
    | [] => none
  | 4 => if C.freeRecs = 0 then (oldestTask C.yard).bind (fun r => (s.issueWait r).map (fun d => (d, r.uid))) else none
  | _ => none

/-- The corbel grant of queue d to the next entry of queue q; none where d has none to give. -/
def grantCode (q d what : Nat) : Option Nat :=
  match d with
  | 4 => some q
  | 1 => some (4 + 64 * what)
  | 2 => some (34 + 64 * what)
  | 3 => some (35 + 64 * what)
  | _ => none

/-- Is the corbel entry of queue d in use or granted? -/
def Cluster.corbelUsed (c : Cluster) (d : Nat) : Bool :=
  match d with
  | 4 => (aget c.yard 1024).isSome || c.grants.any (fun g => decide (g < 4))
  | 1 => c.grants.any (fun g => g % 64 == 4)
  | 2 => c.grants.any (fun g => g % 64 == 34)
  | _ => c.grants.any (fun g => g % 64 == 35)

/-- Has queue q a grant in use? -/
def Cluster.grantHeld (c : Cluster) (q : Nat) : Bool :=
  if q < 4 then c.grants.contains q else c.grants.any (fun g => decide (4 ≤ g))

/-- PLUMB_TOKEN_SEND of queue j in cluster i: after 1,024 cycles of one wait the queue sends its token; before that its wait is
noted (R374). -/
def execPlumbTokenSend (s : State) : Result :=
  s.event (fun x s =>
    let cl := x.i % 16
    let C := s.cluster cl
    let others := C.waits.filter (fun w => w.src != x.j)
    let note (d what : Nat) : Option State :=
      some (s.modCluster cl (fun c => { c with waits := { src := x.j, dst := d, what := what, since := s.cycle } :: others }))
    match s.waitsOn cl x.j, C.waits.find? (fun w => w.src == x.j) with
    | none, none => none
    | none, some _ => some (s.modCluster cl (fun c => { c with waits := others }))
    | some (d, what), none => note d what
    | some (d, what), some w =>
      if w.dst ≠ d ∨ w.what ≠ what then note d what
      else if s.cycle < w.since + 1024 ∨ C.tokens.any (fun t => t.src == x.j) ∨ C.grantHeld x.j then none
      else
        let t : Token := { cl := cl, src := x.j, at_ := d }
        some (s.modCluster cl (fun c => { c with tokens := c.tokens ++ [t], waits := { w with since := s.cycle } :: others })))

/-- PLUMB_TOKEN_FORWARD of queue j's token in cluster i (R374): the queue that has it forwards it or drops it; a token that
comes back to its sender grants the corbel entry of the queue that the sender waits on. -/
def execPlumbTokenForward (s : State) : Result :=
  s.event (fun x s =>
    let cl := x.i % 16
    let C := s.cluster cl
    match C.tokens.find? (fun t => t.src == x.j) with
    | none => none
    | some t =>
      let others := C.tokens.filter (fun t => t.src != x.j)
      let drop (s : State) : State := s.modCluster cl (fun c => { c with tokens := others })
      some (match s.waitsOn cl t.at_ with
        | none => drop s
        | some (d, _) =>
          if d = t.src then
            match s.waitsOn cl t.src with
            | none => drop s
            | some (y, what) =>
              match grantCode t.src y what with
              | none => drop s
              | some g => if C.corbelUsed y then drop s else (drop s).modCluster cl (fun c => { c with grants := g :: c.grants })
          else if 16 ≤ t.hops + 1 then drop s
          else s.modCluster cl (fun c => { c with tokens := { t with at_ := d, hops := t.hops + 1 } :: others })))

/-! ## Remote stores, waits that end, the watchdog -/

/-- Let a killed task end once its stores are acknowledged (R395). -/
def State.finishDying (s : State) (rep uid : Nat) : State :=
  match (s.yardOf rep).find? (fun r => r.2.uid == uid && r.2.dying) with
  | some (yr, _) => s.killSuspended rep yr
  | none => s

/-- Does an earlier store of the same flow, of a core to one place, still wait to be performed (R111)? -/
def firstOfFlow (l : List RStore) (k : Nat) (r : RStore) : Bool :=
  !(l.take k).any (fun q => coreOf q.cx == coreOf r.cx && q.dst == r.dst && !q.done)

/-- REMOTE_STORE_ACK of the store at place i: it has been performed, and its task's counter falls (R117, R280). Stores that
another package performs are acknowledged by packets; one to a stack that stands still waits (R384). -/
def execRemoteStoreAck (s : State) : Result :=
  s.event (fun x s =>
    match s.rstores[x.i]? with
    | none => none
    | some r =>
      if r.req.isSome || !(r.done || (firstOfFlow s.rstores x.i r && !s.stopped r.key)) then none
      else
        let s := if r.done then s else s.performStore r
        let s : State := { s with rstores := s.rstores.eraseIdx x.i }
        some ((s.ackTask r.cx r.uid 1).finishDying r.cx r.uid))

/-- WATCHDOG of context i: a counted wait of 2^32 cycles traps; the cycles in which the cluster is drained do not count, and the
wait of a context that is ready is over (R58, R402). An LDFE that waits at another package is taken back first. -/
def execWatchdog (s : State) : Result :=
  s.event (fun x s =>
    let c := s.counted x.i
    match c.wait with
    | some w =>
      if s.holds x.i && w.kind.counted && !c.ready && decide (2 ^ 32 ≤ w.base + (s.cycle - w.since)) then
        if s.ldfeAsked c.uid then some (s.takeBack x.i c.uid)
        else some (((s.dropFwds c.uid).modCtx x.i (fun c => { c with carry := none })).trapEntry x.i
          { cause := 0x0B, detail := w.kind.code, val := w.what } w.pc w.len)
      else none
    | none => none)

/-- The instruction at which a context waits. -/
def WaitRec.cur (w : WaitRec) (cx : Nat) : Cur := { cx := cx, addr := w.pc, len := w.len }

/-- KWAIT_COMPLETE of context i: all the weight is back (R46, R59, R198). -/
def execKwaitComplete (s : State) : Result :=
  s.event (fun x s =>
    let c := s.ctx x.i
    match c.wait with
    | some w =>
      if s.holds x.i && w.kind == .kwait then
        match aget s.keystones c.csrs.kst.toNat with
        | some K =>
          if K.returned = K.issued then some (s.settle (w.cur x.i) (.okB (s.finishKwait x.i c.kdst c.csrs.kst.toNat))) else none
        | none => none
      else none
    | none => none)

/-- A pause of context i is over: its instruction completes as a region boundary. -/
def State.endPause (s : State) (cx : Nat) : Option State :=
  (s.ctx cx).wait.map (fun w => s.settle (w.cur cx) (.okB (s.modCtx cx (fun c => { c with pause := .none }))))

/-- WAITI_TIMEOUT of context i (R193). -/
def execWaitiTimeout (s : State) : Result :=
  s.event (fun x s =>
    match (s.ctx x.i).pause with
    | .waiti (some t) => if s.holds x.i && decide (t ≤ s.cycle) then s.endPause x.i else none
    | _ => none)

/-- SLEEP_END of context i (R408). -/
def execSleepEnd (s : State) : Result :=
  s.event (fun x s =>
    match (s.ctx x.i).pause with
    | .sleep t => if s.holds x.i && decide (t ≤ s.cycle) then s.endPause x.i else none
    | _ => none)

/-! ## Walks and fills (R90, R113) -/

/-- TABLE_WALK_END: the walk for the next instruction of context i ends, and installs its translation or faults it (R90). -/
def execTableWalkEnd (s : State) : Result :=
  s.event (fun x s =>
    if s.holds x.i && !(s.ctx x.i).drain then
      match s.translate (s.ctxAgent x.i) (s.ctx x.i).pc .fetch with
      | (s, _) => some s
    else none)

/-- L2_FILL of the fill at place i: the line is in the die's L2, and in the L1D of the core that asked (R113, R211). It waits
while the line's stack does (R384). -/
def execL2Fill (s : State) : Result :=
  s.event (fun x s =>
    match s.caches.fills[x.i]? with
    | none => none
    | some f =>
      if s.stopped (128 * f.line) then none
      else
        let s : State := { s with caches := { s.caches with fills := s.caches.fills.eraseIdx x.i } }
        some (s.readLine f.die f.core f.line f.tag f.stream))

end Sys2Proof.Machine
end

