-- ==== Sys2Proof/Machine/Stream.lean ====
section
/-!
DEFINITION. Rollout streams (R295 to R317, R428, R432 to R435): the instructions of page 14, what the stream processor does
with each, copy-on-write walks, herd groups, and join groups with their skims.
-/

namespace Sys2Proof.Machine

/-! ## Issue (R312, R369) -/

/-- Issue of a page-14 instruction. -/
def State.streamIssue (s : State) (c : Cur) (o : Ops) (kind : Nat) (op : EngOp) : Res :=
  let cl := clusterOf c.cx
  s.engIssue c o.d kind [] (let C := s.cluster cl
    decide (C.streams.queue.length < 64) || (C.placeFor 35 (s.ctx c.cx).uid && decide (C.streams.queue.length < 65))) queueStream
    (fun h s => s.modStreams cl (fun p => { p with queue := p.queue ++ [{ op with handle := h, rights := s.rightsOf c.cx }] }))

/-- A page-14 instruction that waits in the queue of the stream processor with its operands. -/
def streamInstr (o : Ops) (op kind : Nat) (srcs : List (BitVec 6 × Bool)) (s : State) : Result :=
  s.run coreOnly srcs (fun c s =>
    let x := s.me c
    s.streamIssue c o kind { op := op, a := x.readS o.a, b := x.readS o.b })

/-- SNEW (R313). -/
def execSnew (o : Ops) (s : State) : Result := streamInstr o 0x0 0x4 (srcAB o) s

/-- SFORK (R313). -/
def execSfork (o : Ops) (s : State) : Result := streamInstr o 0x1 0x4 (srcAB o) s

/-- SPRUNE (R313). -/
def execSprune (o : Ops) (s : State) : Result := streamInstr o 0x2 0x4 (srcA o) s

/-- SJGRP (R315): it waits at issue while the join unit has no free group. -/
def execSjgrp (o : Ops) (s : State) : Result :=
  s.run coreOnly (srcAB o) (fun c s =>
    let x := s.me c
    if 4096 ≤ (s.die (joinDie (x.readS o.b))).groups.length then .wait s .other 0
    else s.streamIssue c o 0x6 { op := 0x3, a := x.readS o.a, b := x.readS o.b })

/-- SJOIN (R315). -/
def execSjoin (o : Ops) (s : State) : Result := streamInstr o 0x4 0x6 (srcAB o) s

/-- SSTEP (R314). -/
def execSstep (o : Ops) (s : State) : Result := streamInstr o 0x5 0x4 (srcAB o) s

/-- SAQP (R314). -/
def execSaqp (o : Ops) (s : State) : Result := streamInstr o 0x6 0x4 (srcA o) s

/-- SAQW (R314). -/
def execSaqw (o : Ops) (s : State) : Result := streamInstr o 0x7 0x4 (srcAB o) s

/-- SHZ (R314). -/
def execShz (o : Ops) (s : State) : Result := streamInstr o 0x8 0x4 (srcA o) s

/-- SHZD (R314). -/
def execShzd (o : Ops) (s : State) : Result := streamInstr o 0x9 0x4 (srcA o) s

/-- The four forms of SMAP have one word (R316; log 12): OP is in S[a]. -/
def execSmapFresh (o : Ops) (s : State) : Result := streamInstr o 0xB 0x4 (srcAB o) s

/-- SMAP, Share (R316; log 12). -/
def execSmapShare (o : Ops) (s : State) : Result := streamInstr o 0xB 0x4 (srcAB o) s

/-- SMAP, Unmap (R316; log 12). -/
def execSmapUnmap (o : Ops) (s : State) : Result := streamInstr o 0xB 0x4 (srcAB o) s

/-- SMAP, Frame (R316; log 12). -/
def execSmapFrame (o : Ops) (s : State) : Result := streamInstr o 0xB 0x4 (srcAB o) s

/-- SEND (R314). -/
def execSend (o : Ops) (s : State) : Result := streamInstr o 0xC 0x4 (srcA o) s

/-- The first stream of an operation. -/
def EngOp.stream (op : EngOp) : BitVec 32 := op.streams.headD 0

/-- SMIG (R311, R317): its status is found at issue, from which the stream is MIGRATING; it issues once the earlier
operations on the stream have ended. -/
def execSmig (o : Ops) (s : State) : Result :=
  s.run coreOnly (srcAB o) (fun c s =>
    let x := s.me c
    let cl := clusterOf c.cx
    let id := streamOperand (s.rightsOf c.cx) (x.readS o.a)
    let pkg := Wbits (x.readS o.b) 11 0
    if (s.cluster cl).streams.queue.any (fun q => q.streams.contains id) || (s.cluster cl).streams.walking id then .wait s .other 0
    else
      let status := match (s.cluster cl).streams.find id with
        | none => 1
        | some (_, t) => if t.state != .idle then 2 else if pkg = s.sys.self ∨ !s.knows pkg then 3 else 0
      match s.streamIssue c o 0x4 { op := 0xA, a := x.readS o.a, b := x.readS o.b, posts := status } with
      | .done s tgt b =>
        if status = 0 then
          .done ((s.modStream cl (id.toNat % 4096) (fun t => { t with state := .migrating })).dropStreamTlb cl id) tgt b
        else .done s tgt b
      | r => r)

/-! ## The queue (R298) -/

/-- May the operation be performed now: one in progress goes on; else no walk is in progress on a stream of it, no earlier
operation works on one, nor, for one that goes to a join unit, does an earlier one of its context go to that (R298, R313). -/
def opTurn (p : StreamProc) (before : List EngOp) (op : EngOp) : Bool :=
  let joins (q : EngOp) : Bool := q.op == 3 || q.op == 4
  op.begun || (!op.streams.any p.walking && before.all (fun q => !(q.streams.any (fun t => op.streams.contains t)) &&
    !(joins q && joins op && q.rights.uid == op.rights.uid)))

/-- Take an operation off the queue. -/
def State.endOp (s : State) (cl : Nat) (op : EngOp) : State :=
  (s.modStreams cl (fun p => { p with queue := p.queue.filter (fun q => q.handle != op.handle) })).modCluster cl
    (fun c => c.placeFree 35 3)

/-- Complete an operation. -/
def State.opDone (s : State) (cl : Nat) (op : EngOp) (v : Word) : State := (s.endOp cl op).engResolve op.rights.cx op.handle v

/-- Fail an operation. -/
def State.opFail (s : State) (cl : Nat) (op : EngOp) (w : Word) : State :=
  (s.endOp cl op).engFail op.rights.cx 9 cl op.rights.ident op.handle w

/-- The operation met a damaged node or entry: its stream is broken, and it fails (R432). -/
def State.opBroken (s : State) (cl slot : Nat) (op : EngOp) (at_ : Nat) : State :=
  (s.breakStream cl slot at_).opFail cl op (failureWord 0x4 0x30 op.stream.toNat)

/-! ## New, forked and pruned streams (R313) -/

/-- The lowest FREE context; one that a migration to this cluster has taken is not free. -/
def StreamProc.freeSlot (p : StreamProc) : Option Nat :=
  (List.range 4096).find? (fun k =>
    (match aget p.ctxs k with | none => true | some c => c.state == .free) && p.inn.all (fun m => m.slot != k))

/-- The next generation of a slot (R295). -/
def nextGen (g : BitVec 16) : BitVec 16 := if g = 0xFFFF then 1 else g + 1

/-- Stream id of a slot (R295). -/
def streamId (cl slot : Nat) (gen : BitVec 16) : BitVec 32 := BitVec.ofNat 32 (gen.toNat * 2 ^ 16 + cl % 16 * 2 ^ 12 + slot)

/-- A fresh node: popped, zeroed, its count 1. -/
def State.freshNode (s : State) (cl : Nat) : Option (Nat × State) :=
  match s.popFrame cl false with
  | none => none
  | some (n, s) => some (n, (s.zeroFrame n 4096).setRef n 0 1)

/-- SNEW at the stream processor; none while the node ring is empty. -/
def State.snew (s : State) (cl : Nat) (op : EngOp) : Option State :=
  match (s.cluster cl).streams.freeSlot with
  | none => some (s.opDone cl op 0)
  | some k =>
    match s.freshNode cl with
    | none => none
    | some (root, s) =>
      let gen := nextGen (s.streamCtx cl k).gen
      let id := streamId cl k gen
      let aqn : BitVec 4 := op.a.extractLsb' 24 4
      let good := aqn != 0 && Wbits op.b 5 0 == 0 && Wbits op.b 63 37 == 0
      let t : StreamCtx :=
        { id := id, ident := op.rights.ident, state := .idle, prio := op.a.extractLsb' 28 2, aqn := if good then aqn else 0
          qb := if good then op.b.setWidth 37 else 0, hz := op.a.extractLsb' 32 32, root := root, gen := gen }
      some ((s.modStreams cl (fun p => { p with ctxs := aset p.ctxs k t })).opDone cl op (id.setWidth 64))

/-- SFORK at the stream processor. -/
def State.sfork (s : State) (cl : Nat) (op : EngOp) : State :=
  match (s.cluster cl).streams.find op.stream with
  | none => s.opDone cl op nl
  | some (slot, t) =>
    if t.state = .migrating then s.opDone cl op nl
    else match (s.cluster cl).streams.freeSlot with
      | none => s.opDone cl op 0
      | some k =>
        match s.badRef t.root with
        | some r => (s.freeze t.root).opBroken cl slot op r
        | none =>
          let gen := nextGen (s.streamCtx cl k).gen
          let id := streamId cl k gen
          let u : StreamCtx := { t with id := id, state := .idle, jg := if op.b = 0 then t.jg else op.b, gen := gen, herd := none }
          let s := s.refInc cl t.root
          let s := s.modStreams cl (fun p => { p with ctxs := aset p.ctxs k u })
          (s.dropStreamTlb cl t.id).opDone cl op (id.setWidth 64)

/-- End a live stream: it withdraws, leaves its open group, its context becomes FREE and its root is dropped (R313). A
damaged entry leaves the counts as they are, with a record (R432). -/
def State.prune (s : State) (cl slot : Nat) : State × Bool :=
  let t := s.streamCtx cl slot
  let s := ((s.withdraw t.id t.jg).freeStream cl slot).dropStreamTlb cl t.id
  match dropRoot cl t.root s with
  | .broken s a => ((s.logRec 0x28 9 cl t.ident (wordOfNat a) (t.id.setWidth 64)).notify cl, false)
  | .done s => (s, true)
  | .wait s => (s, true)

/-- SPRUNE at the stream processor. It does not proceed until the mason jobs on the stream have stopped (R355). -/
def State.sprune (s : State) (cl : Nat) (op : EngOp) : State :=
  match (s.cluster cl).streams.find op.stream with
  | none => s.opDone cl op nl
  | some (slot, t) =>
    if t.state = .migrating then s.opDone cl op 1
    else if (s.cluster cl).jobsOn t.id then s.stopJobs cl t.id
    else
      match s.prune cl slot with
      | (s, true) => s.opDone cl op 0
      | (s, false) => s.opFail cl op (failureWord 0x4 0x30 t.id.toNat)

/-! ## Layers and herds (R304 to R306) -/

/-- A layer as the stream processor reads it. -/
inductive Layer where
  | valid (entry args : Word) (size stack : Nat)
  | invalid
  | damaged (a : Nat)
  /-- its stack's memory cores are stopped (R384) -/
  | waits

/-- Read layer l of program p (R304). -/
def State.layer (s : State) (cl p l : Nat) : Layer :=
  let d := s.regs.slpt.toNat * 2 ^ 19 + 8 * p
  let a := (s.phys d).toNat / 8 + 24 * l
  if s.stopped d || s.stopped a || s.stopped (a + 16) then .waits
  else if s.poisoned d then .damaged d
  else if s.phys d = 0 ∨ s.memTop < a + 24 then .invalid
  else if s.poisoned a then .damaged a
  else if s.poisoned (a + 8) then .damaged (a + 8)
  else if s.poisoned (a + 16) then .damaged (a + 16)
  else
    let ctl := s.phys (a + 16)
    let h := Wbits ctl 8 0
    let stack := Wbits ctl 31 16
    if s.phys a = 0 ∨ Wbits (s.phys a) 3 0 ≠ 0 ∨ (s.cluster cl).stkaSlot.toNat < stack then .invalid
    else .valid (s.phys a) (s.phys (a + 8)) (if h = 0 ∨ 256 < h then 256 else h) stack

/-- Close an open group: its members become HERDED, and it takes a slot or waits for one (R305, R306). -/
def State.closeGroup (s : State) (cl : Nat) (g : Group) : State :=
  let herd (c : StreamCtx) : StreamCtx := if g.members.contains c.id && c.state == .arrived then { c with state := .herded, herd := some g.num } else c
  (s.modStreams cl (fun p => { p with
    open_ := p.open_.filter (fun x => x.num != g.num), closure := p.closure ++ [g], closed := (s.cycle, g.first, (g.members.headD 0).toNat)
    ctxs := p.ctxs.map (fun (x : Nat × StreamCtx) => (x.1, herd x.2)) })).serveHerds cl

/-- Of two open groups, the one that closes first (R305). -/
def earlier (a b : Group) : Group :=
  if b.first < a.first ∨ (b.first = a.first ∧ (b.members.headD 0).toNat < (a.members.headD 0).toNat) then b else a

/-- Has a group all its members, or have 4,096 cycles passed since its first arrival (R305)? -/
def Group.due (g : Group) (cycle : Nat) : Bool := decide (g.size ≤ g.members.length) || decide (g.first + 4096 ≤ cycle)

/-- Close the groups that are due, in order, at most n; none while the cluster is drained (R305, R383). -/
def State.closeDue (s : State) (cl : Nat) : Nat → State
  | 0 => s
  | n + 1 =>
    if (s.cluster cl).drained then s
    else match (s.cluster cl).streams.open_.filter (fun (g : Group) => g.due s.cycle) with
      | [] => s
      | g :: rest => (s.closeGroup cl (rest.foldl earlier g)).closeDue cl n

/-- The open group that a stream joins. -/
def StreamProc.openFor (p : StreamProc) (t : StreamCtx) : Option Group :=
  p.open_.find? (fun g => g.p == t.p && g.l == t.l && g.ident == t.ident && decide (g.members.length < g.size))

/-- May the stream arrive in this cycle: arrivals of a cycle with one key come in ascending id, and closures of a cycle in
their order (R305)? Else it arrives in a later one. -/
def StreamProc.arrives (p : StreamProc) (t : StreamCtx) (size cycle : Nat) : Bool :=
  let g := (p.openFor t).getD { first := cycle, size := size }
  let fills := decide (g.size ≤ g.members.length + 1)
  let head := (g.members.headD t.id).toNat
  !(p.arrivedAt == cycle && p.arrivals.any (fun a => a.1 == t.p && a.2.1 == t.l && a.2.2.1 == t.ident && decide (t.id.toNat < a.2.2.2.toNat))) &&
    !(fills && p.closed.1 == cycle && (decide (g.first < p.closed.2.1) || (g.first == p.closed.2.1 && decide (head < p.closed.2.2))))

/-- A stream arrives at its open group, which it may open, and which closes when it holds H members (R305). -/
def State.arrive (s : State) (cl : Nat) (t : StreamCtx) (entry args : Word) (size stack : Nat) : State :=
  let p := (s.cluster cl).streams
  let (num, s) := match p.openFor t with
    | some g => (g.num, s)
    | none =>
      let (num, s) := s.newUid
      let g : Group := { num := num, p := t.p, l := t.l, ident := t.ident, first := s.cycle, size := size, entry := entry, args := args, stack := stack }
      (num, s.modStreams cl (fun p => { p with open_ := p.open_ ++ [g] }))
  let join (g : Group) : Group := if g.num = num then { g with members := g.members ++ [t.id] } else g
  let now := if p.arrivedAt = s.cycle then p.arrivals else []
  (s.modStreams cl (fun p => { p with
    open_ := p.open_.map join, arrivedAt := s.cycle, arrivals := (t.p, t.l, t.ident, t.id) :: now })).closeDue cl 1

/-- SSTEP at the stream processor (R314); none while its arrival waits. -/
def State.sstep (s : State) (cl : Nat) (op : EngOp) : Option State :=
  match (s.cluster cl).streams.find op.stream with
  | none => some (s.opDone cl op nl)
  | some (slot, t) =>
    if t.state = .arrived ∨ t.state = .migrating then some (s.opDone cl op 1)
    else match s.layer cl (Wbits op.b 31 16) (Wbits op.b 15 0) with
      | .waits => none
      | .invalid => some (s.opDone cl op 3)
      | .damaged a => some (s.opFail cl op (failureWord 0x4 0x11 (faultField 0 (wordOfNat (8 * a)))))
      | .valid entry args size stack =>
        let u : StreamCtx := { t with p := op.b.extractLsb' 16 16, l := op.b.extractLsb' 0 16, state := .arrived, herd := none }
        if (s.cluster cl).streams.arrives u size s.cycle then
          some ((((s.modStream cl slot (fun _ => u)).arrive cl u entry args size stack).serveHerds cl).opDone cl op 0)
        else none

/-! ## Actions and horizon (R307, R308, R314) -/

/-- Stream-space bit address of an action. -/
def StreamCtx.action (t : StreamCtx) (q : BitVec 32) : Word :=
  0x4000000000000000 + t.qb.setWidth 64 + wordOfNat (64 * (q.toNat % 2 ^ t.aqn.toNat))

/-- The agent that reaches a stream's actions: the issuer's identity, the stream's tree. -/
def EngOp.agent (op : EngOp) (id : BitVec 32) : Agent := opAgent { op.rights with sid := id.setWidth 64 } op.handle

/-- The entry of a stream's tree on the way to a stream-space address that cannot be read, and its node. -/
def State.badPath (s : State) (t : StreamCtx) (a : Word) : Option (Nat × Nat) :=
  let ra := t.root + 8 * Wbits a 36 28
  let n := leafFrame (s.phys ra)
  if s.poisoned ra then some (ra, t.root)
  else if (s.phys ra).getLsbD 0 && s.poisoned (n + 8 * Wbits a 27 19) then some (n + 8 * Wbits a 27 19, n)
  else none

/-- A stream-space action-queue access at fault: a node that cannot be read breaks the stream, any other fault fails the
operation (R432). -/
def State.actionFault (s : State) (cl slot : Nat) (op : EngOp) (t : StreamCtx) (a : Word) (f : Trap) : State :=
  match (if f.cause = 0x0E then s.badPath t a else none) with
  | some (e, n) => (s.freeze n).opBroken cl slot op e
  | none => s.opFail cl op (faultWord 0x4 0 f)

/-- SAQP at the stream processor; none while the stream migrates. -/
def State.saqp (s : State) (cl : Nat) (op : EngOp) : Option State :=
  match (s.cluster cl).streams.find op.stream with
  | none => some (s.opDone cl op nl)
  | some (slot, t) =>
    if t.aqn = 0 ∨ t.qtail = t.qhead then some (s.opDone cl op nl)
    else
      let ag := op.agent t.id
      let a := t.action t.qhead
      let (s, _, r) := s.engRead ag 11 [] a 64
      if r.hold then none
      else match r.fault with
        | some f => some (s.actionFault cl slot op t a f)
        | none =>
          if r.poison then some (s.opFail cl op (failureWord 0x4 0x11 (faultField 0 a)))
          else
            let v := wordOfNat (s.engVal ag r.parts)
            some ((s.modStream cl slot (fun t => { t with qhead := t.qhead + 1 })).opDone cl op v)

/-- SAQW at the stream processor; none while the stream migrates or a ring is empty. -/
def State.saqw (s : State) (cl : Nat) (op : EngOp) : Option State :=
  match (s.cluster cl).streams.find op.stream with
  | none => some (s.opDone cl op nl)
  | some (slot, t) =>
    if op.b = nl then some (s.opDone cl op 2)
    else if t.aqn = 0 ∨ (t.qtail - t.qhead).toNat = 2 ^ t.aqn.toNat then some (s.opDone cl op 1)
    else match s.engWrite (op.agent t.id) 11 [] (t.action t.qtail) 64 op.b.toNat clean with
      | .hold s => some s
      | .fault s f =>
        if ((s.cluster cl).streams.find t.id).isNone then some (s.opFail cl op (failureWord 0x4 0x30 t.id.toNat))
        else some (s.actionFault cl slot op t (t.action t.qtail) f)
      | .done s _ _ _ _ => some ((s.modStream cl slot (fun t => { t with qtail := t.qtail + 1 })).opDone cl op 0)

/-- SHZ and SHZD at the stream processor. -/
def State.shz (s : State) (cl : Nat) (op : EngOp) (down : Bool) : State :=
  match (s.cluster cl).streams.find op.stream with
  | none => s.opDone cl op nl
  | some (slot, t) =>
    let hz := if down && t.hz != 0 then t.hz - 1 else t.hz
    (s.modStream cl slot (fun t => { t with hz := hz })).opDone cl op (hz.setWidth 64)

/-! ## SMAP (R316) -/

/-- The leaf entry of a stream's page, if the tree maps it: the entry, or the address of a damaged one and its node. -/
def State.leafOf (s : State) (t : StreamCtx) (page : Nat) : Option (Except (Nat × Nat) Word) :=
  let a := t.root + 8 * (page / 512)
  if s.poisoned a then some (.error (a, t.root))
  else if !(s.phys a).getLsbD 0 then none
  else
    let l := leafFrame (s.phys a) + 8 * (page % 512)
    if s.poisoned l then some (.error (l, leafFrame (s.phys a)))
    else if (s.phys l).getLsbD 0 then some (.ok (s.phys l)) else none

/-- Where SMAP takes the new page from. -/
inductive NewPage where
  | fresh (tag : Nat)
  | from (page tag : Nat)
  | unmap
  | missing
  | damaged (at_ node : Nat)

/-- The page that SMAP maps. -/
def State.newPage (s : State) (cl : Nat) (op : EngOp) : NewPage :=
  match Wbits op.a 31 30 with
  | 0 => .fresh (Wbits op.b 19 0)
  | 1 =>
    match (s.cluster cl).streams.find (op.b.extractLsb' 32 32) with
    | none => .missing
    | some (_, t) =>
      match s.leafOf t (Wbits op.b 17 0) with
      | none => .missing
      | some (.error (a, n)) => .damaged a n
      | some (.ok e) => .from (pageFrame e) (Wbits e 63 44)
  | 2 => .unmap
  | _ =>
    let p := Wbits op.b 39 16 * 2 ^ 16
    match s.badRef p with
    | some r => .damaged r p
    | none => if s.refCount p = 0 then .missing else .from p (s.refTag p)

/-- The root entry of a page is made valid with a fresh node. -/
def rootStep (cl slot page : Nat) (s : State) : Walked :=
  let a := (s.streamCtx cl slot).root + 8 * (page / 512)
  if (s.phys a).getLsbD 0 then .done s
  else match s.freshNode cl with
    | none => .wait s
    | some (n, s) => .done (s.setPhys a (wordOfNat (n + 1)))

/-- The leaf entry of a page is replaced, and what it mapped is dropped. -/
def leafStep (cl slot page : Nat) (new : Word) (s : State) : Walked :=
  let a := (s.streamCtx cl slot).root + 8 * (page / 512)
  if !(s.phys a).getLsbD 0 then .done s
  else
    let l := leafFrame (s.phys a) + 8 * (page % 512)
    let old := s.phys l
    if s.poisoned l then .broken (s.freeze (leafFrame (s.phys a))) l
    else if old.getLsbD 0 then dropPage cl (pageFrame old) (s.setPhys l new) else .done (s.setPhys l new)

/-- The change of one leaf entry, once every check has passed. -/
def smapWalk (cl slot : Nat) (op : EngOp) (np : NewPage) (s : State) : Walked :=
  let page := Wbits op.a 17 0
  let id := (s.streamCtx cl slot).id
  let o := page * 2 ^ 16
  let perm := b2n (op.a.getLsbD 25) * 4 + b2n (op.a.getLsbD 24) * 2 + 1
  let entry (p tag : Nat) : Word := wordOfNat (tag * 2 ^ 44 + p + perm)
  ((cowRoot cl slot (s.dropStreamTlb cl id)).bind (cowLeaf cl slot o)).bind (fun s =>
    match np with
    | .unmap => leafStep cl slot page 0 s
    | .fresh tag => (rootStep cl slot page s).bind (fun s =>
        match s.popFrame cl true with
        | none => .wait s
        | some (p, s) => leafStep cl slot page (entry p tag) ((s.zeroFrame p 65536).setRef p tag 1))
    | .from p tag => (rootStep cl slot page s).bind (readRef p (fun s =>
        (leafStep cl slot page (entry p tag) (s.refInc cl p)).bind (fun s => .done (s.dropFrameTlb p))))
    | _ => .done s)

/-- An operation has begun and goes on later: nothing else works on its streams before its end (R298). -/
def State.opBegun (s : State) (cl : Nat) (op : EngOp) : State :=
  s.modStreams cl (fun p => { p with queue := p.queue.map (fun (q : EngOp) => if q.handle = op.handle then { q with begun := true } else q) })

/-- SMAP at the stream processor. -/
def State.smap (s : State) (cl : Nat) (op : EngOp) : State :=
  match (s.cluster cl).streams.find op.stream with
  | none => s.opDone cl op nl
  | some (slot, t) =>
    if t.state = .migrating then s.opDone cl op 3
    else
      let np := s.newPage cl op
      let tag := match np with
        | .fresh tag => tag
        | .from _ tag => tag
        | _ => 0
      match np with
      | .missing => s.opDone cl op 1
      | .damaged a n => (s.freeze n).opBroken cl slot op a
      | _ =>
        match s.allowed (op.agent t.id) tag with
        | (s, false) =>
          (s.denial op.rights.ident tag 9 op.rights.cx (0x4000000000000000 + wordOfNat (Wbits op.a 17 0 * 2 ^ 19)) s.sys.self 0 false).opDone cl op 2
        | (s, true) =>
          match smapWalk cl slot op np s with
          | .done s => s.opDone cl op 0
          | .wait s => s.opBegun cl op
          | .broken s a => s.opBroken cl slot op a

/-! ## Joins (R309, R310, R315, R434) -/

/-- Is a policy word one that SJGRP takes (R309, R312)? -/
def goodPolicy (p : Word) : Bool :=
  Wbits p 63 28 == 0 && !p.getLsbD 11 && Wbits p 27 12 != 0 && Wbits p 7 0 != 0 && Wbits p 9 8 != 3

/-- SJGRP at the join unit; none while the unit has no free group. -/
def State.sjgrp (s : State) (cl : Nat) (op : EngOp) : Option State :=
  if Wbits op.b 5 0 ≠ 0 ∨ !goodPolicy op.a ∨ (s.group op.b).isSome then some (s.opDone cl op nl)
  else if !(s.die (joinDie op.b)).joinUp then some (s.opFail cl op (failureWord 0x6 0x50 0))
  else if 4096 ≤ (s.die (joinDie op.b)).groups.length then none
  else some ((s.modDie (joinDie op.b) (fun d => { d with groups := d.groups ++
    [{ key := op.b, handle := op.handle, rights := op.rights, policy := op.a }] })).endOp cl op)

/-- SJOIN at the join unit. -/
def State.sjoin (s : State) (cl : Nat) (op : EngOp) : State :=
  match (s.cluster cl).streams.find op.stream with
  | none => s.opDone cl op nl
  | some (_, t) =>
    match (if t.jg = 0 then none else s.group t.jg) with
    | none => s.opDone cl op 1
    | some g =>
      if g.count = g.size then s.opDone cl op 1
      else if g.returns.any (fun r => r.id == t.id) ∨ g.gone.contains t.id then s.opDone cl op 2
      else (s.modGroup t.jg (fun g => { g with returns := g.returns ++ [{ id := t.id, score := op.b.setWidth 32 }] })).opDone cl op 0

/-- Does return a rank before return b (R310)? -/
def JoinRet.before (low : Bool) (a b : JoinRet) : Bool :=
  let x := fF32.read false a.score.toNat
  let y := fF32.read false b.score.toNat
  match x == .nan, y == .nan with
  | true, true => decide (a.id.toNat < b.id.toNat)
  | true, false => false
  | false, true => true
  | false, false => if Fv.same x y then decide (a.id.toNat < b.id.toNat) else if low then Fv.lt x y else Fv.lt y x

/-- Place a return in a ranked list. -/
def rankIn (low : Bool) (r : JoinRet) : List JoinRet → List JoinRet
  | [] => [r]
  | x :: xs => if r.before low x then r :: x :: xs else x :: rankIn low r xs

/-- The greatest score, with −0 below +0; any NaN gives the canonical NaN (R310). -/
def maxScore (rs : List JoinRet) : Nat × Flags :=
  let vals := rs.map (fun r => fF32.read false r.score.toNat)
  if vals.contains .nan then (fF32.nan, 0)
  else
    let up (best : JoinRet) (r : JoinRet) : JoinRet :=
      let x := fF32.read false best.score.toNat
      let y := fF32.read false r.score.toNat
      if Fv.lt x y || (Fv.same x y && best.score.getLsbD 31 && !r.score.getLsbD 31) then r else best
    match rs with
    | [] => (0, 0)
    | r :: rest => ((rest.foldl up r).score.toNat, 0)

/-- The reduced value of all scores, f32, with its flags (R310). -/
def reduceScores (red : Nat) (rs : List JoinRet) : Nat × Flags :=
  if rs.isEmpty then (0, 0)
  else if red = 0 then maxScore rs
  else
    let (v, f) := Fv.sum .rne (rs.map (fun r => fF32.read false r.score.toNat))
    let (v, f) := if red = 1 then (v, f) else let (q, g) := Fv.div v (Fv.ofInt rs.length); (q, f ||| g)
    let (c, g) := fF32.give {} v
    (c, f ||| g)

/-- Is a stream live in the package? -/
def State.liveStream (s : State) (id : BitVec 32) : Bool := ((s.cluster (id.toNat / 4096 % 16)).streams.find id).isSome

/-- Write the words of a result area, as the issuer of SJGRP; what does not translate, or is denied, is dropped with a
record a page (R434). None while an access waits. -/
def writeArea (ag : Agent) (g : JoinGroup) : List Word → Nat → List Nat → List Nat → State → Option State
  | [], _, _, _, s => some s
  | w :: ws, i, seen, bad, s =>
    let a := g.key + wordOfNat (64 * i)
    let drop (s : State) (seen : List Nat) : Option State :=
      let page := a.toNat / 2 ^ 19
      if bad.contains page then writeArea ag g ws (i + 1) seen bad s
      else writeArea ag g ws (i + 1) seen (page :: bad) (s.logRec 0x35 11 (joinDie g.key) g.rights.ident a g.handle)
    match s.engWrite ag 12 seen a 64 w.toNat clean with
    | .done s n seen _ _ => if n = 0 then writeArea ag g ws (i + 1) seen bad s else drop s seen
    | .hold _ => none
    | .fault s _ => drop s seen

/-- Completion of a group: ranking, reduction, the result area, and the streams to skim (R310). The result area is in global
space; while a word of it waits, the group does. -/
def State.completeJoin (s : State) (g : JoinGroup) : State :=
  let ranked := g.returns.foldl (fun l r => rankIn (g.policy.getLsbD 10) r l) []
  let kept := min (Wbits g.policy 7 0) g.returns.length
  let (red, flg) := reduceScores (Wbits g.policy 9 8) g.returns
  let word := wordOfNat (g.wdr * 2 ^ 32 + g.returns.length * 2 ^ 16 + flg.toNat * 2 ^ 8 + kept)
  let winners := (ranked.take kept).flatMap (fun r =>
    [wordOfNat (b2n (!s.liveStream r.id) * 2 ^ 63 + r.id.toNat), r.score.setWidth 64])
  let skims := (ranked.drop kept).map (·.id)
  let sorted := skims.foldl (fun l x => insertKey x.toNat l) []
  let ag : Agent := { opAgent { g.rights with sid := 0 } g.handle with wins := [], die := joinDie g.key }
  match writeArea ag g (wordOfNat red :: word :: winners) 0 [] [] s with
  | none => s
  | some s => s.modGroup g.key (fun g => { g with word := some word, skims := sorted.map (BitVec.ofNat 32) })

/-- One skim: SPRUNE of a live stream, after what is in progress on it and the mason jobs on it have ended (R298, R310, R355), and
after the groups that are due have closed (R305). -/
def State.skim (s : State) (g : JoinGroup) (id : BitVec 32) : State :=
  let cl := id.toNat / 4096 % 16
  let next (s : State) : State := s.modGroup g.key (fun g => { g with skims := g.skims.drop 1 })
  match (s.cluster cl).streams.find id with
  | none => next s
  | some (slot, t) =>
    if t.state = .migrating then next s
    else if (s.cluster cl).streams.busy id then s
    else if (s.cluster cl).jobsOn id then s.stopJobs cl id
    else next ((s.closeDue cl (s.cluster cl).streams.open_.length).prune cl slot).1

/-- JOIN_RESOLVE of the group with key w: the work of its completion in turn, then the group is freed and SJGRP resolves,
once every free walk has ended (R310). -/
def execJoinResolve (s : State) : Result :=
  s.event (fun x s =>
    match s.group x.w with
    | none => none
    | some g =>
      match g.word with
      | none => if g.count = g.size then some (s.completeJoin g) else none
      | some word =>
        match g.skims with
        | id :: _ => some (s.skim g id)
        | [] =>
          if s.engSettled g.handle then
            some ((s.modDie (joinDie g.key) (fun d => { d with groups := d.groups.filter (fun h => h.key != g.key) })).resolve g.handle word false)
          else none)

/-! ## SEND and SMIG at the stream processor (R314, R317, R332) -/

/-- SEND: the populations bound to the stream are unloaded first, then a HERDED stream becomes IDLE. -/
def State.send_ (s : State) (cl : Nat) (op : EngOp) : State :=
  match (s.cluster cl).streams.find op.stream with
  | none => s.opDone cl op nl
  | some (slot, t) =>
    if t.state ≠ .herded then s.opDone cl op 1
    else
      let bound := (s.cluster cl).events.boundTo t.id
      if bound.isEmpty then (((s.modStream cl slot (fun t => { t with state := .idle, herd := none })).serveHerds cl)).opDone cl op 0
      else (bound.foldl (fun s k => s.askUnload cl k none) s).opBegun cl op

/-- The 512-bit context image (R296). -/
def StreamCtx.image (t : StreamCtx) (state : Nat) : List Word :=
  let n := t.id.toNat * 2 ^ 480 + t.ident.toNat * 2 ^ 456 + state * 2 ^ 453 + t.prio.toNat * 2 ^ 451 + t.aqn.toNat * 2 ^ 447
    + t.qb.toNat * 2 ^ 410 + t.jg.toNat * 2 ^ 320 + t.hz.toNat * 2 ^ 288 + t.p.toNat * 2 ^ 240 + t.l.toNat * 2 ^ 224
    + t.qhead.toNat * 2 ^ 192 + t.qtail.toNat * 2 ^ 160 + t.root / 2 ^ 12 * 2 ^ 132
  (List.range 8).map (fun i => wordOfNat (n >>> (64 * i)))

/-- A packet of a migration, which carries its name (R126, log 24). -/
def State.sendSnap (s : State) (cl : Nat) (m : MigSrc) (ident : BitVec 24) (op : Nat) (ws : List Word) : State :=
  s.sendPacket { cls := 2, dpkg := m.pkg, spkg := s.sys.self, dagt := portAgent cl, sagt := portAgent cl, idn := ident.toNat, op := op, payload := ws, name := m.name }

/-- SMIG: its status, or SOPEN to the destination, one migration at a time to each package (R126, R311). -/
def State.smig (s : State) (cl : Nat) (op : EngOp) : Option State :=
  match op.posts with
  | 1 => some (s.opDone cl op nl)
  | 2 => some (s.opDone cl op 0x8000000000000000)
  | 3 => some (s.opDone cl op 0xC000000000000000)
  | _ =>
    let pkg := Wbits op.b 11 0
    if (s.cluster cl).streams.out.any (fun m => m.pkg == pkg) then none
    else
      let slot := op.stream.toNat % 4096
      let t := s.streamCtx cl slot
      let m : MigSrc := { handle := op.handle, rights := op.rights, slot := slot, pkg := pkg, name := s.net.nextName, sent := s.cycle }
      let s : State := { s with net := { s.net with nextName := s.net.nextName + 1 } }
      let s := s.sendSnap cl m t.ident 0x10 (({ t with jg := 0 } : StreamCtx).image 4)
      some ((s.modStreams cl (fun p => { p with out := p.out ++ [m] })).endOp cl op)

/-- The acknowledgement of an installed stream: the references here are dropped, SDROP is sent, and SMIG resolves (R311). -/
def State.moveDone (s : State) (cl : Nat) (m : MigSrc) : State :=
  let t := s.streamCtx cl m.slot
  let s := s.withdraw t.id t.jg
  let s := match dropRoot cl t.root s with
    | .done s => s
    | .wait s => s
    | .broken s a => (s.logRec 0x28 9 cl t.ident (wordOfNat a) (t.id.setWidth 64)).notify cl
  let s := (s.dropStreamTlb cl t.id).sendSnap cl m t.ident 0x16 []
  let s := s.modStreams cl (fun p => { p with out := p.out.filter (fun q => q.slot != m.slot) })
  (s.freeStream cl m.slot).engResolve m.rights.cx m.handle (m.newId.setWidth 64)

/-- The acknowledgement: the migration goes on once the mason jobs on the stream have stopped (R355). -/
def State.moveAcked (s : State) (cl : Nat) (m : MigSrc) : State :=
  let id := (s.streamCtx cl m.slot).id
  if (s.cluster cl).jobsOn id then
    (s.stopJobs cl id).modStreams cl (fun p => { p with out := p.out.map (fun (x : MigSrc) => if x.slot = m.slot then { x with acked := true } else x) })
  else s.moveDone cl m

/-! ## Events of the stream processor -/

/-- What the stream processor does with an operation; none while it cannot. -/
def State.streamOp (s : State) (cl : Nat) (op : EngOp) : Option State :=
  match op.op with
  | 0x0 => s.snew cl op
  | 0x1 => some (s.sfork cl op)
  | 0x2 => some (s.sprune cl op)
  | 0x3 => s.sjgrp cl op
  | 0x4 => some (s.sjoin cl op)
  | 0x5 => s.sstep cl op
  | 0x6 => s.saqp cl op
  | 0x7 => s.saqw cl op
  | 0x8 => some (s.shz cl op false)
  | 0x9 => some (s.shz cl op true)
  | 0xA => s.smig cl op
  | 0xB => some (s.smap cl op)
  | _ => some (s.send_ cl op)

/-- STREAM_OP_RESOLVE in cluster i of the operation with handle w (R298, R312), or of a migration that waits for the jobs on
its stream (R355). -/
def execStreamOpResolve (s : State) : Result :=
  s.event (fun x s =>
    let q := (s.cluster x.i).streams.queue
    match q.find? (fun op => op.handle == x.w) with
    | none => ((s.cluster x.i).streams.out.find? (fun m => m.acked && m.handle == x.w)).map (fun m => s.moveAcked (x.i % 16) m)
    | some op => if opTurn (s.cluster x.i).streams (q.takeWhile (fun o => o.handle != x.w)) op then (s.closeDue (x.i % 16) (s.cluster x.i).streams.open_.length).streamOp (x.i % 16) op else none)

/-- COW_WALK in cluster i for the write that waits at place j (R302, R432, R433), in its turn on its stream (R298). -/
def execCowWalk (s : State) : Result :=
  s.event (fun x s =>
    let cl := x.i % 16
    match (s.cluster cl).streams.cows[x.j]? with
    | none => none
    | some q =>
      let drop (s : State) : State := s.modStreams cl (fun p => { p with cows := p.cows.filter (· != q) })
      match (s.cluster cl).streams.find q.sid with
      | none => some (drop s)
      | some (slot, t) =>
        if t.state = .migrating || ((s.cluster cl).streams.cows.take x.j).any (fun c => c.sid == q.sid) || (s.cluster cl).streams.queue.any (fun (o : EngOp) => o.begun && o.streams.contains q.sid) then none
        else match cow cl slot q.off s with
          | .done s => some (drop s)
          | .wait s => some s
          | .broken s a => some (drop (s.breakStream cl slot a)))

/-- HERD_CLOSE_TIMEOUT in cluster i: an open group closes 4,096 cycles after its first arrival, in cycles of service (R305,
R383); or the herd tasks that wait for a record are served (R365). -/
def execHerdCloseTimeout (s : State) : Result :=
  s.event (fun x s =>
    if (s.cluster x.i).streams.open_.any (fun (g : Group) => g.due s.cycle) then some (s.closeDue (x.i % 16) 1)
    else if (s.cluster x.i).streams.herdq.isEmpty then none else some (s.serveHerds (x.i % 16)))

end Sys2Proof.Machine
end

