-- ==== Sys2Proof/Machine/System.lean ====
section
/-!
DEFINITION. Supervisor instructions of page 17 (R99, R100, R107 to R109, R382, R397, R404 to R407, R425) and their events:
dropping translations, identities, forced pre-emption, the event counters, page moves, draining and wiping a cluster, the
error log.
-/

namespace Sys2Proof.Machine

/-! ## TLBINV (R107, R415) -/

/-- Drop TLB entries throughout the package. -/
def State.dropTlb (s : State) (p : TlbEntry → Bool) : State :=
  { s with caches := { s.caches with tlbs := s.caches.tlbs.map (fun (t : Nat × List TlbEntry) => (t.1, t.2.filter (fun e => !p e))) } }

/-- Drop tag-check cache entries throughout the package. -/
def State.dropTags (s : State) (p : TagEntry → Bool) : State :=
  { s with clusters := s.clusters.map (fun c => { c with tagCache := c.tagCache.filter (fun e => !p e) }) }

/-- Does an access that has gone to another package await its answer: it may have been translated through any entry (R415, log 59)? -/
def State.accessOut (s : State) : Bool :=
  s.rstores.any (fun r => r.req.isSome && decide (r.key < windowBase)) ||
    s.net.fwds.any (fun f => f.resp.isNone && !f.lost && decide (f.line < windowBase))

/-- TLBINV: every access translated so far has been performed when it completes; it waits for those that another package
performs (R415). -/
def tlbinv (srcs : List (BitVec 6 × Bool)) (drop : Word → State → State) (a : BitVec 6) (s : State) : Result :=
  s.runSuper srcs (fun c s =>
    if s.accessOut then .wait s .other 0
    else .okB (drop ((s.me c).readS a) (s.flush (fun r => decide (r.key < windowBase)))))

/-- Does an entry map the page that holds a global bit address? -/
def TlbEntry.maps (e : TlbEntry) (x : Word) : Bool := !e.stream && e.key == Wbits x 59 3 / 2 ^ e.size

/-- TLBINV.GPAGE (R107). -/
def execTlbinvGpage (o : Ops) (s : State) : Result := tlbinv (srcA o) (fun x s => s.dropTlb (fun e => e.maps x)) o.a s
/-- TLBINV.GALL (R107). -/
def execTlbinvGall (s : State) : Result := tlbinv [] (fun _ s => s.dropTlb (fun e => !e.stream)) 0 s
/-- TLBINV.SID (R107). -/
def execTlbinvSid (o : Ops) (s : State) : Result :=
  tlbinv (srcA o) (fun x s => s.dropTlb (fun e => e.stream && e.sid == x.toNat)) o.a s
/-- TLBINV.SALL (R107). -/
def execTlbinvSall (s : State) : Result := tlbinv [] (fun _ s => s.dropTlb (fun e => e.stream)) 0 s
/-- TLBINV.IDENT (R107). -/
def execTlbinvIdent (o : Ops) (s : State) : Result :=
  tlbinv (srcA o) (fun x s => s.dropTags (fun e => e.ident == x.extractLsb' 0 24)) o.a s
/-- TLBINV.IALL (R107). -/
def execTlbinvIall (s : State) : Result := tlbinv [] (fun _ s => s.dropTags (fun _ => true)) 0 s
/-- TLBINV.ALL (R107). -/
def execTlbinvAll (s : State) : Result :=
  tlbinv [] (fun _ s => (s.dropTlb (fun _ => true)).dropTags (fun _ => true)) 0 s

/-! ## IDSET, PCNT, ELOGR (R108, R407, R425) -/

/-- IDSET (R108): a is read before d is written. -/
def execIdset (o : Ops) (s : State) : Result :=
  s.runSuper (srcA o) (fun c s =>
    let old := (s.me c).csrs.ident
    .okB ((s.setIdent c.cx (((s.me c).readS o.a).extractLsb' 0 24)).onMe c (fun x => x.writeS o.d (old.setWidth 64))))

/-- Value of event counter n of a core. -/
def State.perfCount (s : State) (core n : Nat) : Word := if 8 ≤ n then 0 else (aget s.perf (core * 8 + n)).getD 0

/-- PCNT (R407): with f = 1 it also clears the counter. -/
def execPcnt (o : Ops) (s : State) : Result :=
  s.runSuper (srcA o) (fun c s =>
    let n := ((s.me c).readS o.a).toNat
    let v := s.perfCount (coreOf c.cx) n
    let s : State := if o.f = 1 ∧ n < 8 then { s with perf := adel s.perf (coreOf c.cx * 8 + n) } else s
    .okB (s.onMe c (fun x => x.writeS o.d v)))

/-- A word of the error-log record with a SEQ; all ones where the ring does not hold it (R425). -/
def ErrLog.read (l : ErrLog) (seq k : Nat) : Word :=
  match aget l.recs (seq % 4096) with
  | some ws => if seq < 2 ^ 32 ∧ Wbits (ws.headD 0) 63 32 = seq then ws.getD k 0 else 0xFFFFFFFFFFFFFFFF
  | none => 0xFFFFFFFFFFFFFFFF

/-- ELOGR (R425). -/
def execElogr (o : Ops) (s : State) : Result :=
  s.runSuper (srcAB o) (fun c s =>
    let x := s.me c
    let b := x.readS o.b
    .okB (s.onMe c (fun y => y.writeS o.d (
      if b.getLsbD 8 then wordOfNat s.log.next else s.log.read (x.readS o.a).toNat (Wbits b 1 0)))))

/-! ## CTXSAVE and CTXLOAD (R404, R405) -/

/-- Does a ctxid name a context that an instruction of context cx may act on: one of its cluster, or of its memory core? -/
def sameUnit (cx n : Nat) : Bool :=
  if isMemCtx cx then isMemCtx n && memCoreOf n == memCoreOf cx else !isMemCtx n && clusterOf n == clusterOf cx

/-- The context that a ctxid names to an instruction of context cx: on a memory core, one of a memory core (R36, R60). -/
def ctxNamed (cx v : Nat) : Nat := if isMemCtx cx then memCtxBase + v else v

/-- CTXSAVE (R404). -/
def execCtxsave (o : Ops) (s : State) : Result :=
  s.runSuper (srcAB o) (fun c s =>
    let x := s.me c
    let n := ctxNamed c.cx (x.readS o.a).toNat
    let give (s : State) (v : Word) : Res := .okB (s.onMe c (fun x => x.writeS o.d v))
    if !sameUnit c.cx n || n == c.cx then give s 0x8000000000000000
    else if !s.holds n then give s 0x4000000000000000
    else if !s.saveStands (if isMemCtx n then 16 else clusterOf n) (s.ctx n).yr then .wait s .other 0
    else if s.atomicOut (s.ctx n).uid then .wait (s.takeBack n (s.ctx n).uid) .other 0
    else give (if (x.readS o.b).getLsbD 0 then s.holdRunning n else s.suspend n) (wordOfNat (s.ctx n).yr))

/-- The whole of CTXLOAD (R405; log 12): the action is in S[b]. A record with no task to act on gives 1 whatever the action. -/
def ctxload (o : Ops) (s : State) : Result :=
  s.runSuper (srcAB o) (fun c s =>
    let x := s.me c
    let n := (x.readS o.a).toNat
    let give (s : State) (v : Word) : Res := .okB (s.onMe c (fun x => x.writeS o.d v))
    match (if n ≤ 1024 then aget (s.yardOf c.cx) n else none) with
    | none => give s 1
    | some r =>
      if r.place == .tile then give s 1
      else if x.readS o.b = 0 then
        if r.held && !r.dying then give (s.placeRec c.cx n { r with held := false, since := s.cycle }) 0 else give s 2
      else if x.readS o.b = 1 then
        match r.place with
        | .running _ => give s 2
        | _ => if s.saveStands (if isMemCtx c.cx then 16 else clusterOf c.cx) n then give (s.killSuspended c.cx n) 0 else .wait s .other 0
      else give s 3)

/-- CTXLOAD, release (R405; log 12). -/
def execCtxloadRelease (o : Ops) (s : State) : Result := ctxload o s
/-- CTXLOAD, kill (R405; log 12). -/
def execCtxloadKill (o : Ops) (s : State) : Result := ctxload o s

/-! ## Page moves (R99, R100, R109) -/

/-- PGMOV (R109): issues the move. -/
def execPgmov (o : Ops) (s : State) : Result :=
  s.runSuper (srcAB o) (fun c s =>
    let x := s.me c
    let b := x.readS o.b
    s.engIssue c o.d 0x8 [] true 0 (fun h s =>
      let m : MoveOp := { handle := h, rights := s.rightsOf c.cx, va := x.readS o.a &&& ~~~(0x7FFFF : Word)
                          dpkg := Wbits b 51 40, dframe := Wbits b 39 16 }
      { s with moves := s.moves ++ [m] }))

/-- Replace a move. -/
def State.putMove (s : State) (i : Nat) (m : MoveOp) : State := { s with moves := s.moves.set i m }

/-- The leaf that maps an address: its place, its value and its level, without setting A or D; none where none is valid, nor for an
address of stream or local-window space (log 101). -/
def State.pageLeaf (s : State) (va : Word) : Option (Nat × Word × Nat) :=
  if va.getLsbD 63 || va.getLsbD 62 then none
  else match s.globalWalk va with
    | .leaf a e level => some (a, e, level)
    | _ => none

/-- Does the walk of an address wait for the memory cores of a stack (R384)? -/
def State.walkHeld (s : State) (va : Word) : Bool := match s.globalWalk va with | .wait => true | _ => false

/-- The walk of a move that a damaged entry ends leaves its record (R413). -/
def State.leafRec (s : State) (m : MoveOp) : State :=
  match (if m.va.getLsbD 63 || m.va.getLsbD 62 then .invalid else s.globalWalk m.va) with
  | .damaged a => s.damagedRec a m.rights.ident m.va
  | _ => s

/-- Frames of a package: of this one, those below the top of its memory; another's may have every stack (log 23). -/
def State.frameOk (s : State) (pkg frame : Nat) : Bool :=
  decide (frame * 2 ^ 16 + 2 ^ 16 ≤ (if pkg = s.sys.self then s.memTop else 12 * 2 ^ 36))

/-- Is the page in a frame of this package settled (R99)? -/
def State.settled (s : State) (frame : Nat) : Bool :=
  let r := s.readRec (s.hotRec frame) 64
  bits r 305 304 == 2 && decide (s.cycle - bits r 207 160 < 2 ^ 24)

/-- The statuses of R109 that the issuing package finds, and else where the page is. A leaf whose OWN names no package of the
system is not valid, as the walk of R90 has it. -/
def State.judgeMove (s : State) (m : MoveOp) : Nat × Nat × Nat :=
  match s.pageLeaf m.va with
  | none => (if s.regs.hotbTbl then 4 else 6, 0, 0)
  | some (_, e, level) =>
    let own := Wbits e 43 32
    let frame := Wbits e 31 8
    let st :=
      if !s.regs.hotbTbl then 6
      else if !s.knows own then 4
      else if level ≠ 0 || e.getLsbD 1 then 2
      else if !s.knows m.dpkg || !s.frameOk m.dpkg m.dframe then 5
      else if own = m.dpkg ∧ frame = m.dframe then 3
      else 0
    (st, own, frame)

/-- Begin a move that this package, as the owner, judges: settled, or it moves; one of the page that is under way is waited
for. The agents that the request names are the model's (log 24). -/
def State.ownerMove (s : State) (i : Nat) (m : MoveOp) (own frame : Nat) : Option State :=
  let (own, key) := s.whereNow stubFuel own (frame * 2 ^ 16)
  let f := key / 2 ^ 16
  if s.moves.any (fun q => q.begun && q.own == own && q.frame == f) then none
  else if own ≠ s.sys.self then
    let (n, s) := s.request { dpkg := own, dagt := 0x400, sagt := 0x4B4, idn := m.rights.ident.toNat, op := 0x06
                              payload := [wordOfNat f, wordOfNat (m.dpkg * 2 ^ 24 + m.dframe)] }
    some (s.putMove i { m with own := own, frame := f, req := some n, sent := s.cycle })
  else if s.settled f then some (s.putMove i { m with own := own, frame := f, status := some 1 })
  else some (s.putMove i { m with own := own, frame := f, begun := true })

/-- Copy the line at a physical byte address to another of this package, with its poison (R420). -/
def State.copyLine (s : State) (src dst : Nat) : State :=
  (List.range 16).foldl (fun s k =>
    let bad := s.poisoned (src + 8 * k)
    let s := s.setPhys (dst + 8 * k) (s.phys (src + 8 * k))
    if bad then s.setPoison (dst + 8 * k) else s) s

/-- One bit for each poisoned word of a line. -/
def State.poisonBits (s : State) (a : Nat) : Nat := bitsWhere 16 (fun k => s.poisoned (a + 8 * k))

/-- Move the next line of a page: the pending stores to it are performed first, at the old frame, and it leaves every cache.
A line that goes to another package is in transit until its arrival is acknowledged (R100, R285); the agents that its packet names
are the model's (log 24). -/
def State.moveLine (s : State) (i : Nat) (m : MoveOp) : State :=
  let a := m.frame * 2 ^ 16 + 128 * m.next
  let b := m.dframe * 2 ^ 16 + 128 * m.next
  let s := (s.flushFlows (fun r => decide (a ≤ r.key) && decide (r.key < a + 128))).purgeLine (a / 128)
  if m.dpkg = s.sys.self then ((s.purgeLine (b / 128)).copyLine a b).putMove i { m with next := m.next + 1 }
  else
    let (n, s) := s.request { dpkg := m.dpkg, dagt := 0x400, sagt := 0x4B4, idn := m.rights.ident.toNat, op := 0x06
                              payload := wordOfNat b :: memWords s.mem 16 a ++ [wordOfNat (s.poisonBits a)] }
    s.putMove i { m with flying := some n, sent := s.cycle }

/-- Do the line that moves next and its new place wait for the memory cores of a stack (R384)? -/
def State.moveHeld (s : State) (m : MoveOp) : Bool :=
  s.stopped (m.frame * 2 ^ 16 + 128 * m.next) || (m.dpkg == s.sys.self && s.stopped (m.dframe * 2 ^ 16 + 128 * m.next))

/-- PGMOV_LINE_MOVE of the move at place i: it is judged at its first turn; then one line moves (R100, R109). -/
def execPgmovLineMove (s : State) : Result :=
  s.event (fun x s =>
    match s.moves[x.i]? with
    | none => none
    | some m =>
      if m.status.isSome || m.req.isSome then none
      else if m.begun then (if m.next < 512 && m.flying.isNone && !s.moveHeld m then some (s.moveLine x.i m) else none)
      else
        match m.asker with
        | some _ => s.ownerMove x.i m m.own m.frame
        | none =>
          if s.walkHeld m.va then none
          else match s.judgeMove m with
          | (0, own, frame) => s.ownerMove x.i { m with old := (own, frame) } own frame
          | (st, _, _) => some ((s.leafRec m).putMove x.i { m with status := some st }))

/-- The record of a page after one more move, in the clock of its new owner (R99, R100). -/
def movedRec (old nowSrc nowDst : Nat) : Nat :=
  let shift (t : Nat) : Nat := (nowDst + 2 ^ 48 + t - nowSrc % 2 ^ 48) % 2 ^ 48
  let r := putBits 0 207 160 (shift (bits old 255 208))
  let r := putBits r 255 208 (nowDst % 2 ^ 48)
  let r := putBits r 305 304 (min (bits old 305 304 + 1) 2)
  putBits r 303 256 (nowDst % 2 ^ 48)

/-- A stub record (R97, R100). -/
def stubRec (pkg frame : Nat) : Nat := putBits (putBits (putBits 0 306 306 1) 318 307 pkg) 342 319 frame

/-- The end of a move at its owner: the old frame's record becomes a stub, and the new frame's takes the history. Another
package gets the two times and NMOV with its last line. -/
def State.endMove (s : State) (m : MoveOp) : State :=
  let old := s.readRec (s.hotRec m.frame) 64
  let s :=
    if m.dpkg = s.sys.self then s.writeRec (s.hotRec m.dframe) 64 (movedRec old s.cycle s.cycle)
    else s.send 0 m.dpkg 0x400 0x4B4 m.rights.ident.toNat 0x06
      [wordOfNat m.dframe, wordOfNat (s.cycle - bits old 255 208), wordOfNat (bits old 305 304)]
  s.writeRec (s.hotRec m.frame) 64 (stubRec m.dpkg m.dframe)

/-- The CAS of the issuing package's leaf: OWN and FRM become the new place, where the leaf still names the old one. -/
def State.rewriteLeaf (s : State) (m : MoveOp) : State :=
  match s.pageLeaf m.va with
  | some (a, e, 0) =>
    if (Wbits e 43 32, Wbits e 31 8) = m.old then
      s.setPhys a ((e &&& ~~~(0xFFFFFFFFF00 : Word)) ||| wordOfNat (m.dpkg * 2 ^ 32 + m.dframe * 2 ^ 8))
    else s
  | _ => s

/-- PGMOV_RESOLVE of the move at place i (R100, R109). -/
def execPgmovResolve (s : State) : Result :=
  s.event (fun x s =>
    match s.moves[x.i]? with
    | none => none
    | some m =>
      let gone (s : State) : State := { s with moves := s.moves.eraseIdx x.i }
      let finish (s : State) (st : Nat) : State :=
        match m.asker with
        | some (p, ag, n) => (gone s).answer { spkg := p, sagt := ag, dagt := 0x400, name := n } 0x08 [wordOfNat st]
        | none => (gone (if st = 0 then (s.leafRec m).rewriteLeaf m else s)).engResolve m.rights.cx m.handle (wordOfNat st)
      match m.status with
      | some st => some (finish s st)
      | none => if m.begun && m.next == 512 then some (finish (s.endMove m) 0) else none)

/-! ## CLDRAIN (R382, R383) -/

/-- Has every operation of an event unit that contexts of a cluster wait for resolved? -/
def EventUnit.idleFor (e : EventUnit) (cl : Nat) : Bool :=
  let mine (h : Word) : Bool := Wbits h 44 32 / 512 == cl
  e.queue.all (fun q => !mine q.handle) && e.runs.all (fun r => !mine r.handle) && e.unloads.all (fun u => u.handles.all (fun h => !mine h))

/-- Have the engines of a cluster ended every operation, and every unit those of its contexts (R382)? Operations of other
clusters' contexts that wait at its event unit wait on through the drain (R383). -/
def State.enginesIdle (s : State) (cl : Nat) : Bool :=
  let c := s.cluster cl
  let mine (r : Rights) : Bool := !isMemCtx r.cx && clusterOf r.cx == cl
  c.gen.isEmpty && c.tiles.isEmpty && c.copies.isEmpty && c.streams.queue.isEmpty && c.streams.out.isEmpty &&
    c.mason.queue.isEmpty && c.mason.run.isNone && c.events.runs.isEmpty && c.events.unloads.isEmpty &&
    s.clusters.toList.all (fun k => k.events.idleFor cl) && s.dies.toList.all (fun d => d.groups.all (fun g => !mine g.rights)) &&
    s.pins.all (fun p => !mine p.rights) && s.moves.all (fun m => !mine m.rights)

/-- Pre-empt every running task of a cluster; one with an atomic under way at another package, or that is being killed, is left for
a later turn. -/
def State.suspendAll (s : State) (cl : Nat) : State :=
  (s.running cl).foldl (fun s x => 
    if (s.recOf x.1).dying || !s.saveStands cl x.2.yr then s
    else if s.atomicOut x.2.uid then s.takeBack x.1 x.2.uid else s.suspend x.1) s

/-- Is a drain complete: every task suspended, every engine operation ended? -/
def State.drainDone (s : State) (cl : Nat) : Bool := (s.running cl).isEmpty && s.enginesIdle cl

/-- Return a cluster to service: the 4,096 cycles of its open herd groups counted only cycles in service, and the groups that
are due close (R383). The waits of the tasks that the drain left running go on from here (R402). -/
def State.resumeCluster (s : State) (cl : Nat) : State :=
  let away (g : Group) : Nat := s.cycle - max g.first (s.cluster cl).drainedAt
  let s : State := { s with ctxs := s.ctxs.map (fun (x : Nat × Ctx) => (x.1, if isMemCtx x.1 || clusterOf x.1 != cl then x.2 else s.counted x.1)) }
  let s := s.modCluster cl (fun c => { c with
    drained := false, draining := false
    streams := { c.streams with open_ := c.streams.open_.map (fun (g : Group) => { g with first := g.first + away g }) } })
  (s.closeDue cl (s.cluster cl).streams.open_.length).serveHerds cl

/-- Drop the bytes and poison of the windows and granule bits of a cluster: zero, and every granule full (R381); an LDFE
that waits there is served (R77). -/
def State.wipeWindows (s : State) (cl : Nat) : State :=
  let lo := windowBase + cl * 2 ^ 26
  let hi := lo + 2 ^ 26
  let flo := feBase + cl * 2 ^ 19
  ({ s with mem := memClear (memClear s.mem lo hi) flo (flo + 2 ^ 19)
            poison := s.poison.filter (fun k => !(decide (lo ≤ k) && decide (k < hi))) } : State).serveLdfes

/-- The wipe of a drained cluster: windows, control store, tables; its registers keep their values. -/
def State.wipeCluster (s : State) (cl : Nat) : State :=
  let s := s.wipeWindows cl
  let s : State := { s with caches := { s.caches with tlbs := s.caches.tlbs.filter (fun t => t.1 / 64 != cl) } }
  s.modCluster cl (fun c => { c with
    maps := [], locks := [], tagCache := [], barriers := [], streams := {}, mason := {}
    events := { tick := c.events.tick, queue := c.events.queue } })

/-- May a drained cluster be wiped: its yard empty, no live stream and no loaded population? -/
def Cluster.wipeable (c : Cluster) : Bool :=
  c.drained && !c.draining && c.yard.isEmpty && c.events.pops.isEmpty && c.streams.ctxs.all (fun x => x.2.state == .free)

/-- Mark of a wait for a drain: the waiting CLDRAIN has begun it. -/
def drainMark (cl : Nat) : Word := wordOfNat (0x100 + cl)

/-- The whole of CLDRAIN (R382; log 12): the action is in S[b]. -/
def cldrain (o : Ops) (s : State) : Result :=
  s.runSuper (srcAB o) (fun c s =>
    let x := s.me c
    let a := x.readS o.a
    let act := x.readS o.b
    let cl := Wbits a 3 0
    let C := s.cluster cl
    let give (s : State) (v : Word) : Res := .okB (s.onMe c (fun x => x.writeS o.d v))
    let waiting := match x.wait with
      | some w => w.pc == c.addr && w.what == drainMark cl
      | none => false
    if Wbits a 63 4 ≠ 0 ∨ 2 < act.toNat then give s 3
    else if !C.inService then give s 4
    else if !isMemCtx c.cx && clusterOf c.cx == cl then give s 2
    else if act = 0 then
      if C.draining then .wait (s.suspendAll cl) .other (drainMark cl)
      else if waiting then give s 0
      else if C.drained then give s 1
      else
        let s := (s.modCluster cl (fun c => { c with drained := true, draining := true, drainedAt := s.cycle })).suspendAll cl
        if s.drainDone cl then give (s.modCluster cl (fun c => { c with draining := false })) 0
        else .wait s .other (drainMark cl)
    else if act = 1 then (if C.drained then give (s.resumeCluster cl) 0 else give s 1)
    else if C.wipeable then give (s.wipeCluster cl) 0 else give s 5)

/-- CLDRAIN, drain (R382; log 12). -/
def execCldrainDrain (o : Ops) (s : State) : Result := cldrain o s
/-- CLDRAIN, resume (R382; log 12). -/
def execCldrainResume (o : Ops) (s : State) : Result := cldrain o s
/-- CLDRAIN, wipe (R382; log 12). -/
def execCldrainWipe (o : Ops) (s : State) : Result := cldrain o s

/-- CLDRAIN_COMPLETE of cluster i (R382). -/
def execCldrainComplete (s : State) : Result :=
  s.event (fun x s =>
    let cl := x.i % 16
    if (s.cluster cl).draining && s.drainDone cl then some (s.modCluster cl (fun c => { c with draining := false })) else none)

end Sys2Proof.Machine
end

