-- ==== Sys2Proof/Machine/Super.lean ====
section
/-!
DEFINITION. Bring-up, life cycle and service (R7, R8, R16, R27, R80 to R83, R122, R375 to R388, R419 to R427, R430, R434,
R437, R441 to R445) as events of the device: register writes, boot, images, wipes, the carve-out, retirement, links, heat,
errors, and units that leave service.
-/

namespace Sys2Proof.Machine

/-! ## Control-block registers (R375) -/

/-- Write of a register of the package control block that has no row of its own. -/
def PkgRegs.write (r : PkgRegs) (off : Nat) (v : Word) : PkgRegs :=
  match off with
  | 0x00 => { r with gvtbRoot := v.extractLsb' 21 19, gvtbEn := v.getLsbD 0 }
  | 0x08 => { r with hotbBase := v.extractLsb' 30 10, hotbTbl := v.getLsbD 1, hotbEn := v.getLsbD 0 }
  | 0x10 => { r with iddb := v.extractLsb' 27 13 }
  | 0x18 => { r with routeThr := if Wbits v 31 24 < 0x10 then r.routeThr else v.extractLsb' 24 8
                     routeForce := v.getLsbD 1, routeEn := v.getLsbD 0 }
  | 0x20 => { r with refb := v.extractLsb' 31 9 }
  | 0x28 => { r with slpt := v.extractLsb' 19 21 }
  | 0x48 => { r with dlogBase := v.extractLsb' 12 28, dlogLsz := if 24 < Wbits v 4 0 then r.dlogLsz else v.extractLsb' 0 5 }
  | 0x50 => { r with dlogHead := v.extractLsb' 32 32 }
  | 0x58 => { r with dlost := v.extractLsb' 0 32 }
  | 0x60 => { r with retBase := v.extractLsb' 21 19, retEn := v.getLsbD 0 }
  | _ => r

/-- Write of L2CV (R80, R81): a reserved value leaves its field, and FMIN above FMAX leaves the register. DESIGN CHOICE (log
90): R81's test takes the values that would stand after R8 has kept a field. -/
def Die.writeL2cv (d : Die) (v : Word) : Die :=
  let mx := if 14 < Wbits v 12 8 then d.fmax else v.extractLsb' 8 5
  let mn := if 14 < Wbits v 4 0 then d.fmin else v.extractLsb' 0 5
  if mx.toNat < mn.toNat then d else { d with frz := v.getLsbD 31, fmax := mx, fmin := mn }

/-- Write of a cluster's register of the die control block. -/
def Cluster.writeReg (c : Cluster) (off : Nat) (v : Word) : Cluster :=
  match off with
  | 0x00 => { c with pinq := v.extractLsb' 0 16 }
  | 0x08 => { c with spool := v.extractLsb' 12 28 }
  | 0x10 => { c with shtb := v.extractLsb' 23 17 }
  | 0x18 => { c with stkaBase := v.extractLsb' 16 41, stkaSlot := v.extractLsb' 0 16 }
  | 0x20 => { c with sva := v.extractLsb' 26 14 }
  | 0x28 => { c with celb := v.extractLsb' 12 28 }
  | 0x30 => { c with shtv := v.extractLsb' 23 34 }
  | _ => c

/-- Is every cluster in service drained? -/
def State.allDrained (s : State) : Bool :=
  (List.range 16).all (fun c => !(s.cluster c).inService || ((s.cluster c).drained && !(s.cluster c).draining))

/-- A write of PKGMODE (R379): FULL := 1 begins the copy into HBM, when it is accepted. -/
def State.writePkgmode (s : State) (v : Word) : State :=
  if v.getLsbD 0 && !s.regs.full && !s.boot.copying && s.allDrained && !s.stackList.isEmpty then
    { s with boot := { s.boot with copying := true } }
  else s

/-- A write of CAPR (R385, R388): stack k, set, whose bit is written 0 begins to retire. -/
def State.retireStack (s : State) (k : Nat) : State :=
  if s.regs.capStacks.getLsbD k && !s.boot.retiring.contains k then { s with boot := { s.boot with retiring := s.boot.retiring ++ [k] } } else s

/-- A write to CELQ that raises EQ, where 0 is the most, ends the stalls of its die at once (R372, R436). -/
def State.raiseEq (s : State) (d : Nat) (eq : BitVec 16) : State :=
  let now := (s.die d).eq
  if now ≠ 0 ∧ (eq = 0 ∨ now.toNat < eq.toNat) then
    (List.range 4).foldl (fun s k => s.modEvents (4 * d + k) (fun e => { e with stalled := false, spillWait := [] })) s
  else s

/-- A 64-bit write at an offset of the Porva register space (R375). -/
def State.writeReg (s : State) (off : Nat) (v : Word) : State :=
  if off < 0x100 then
    if off = 0x30 then s.writePkgmode v
    else if off = 0x38 then ((List.range 12).filter (fun k => !v.getLsbD (28 + k))).foldl State.retireStack s
    else { s with regs := s.regs.write off v }
  else if off < 0x300 then
    let n := (off - 0x100) / 32
    match off % 32 with
    | 0 => s.chainConfig n v
    | 8 => s.modChain n (fun c => { c with wb := v.extractLsb' 3 37 })
    | 16 => s.doorbell n v
    | _ => s
  else
    let d := off / 0x10000 - 1
    let o := off % 0x10000
    if off < 0x10000 ∨ 4 ≤ d then s
    else if o = 0 then s.modDie d (fun d => d.writeL2cv v)
    else if o = 8 then (s.raiseEq d (v.extractLsb' 0 16)).modDie d (fun d => { d with yq := v.extractLsb' 16 16, eq := v.extractLsb' 0 16 })
    else if 0x1000 ≤ o ∧ o < 0x1400 then (s.modCluster (4 * d + (o - 0x1000) / 0x100) (fun c => c.writeReg (o % 0x100) v))
    else s

/-- A number whose fields lie at the given places: each is a value and its lowest bit. -/
def fieldWord (fs : List (Nat × Nat)) : Word := wordOfNat ((fs.map (fun f => f.1 * 2 ^ f.2)).sum)

/-- The 16 bits or fewer of flags, the first at bit 0. -/
def flagsNat (fs : List Bool) : Nat := (fs.zipIdx.map (fun f => b2n f.1 * 2 ^ f.2)).sum

/-- Mean power in watts and the highest junction temperature, as they are read (R388): in the cycle in which they were last
reported the report, later a free value within R387's limits (log 110). -/
def State.power (s : State) : Nat × Nat :=
  let r := s.regs
  if r.measured = s.cycle then (r.watts.toNat, r.tj.toNat)
  else (Config.sensor (2 * s.cycle) % 3201, if r.thr then 100 + Config.sensor (2 * s.cycle + 1) % 15 else Config.sensor (2 * s.cycle + 1) % 105)

/-- What a read of the package control block returns (R375): each field at its place, reserved bits zero (R8). -/
def State.readPkg (s : State) (off : Nat) : Word :=
  let r := s.regs
  match off with
  | 0x00 => fieldWord [(b2n r.gvtbEn, 0), (r.gvtbRoot.toNat, 21)]
  | 0x08 => fieldWord [(b2n r.hotbEn, 0), (b2n r.hotbTbl, 1), (r.hotbBase.toNat, 30)]
  | 0x10 => fieldWord [(r.iddb.toNat, 27)]
  | 0x18 => fieldWord [(b2n r.routeEn, 0), (b2n r.routeForce, 1), (r.routeLast.toNat, 16), (r.routeThr.toNat, 24)]
  | 0x20 => fieldWord [(r.refb.toNat, 31)]
  | 0x28 => fieldWord [(r.slpt.toNat, 19)]
  | 0x30 => fieldWord [(b2n r.full, 0), (b2n r.cal, 1)]
  | 0x38 => fieldWord [(flagsNat (s.clusters.toList.map (·.inService)), 0), (s.fuses.lcs.toNat, 16), (r.capStacks.toNat, 28),
      (flagsNat (s.net.links.toList.map (·.up)), 40)]
  | 0x40 => fieldWord [(s.power.1, 0), (b2n r.thr, 16), (s.power.2, 32)]
  | 0x48 => fieldWord [(r.dlogLsz.toNat, 0), (r.dlogBase.toNat, 12)]
  | 0x50 => fieldWord [(r.dlogTail.toNat, 0), (r.dlogHead.toNat, 32)]
  | 0x58 => fieldWord [(r.dlost.toNat, 0)]
  | 0x60 => fieldWord [(b2n r.retEn, 0), (r.retBase.toNat, 21), (r.retNret.toNat, 40)]
  | _ => 0

/-- What a read of a cluster's register returns. -/
def Cluster.readReg (c : Cluster) (off : Nat) : Word :=
  match off with
  | 0x00 => fieldWord [(c.pinq.toNat, 0)]
  | 0x08 => fieldWord [(c.spool.toNat, 12)]
  | 0x10 => fieldWord [(c.shtb.toNat, 23)]
  | 0x18 => fieldWord [(c.stkaSlot.toNat, 0), (c.stkaBase.toNat, 16)]
  | 0x20 => fieldWord [(c.sva.toNat, 26)]
  | 0x28 => fieldWord [(c.celb.toNat, 12)]
  | 0x30 => fieldWord [(c.shtv.toNat, 23)]
  | _ => 0

/-- A 64-bit read at an offset of the Porva register space (R7, R375): CHDB and every offset not listed read zero. -/
def State.readReg (s : State) (off : Nat) : Word :=
  if off < 0x100 then s.readPkg off
  else if off < 0x300 then
    let c := s.chain ((off - 0x100) / 32)
    match off % 32 with
    | 0 => fieldWord [(b2n c.en, 0), (c.lsz.toNat, 2), (c.base.toNat, 12)]
    | 8 => fieldWord [(c.wb.toNat, 3)]
    | 24 => fieldWord [(c.cseq.toNat, 0), (c.head.toNat, 32)]
    | _ => 0
  else
    let d := off / 0x10000 - 1
    let o := off % 0x10000
    if off < 0x10000 ∨ 4 ≤ d then 0
    else if o = 0 then fieldWord [((s.die d).fmin.toNat, 0), ((s.die d).fmax.toNat, 8), (b2n (s.die d).frz, 31)]
    else if o = 8 then fieldWord [((s.die d).eq.toNat, 0), ((s.die d).yq.toNat, 16)]
    else if 0x1000 ≤ o ∧ o < 0x1400 then (s.cluster (4 * d + (o - 0x1000) / 0x100)).readReg (o % 0x100)
    else if 0x2000 ≤ o ∧ o < 0x2080 ∧ o % 8 = 0 then
      let x := s.slice (16 * d + (o - 0x2000) / 8)
      fieldWord [(x.fcur.toNat, 0), (b2n x.moving, 5), (x.last.toNat, 8)]
    else 0

/-! ## The scope table (R267, R268) -/

/-- Is a coordinate one hop away in a dimension of extent e? -/
def oneHop (e x y : Nat) : Bool := x != y && ((x + 1) % max 1 e == y % max 1 e || (y + 1) % max 1 e == x % max 1 e)

/-- Is a package one torus hop away from this one? -/
def State.isNear (s : State) (c : Nat × Nat × Nat) : Bool :=
  let o := s.sys.coord
  let e := s.sys.ext
  (oneHop e.1 o.1 c.1 && o.2 == c.2) || (oneHop e.2.1 o.2.1 c.2.1 && o.1 == c.1 && o.2.2 == c.2.2) ||
    (oneHop e.2.2 o.2.2 c.2.2 && o.1 == c.1 && o.2.1 == c.2.1)

/-- Is a memory core in service? One that stops for new firmware stays so (R384). -/
def State.mcoreIn (s : State) (m : Nat) : Bool :=
  (s.mcore m).inService || (s.boot.stackStop.any (fun q => q.1 == m / 8) && !s.boot.failed.contains m)

/-- The membership of the scopes from the topology and the units in service. In a dimension of extent 2 the one neighbour is
counted once; in one of extent 1 there is none. -/
def State.scopeTable (s : State) : ScopeTable :=
  { clusters := (List.range 16).filter (fun c => (s.cluster c).inService)
    mcores := (List.range 96).filter s.mcoreIn
    joins := (List.range 4).filter (fun d => (s.die d).joinUp)
    near := s.sys.self :: (s.sys.others.filter (fun q => s.isNear q.2)).map (·.1)
    all := s.sys.self :: s.sys.others.map (·.1) }

/-- The service core builds the scope table. -/
def State.buildScope (s : State) : State := { s with boot := { s.boot with scope := some s.scopeTable } }

/-- A unit has left: it leaves every instance. -/
def State.rescope (s : State) : State := if s.boot.scope.isSome then s.buildScope else s

/-- REGISTER_WRITE of the value w at offset i, by the host or the service core (R7, R8, R375). -/
def execRegisterWrite (s : State) : Result :=
  s.event (fun x s => if s.alive then some (s.writeReg x.i x.w) else none)

/-- PKGMODE_FULL_WRITE of the value w (R379). -/
def execPkgmodeFullWrite (s : State) : Result :=
  s.event (fun x s => if s.alive then some (s.writePkgmode x.w) else none)

/-- FULL_SERVICE_READY (R379): the slices become caches with FCUR = 0. -/
def execFullServiceReady (s : State) : Result :=
  s.event (fun _ s =>
    if s.boot.copying then
      let slice (x : Slice) : Slice := { retired := x.retired, deadFrames := x.deadFrames, sampled := s.cycle, moved := s.cycle }
      some { s with
        boot := { s.boot with copying := false }
        regs := { s.regs with full := true }
        caches := { s.caches with l1 := [], icache := [], l2 := [], home := [], fills := [] }
        dies := s.dies.map (fun d => { d with slices := d.slices.map slice }) }
    else none)

/-! ## Memory cores, stacks and their firmware (R60, R376, R384, R385, R430) -/

/-- Memory cores of a stack. -/
def coresOfStack (k : Nat) : List Nat := (List.range 8).map (fun i => 8 * k + i)

/-- A memory core's tasks, with their pins and weight, and its keystones are gone. -/
def State.clearMcore (s : State) (m : Nat) : State :=
  let uids := (s.mcore m).yard.map (·.2.uid)
  let s := uids.foldl State.unpinAll (s.modMcore m (fun c => { c with yard := [] }))
  let mine (cx : Nat) : Bool := isMemCtx cx && memCoreOf cx == m
  let s := s.flush (fun r => mine r.cx)
  { s with ctxs := s.ctxs.filter (fun x => !mine x.1)
           keystones := s.keystones.filter (fun x => !(decide (keyHandleMem m 0 ≤ x.1) && decide (x.1 < keyHandleMem m 0 + 8)))
           pins := s.pins.filter (fun p => !mine p.rights.cx)
           ldfes := s.ldfes.filter (fun l => !uids.contains l.uid)
           caches := { s.caches with tlbs := adel s.caches.tlbs (1024 + m) } }

/-- The copies pending on a memory core fail (R430). -/
def State.failCopies (s : State) (m : Nat) : State :=
  let s := (s.mcore m).copies.foldl (fun s p => s.engFail p.rights.cx 1 m p.rights.ident p.handle (failureWord 0x1 0x13 0)) s
  s.modMcore m (fun c => { c with copies := [] })

/-- The first task of memory-core firmware, in supervisor mode (R60, R389). The core's copies stay: no access is lost (R384). -/
def State.startFirmware (s : State) (img : Image) (m : Nat) : State :=
  let s := (s.clearMcore m).modMcore m (fun c => { c with inService := true })
  let (uid, s) := (s.identRead img.ident).newUid
  let c := { startCtx (codeAddr img.entry) 0 0 { ident := img.ident, trapctl := 1 } with cbase := s.clearance img.ident, uid := uid }
  let r : YRec := { uid := uid, kind := .firmware, place := .fresh c, since := s.cycle, elig := s.cycle, maker := memCtxBase + 8 * m }
  s.placeRec (memCtxBase + 8 * m) 0 r

/-- Is an image accepted (R377, R380)? Both signatures, the keys' digest, the version, and the life-cycle state. -/
def State.accepts (s : State) (img : Image) : Bool :=
  let minver : Nat := match img.kind with
    | .service => (s.fuses.minver[0]).toNat
    | .memoryCore => (s.fuses.minver[1]).toNat
    | .masonRoutine => (s.fuses.minver[2]).toNat
    | .command => 0
  img.edOk && img.mlOk && img.keyDigest == s.fuses.digest && decide (minver ≤ img.version) &&
    (match s.fuses.lcs with
     | 0 => img.vendorTest || img.kind == .command
     | 3 => false
     | _ => true)

/-- A bring-up failure's record and notification (R396, R444, R445): the unit failed is named by kind and number. -/
def State.bringUpFail (s : State) (cause ukind unit : Nat) : State :=
  (s.logRec cause ukind unit 0 0 (wordOfNat (ukind * 2 ^ 20 + unit))).notifyPkg

/-- STACK_RETIRE of stack i (R385). -/
def execStackRetire (s : State) : Result :=
  s.event (fun x s =>
    if s.regs.capStacks.getLsbD (x.i % 12) && !s.boot.retiring.contains (x.i % 12) then some (s.retireStack (x.i % 12)) else none)

/-- STACK_RETIRE_DONE of stack i (R385): the stack leaves CAPR, and with it the memory at and above (n − 1) × 64 GiB. -/
def execStackRetireDone (s : State) : Result :=
  s.event (fun x s =>
    let k := x.i % 12
    if s.boot.retiring.contains k then
      let top := s.memTop
      let s : State := { s with boot := { s.boot with retiring := s.boot.retiring.filter (· != k), stackStop := s.boot.stackStop.filter (fun q => q.1 != k) }
                                regs := { s.regs with capStacks := s.regs.capStacks &&& ~~~(BitVec.ofNat 12 (2 ^ k)) } }
      let s := (coresOfStack k).foldl (fun s m => ((s.failCopies m).clearMcore m).modMcore m (fun c => { c with inService := false })) s
      let lo := s.memTop
      let kept (l : Nat × L2Line) : Bool := l.2.kept && decide (l.1 % 2 ^ 33 * 128 < lo)
      let stays (f : PageFrame) : Bool := decide (f.page * 65536 < lo)
      some (if s.regs.full then
        ({ s with mem := memClear s.mem lo top
                  poison := s.poison.filter (fun a => !(decide (lo ≤ a) && decide (a < top)))
                  dies := s.dies.map (fun d => { d with slices := d.slices.map (fun x => { x with frames := x.frames.filter stays }) })
                  caches := { s.caches with l1 := [], icache := [], home := [], fills := [], l2 := (s.caches.l2.map (fun l => (l.1, { l.2 with st := .i, quads := 0, excl := false }))).filter kept } } : State).rescope
      else s.rescope)
    else none)

/-- MEMORY_CORE_FIRMWARE_IMAGE (R376, R377, R444): verified, the stacks are trained and wiped; else none is, and the boot goes
on to step 6. -/
def execMemoryCoreFirmwareImage (s : State) : Result :=
  s.event (fun x s =>
    if s.boot.stage = .sramService then
      some (if x.img.kind == .memoryCore && s.accepts x.img then
        { s with boot := { s.boot with stage := .stackTrain, mcFirmware := some x.img, stackWipe := List.range 12 } }
      else (({ s with boot := { s.boot with stage := .linkTrain } } : State).bringUpFail 0x32 1 0).buildScope)
    else none)

/-- STACK_TRAIN_END of stack i, with success if j = 1 (R376, R444): its wipe has ended too. After the last, step 6 begins. -/
def execStackTrainEnd (s : State) : Result :=
  s.event (fun x s =>
    let k := x.i % 12
    match s.boot.mcFirmware with
    | none => none
    | some img =>
      if s.boot.stage ≠ .stackTrain ∨ s.boot.trained.contains k ∨ (x.j = 1 ∧ s.boot.stackWipe.contains k) then none
      else
        let s : State := { s with boot := { s.boot with trained := k :: s.boot.trained, stackWipe := s.boot.stackWipe.filter (· != k) } }
        let s := if x.j = 1 then
            ((coresOfStack k).filter (fun m => !s.boot.failed.contains m)).foldl (fun s m => s.startFirmware img m)
              { s with regs := { s.regs with capStacks := s.regs.capStacks ||| BitVec.ofNat 12 (2 ^ k) } }
          else s.bringUpFail 0x32 5 k
        some (if s.boot.trained.length < 12 then s else ({ s with boot := { s.boot with stage := .linkTrain } } : State).buildScope))

/-- MC_FIRMWARE_UPDATE of stack i (R384), one stack at a time: the image is verified first, then the stack's memory cores
stop. -/
def execMcFirmwareUpdate (s : State) : Result :=
  s.event (fun x s =>
    let k := x.i % 12
    if s.regs.capStacks.getLsbD k && s.boot.stackStop.isEmpty && x.img.kind == .memoryCore && s.accepts x.img then
      some ((coresOfStack k).foldl (fun s m => s.modMcore m (fun c => { c with inService := false }))
        { s with boot := { s.boot with stackStop := s.boot.stackStop ++ [(k, x.img)] } })
    else none)

/-- MC_FIRMWARE_START of stack i (R384): the new firmware starts, and the accesses that waited go on. -/
def execMcFirmwareStart (s : State) : Result :=
  s.event (fun x s =>
    let k := x.i % 12
    match s.boot.stackStop.find? (fun q => q.1 == k) with
    | none => none
    | some (_, img) =>
      let s : State := { s with boot := { s.boot with stackStop := s.boot.stackStop.filter (fun q => q.1 != k), mcFirmware := some img } }
      some (((coresOfStack k).filter (fun m => !s.boot.failed.contains m)).foldl (fun s m => s.startFirmware img m) s))

/-- A whole stack has failed (R430): every word it held reads as poisoned. -/
def State.loseStack (s : State) (k : Nat) : State :=
  let lost := ((List.range (s.memTop / 8)).map (8 * ·)).filter (fun a => s.poisoned a || s.stackOf a == k)
  { s with poison := lost ++ s.poison.filter (fun a => decide (s.memTop ≤ a)) }

/-- MEMORY_CORE_FAIL of memory core i (R430): its copies fail, and its tasks are lost with their weight. Its granules are
served by the next memory core of the stack, which changes no value, until the stack, which begins to retire, is retired (R385);
with the last of the eight, the whole stack has failed. -/
def execMemoryCoreFail (s : State) : Result :=
  s.event (fun x s =>
    let m := x.i % 96
    if !(s.mcore m).inService then none
    else
      let s := ((s.failCopies m).clearMcore m).modMcore m (fun c => { c with inService := false })
      let s : State := ({ s with boot := { s.boot with failed := m :: s.boot.failed } } : State).retireStack (m / 8)
      some (if s.regs.full && (coresOfStack (m / 8)).all s.boot.failed.contains then (s.loseStack (m / 8)).rescope else s.rescope))

/-! ## Resets and the boot (R376, R377, R380, R381) -/

/-- Links of the fabrics within the dies (log 108): 30 + c joins cluster c to its die, 46 + q core q to its cluster, and
1,070 + m memory core m to its die. The cluster, or the memory core, that such a link serves. -/
def fabricCluster (n : Nat) : Option Nat :=
  if n < 30 then none else if n < 46 then some (n - 30) else if n < 1070 then some ((n - 46) / 64) else none
def fabricMcore (n : Nat) : Option Nat := if 1070 ≤ n ∧ n < 1166 then some (n - 1070) else none

/-- The state after a reset (R7, R376, R381): fuses, the system and the model's own names stay, and so does what has been found
out of service within the dies (R442, log 108). -/
def State.restart (s : State) (stage : BootStage) : State :=
  let broken := (s.net.lanes.filter (fun l => l.2.out && decide (30 ≤ l.1))).map (fun l => (l.1, ({ out := true } : Lane)))
  { State.reset with
    fuses := s.fuses, sys := s.sys, agenda := s.agenda, fresh := s.fresh, cur := s.cur, arg := s.arg
    nextHandle := s.nextHandle, nextUid := s.nextUid, net := { lanes := broken }
    boot := { stage := stage, failed := broken.filterMap (fun l => fabricMcore l.1) } }

/-- POWER_ON_RESET (R376, R381): the mask ROM runs and the wipe starts. -/
def execPowerOnReset (s : State) : Result := s.event (fun _ s => some (s.restart .rom))

/-- POWER_OFF (R16): everything but the fuses is lost. -/
def execPowerOff (s : State) : Result := s.event (fun _ s => some (s.restart .off))

/-- WIPE_END (R381): of the package's SRAM for k = 0, else of stack i. -/
def execWipeEnd (s : State) : Result :=
  s.event (fun x s =>
    if x.k = 0 then
      if s.boot.stage = .rom ∧ s.boot.wiping = true then
        some { s with boot := { s.boot with wiping := false, stage := if s.fuses.lcs = 3 then .halted else .firmware } }
      else none
    else if s.boot.stackWipe.contains x.i then
      some { s with boot := { s.boot with stackWipe := s.boot.stackWipe.filter (· != x.i) } }
    else none)

/-- SERVICE_FIRMWARE_IMAGE (R376, R377, R444): a failure halts the boot, with a report to the control node (log 91). -/
def execServiceFirmwareImage (s : State) : Result :=
  s.event (fun x s =>
    if s.boot.stage = .firmware then
      some (if x.img.kind == .service && s.accepts x.img then
        { s with boot := { s.boot with stage := .selfTest, firmware := some x.img.version } }
      else ({ s with boot := { s.boot with stage := .halted } } : State).bringUpFail 0x32 14 0)
    else none)

/-- Has a link of a cluster's fabrics left service, so that the cluster stays out of it (R442)? -/
def State.fabricOut (s : State) (cl : Nat) : Bool := s.net.lanes.any (fun l => l.2.out && fabricCluster l.1 == some cl)

/-- CLUSTER_SELF_TEST_END of cluster i, passed if j = 1 (R376, R378, R444): after the last, SRAM-only service stands; with no
cluster in service the chain reader stops every chain. -/
def execClusterSelfTestEnd (s : State) : Result :=
  s.event (fun x s =>
    let cl := x.i % 16
    if s.boot.stage ≠ .selfTest ∨ s.boot.tested.contains cl then none
    else
      let s : State := { s with boot := { s.boot with tested := cl :: s.boot.tested } }
      let s := if x.j = 1 && !s.fabricOut cl then s.modCluster cl (fun c => { c with inService := true }) else s.bringUpFail 0x32 13 cl
      some (if s.boot.tested.length < 16 then s
        else
          let s : State := { s with boot := { s.boot with stage := .sramService } }
          if s.clusBits = 0 then
            (List.range 16).foldl (fun s n => if (s.chain n).en then s.stopChain n else s) s
          else s))

/-- A replacement package joins the system at the place of one that has left (R386). -/
def State.join (s : State) (g : Nat) : Option State :=
  (aget s.sys.gone g).map (fun c => ({ s with sys := { s.sys with others := aset s.sys.others g c, gone := adel s.sys.gone g } } : State).rescope)

/-- LINK_TRAIN_END of torus link i, with success if j = 1 (R376, R444): at step 6; the links of a dimension of extent 1 are
unused (R28), and one that has failed is out of service. With k = 1 + g, the links of the replacement for package g have trained:
it joins (R386, log 109). -/
def execLinkTrainEnd (s : State) : Result :=
  s.event (fun x s =>
    let k := x.i % 6
    let mine (l : Nat × Lane) : Bool := l.1 / 4 == k
    let quarters (out : Bool) : Net :=
      { s.net with lanes := (List.range 4).map (fun q => (4 * k + q, { out := out })) ++ s.net.lanes.filter (fun l => !mine l) }
    if s.boot.stage ≠ .linkTrain then none
    else if 0 < x.k then s.join (x.k - 1)
    else if s.extentOf k < 2 ∨ (s.net.link k).up ∨ s.net.lanes.any (fun l => mine l && l.2.out) then none
    else some (if x.j = 1 then ({ s with net := (quarters false).setLink k { up := true } } : State).buildScope
      else ({ s with net := quarters true } : State).bringUpFail 0x32 12 k))

/-- CALIBRATION_END, with success if j = 1 (R376, R379, R444): calibration runs alongside steps 3 to 6. -/
def execCalibrationEnd (s : State) : Result :=
  s.event (fun x s =>
    if s.boot.calibrating && s.alive && s.boot.stage != .firmware then
      let s : State := { s with boot := { s.boot with calibrating := false } }
      some (if x.j = 1 then { s with regs := { s.regs with cal := true } } else s.bringUpFail 0x33 14 0)
    else none)

/-- LIFECYCLE_CHANGE (R380, R381): a verified command image advances the state, and a wipe follows. -/
def execLifecycleChange (s : State) : Result :=
  s.event (fun x s =>
    if s.alive && x.img.kind == .command && s.accepts x.img && decide (s.fuses.lcs.toNat < x.img.request) && decide (x.img.request ≤ 3) then
      some (({ s with fuses := { s.fuses with lcs := BitVec.ofNat 2 x.img.request } } : State).restart .rom)
    else none)

/-- MINVER_RAISE (R377, R380): while DEPLOYED; counters only rise. -/
def execMinverRaise (s : State) : Result :=
  s.event (fun x s =>
    let k := x.img.request % 3
    let old := s.fuses.minver[k]'(Nat.mod_lt _ (by decide))
    if s.alive && s.fuses.lcs == 2 && x.img.kind == .command && s.accepts x.img && decide (old.toNat < x.img.version) &&
        decide (x.img.version < 2 ^ 32) then
      some { s with fuses := { s.fuses with minver := s.fuses.minver.set k (BitVec.ofNat 32 x.img.version) (Nat.mod_lt _ (by decide)) } }
    else none)

/-! ## Power and heat (R387, R388) -/

/-- THROTTLE with junction temperature i and power j (R387). -/
def execThrottle (s : State) : Result :=
  s.event (fun x s =>
    if 105 ≤ x.i ∧ x.i < 115 ∧ s.alive = true then
      some { s with regs := { s.regs with tj := BitVec.ofNat 8 x.i, watts := BitVec.ofNat 16 x.j, thr := true, measured := s.cycle } }
    else none)

/-- THROTTLE_END with junction temperature i and power j (R387). -/
def execThrottleEnd (s : State) : Result :=
  s.event (fun x s =>
    if x.i < 100 ∧ s.regs.thr = true ∧ s.alive = true then
      some { s with regs := { s.regs with tj := BitVec.ofNat 8 x.i, watts := BitVec.ofNat 16 x.j, thr := false, measured := s.cycle } }
    else none)

/-- THERMAL_SHUTDOWN with junction temperature i: a reset, with the wipe (R381, R387). -/
def execThermalShutdown (s : State) : Result :=
  s.event (fun x s => if 115 ≤ x.i ∧ s.powered = true then some (s.restart .rom) else none)

/-! ## The host (R27, R360) -/

/-- The part of a byte string that falls on the granule at a key, as a mask and a value. -/
def bytesAt (a : Nat) (data : List Byte) (key : Nat) : Word × Word :=
  (List.range 8).foldl (fun (m : Word × Word) k =>
    if key + k < a then m
    else match data[key + k - a]? with
      | none => m
      | some b => (m.1 ||| wordOfNat (0xFF * 2 ^ (8 * k)), m.2 ||| wordOfNat (b.toNat * 2 ^ (8 * k)))) (0, 0)

/-- HOST_PORT_WRITE of bytes at physical address w through port i (R27, R360); a partial write of a poisoned word is dropped
with a record (R422), and an access to a stopped stack waits (R384). -/
def execHostPortWrite (s : State) : Result :=
  s.event (fun x s =>
    let a := x.w.toNat
    if !s.boot.ports.contains x.i || decide (s.memTop < a + x.data.length) || !s.alive then none
    else
      let first := a / 8
      let n := (a + x.data.length + 7) / 8 - first
      let s := if x.data.isEmpty || !s.regs.full then s
        else (List.range ((a + x.data.length + 127) / 128 - a / 128)).foldl (fun s k => s.purgeLine (a / 128 + k)) s
      if (List.range n).any (fun k => s.stopped (8 * (first + k))) then none
      else some ((List.range n).foldl (fun s k =>
        let key := 8 * (first + k)
        let (mask, v) := bytesAt a x.data key
        match s.putWord key mask v with
        | (s, false) => s
        | (s, true) => s.droppedRec key 0 (s.homeDie key) none) s))

/-- PORVA_PORT_LOSS of port i (R27). -/
def execPorvaPortLoss (s : State) : Result :=
  s.event (fun x s =>
    if s.boot.ports.contains x.i then some { s with boot := { s.boot with ports := s.boot.ports.filter (· != x.i) } } else none)

/-! ## The carve-out (R80 to R83) -/

/-- Would a move toward frames leave a set of slice n with fewer than two unpinned cache ways (R83)? A retired slot counts as
a pinned line (R418). -/
def State.pinsRefuse (s : State) (n : Nat) : Bool :=
  let x := s.slice n
  let left := 15 - x.fcur.toNat
  let pinned := ((s.caches.l2.filter (fun l => l.1 / 2 ^ 33 == n / 16 && s.sliceNo (n / 16) (l.1 % 2 ^ 33) == n && l.2.pinned)).map
    (fun l => s.l2SetOf (l.1 % 2 ^ 33))) ++ (x.retired.filter (fun k => decide (x.fcur.toNat < k % 16))).map (· / 16)
  decide (left < 2) || pinned.any (fun k => decide (left < 2 + (pinned.filter (· == k)).length))

/-- Clear line a of way F of slice n (R83): a pinned line moves into an unpinned way of its set above F, whose line is evicted;
any other leaves. -/
def State.clearLine (s : State) (die line : Nat) : State :=
  match aget s.caches.l2 (die * 2 ^ 33 + line) with
  | none => s
  | some l =>
    if !l.pinned then s.dropLine die line
    else
      let here := s.setOf die line
      let ways := ((s.slice (s.sliceNo die line)).cacheWays (s.l2SetOf line)).filter (· != l.way)
      let put (s : State) (w : Nat) : State := s.modL2 (fun m => amod m (die * 2 ^ 33 + line) (fun l => { l with way := w }))
      match ways.find? (fun w => here.all (fun x => x.2.way != w)) with
      | some w => put s w
      | none =>
        let may := here.filter (fun x => !x.2.pinned && ways.contains x.2.way)
        match may[Config.victim s.fresh % max 1 may.length]? with
        | none => s
        | some x => put (s.dropLine die (x.1 % 2 ^ 33)) x.2.way

/-- Clear way F of slice n for frames. -/
def State.clearWay (s : State) (n : Nat) : State :=
  let f := (s.slice n).fcur.toNat
  let mine (l : Nat × L2Line) : Bool := !l.2.framed && l.1 / 2 ^ 33 == n / 16 && s.sliceNo (n / 16) (l.1 % 2 ^ 33) == n && l.2.way == f
  (s.caches.l2.filter mine).foldl (fun s l => s.clearLine (n / 16) (l.1 % 2 ^ 33)) s

/-- The frames of way F − 1 of slice n that no pin holds, dirty ones first. -/
def Slice.leavingFrames (x : Slice) : List PageFrame :=
  let l := x.frames.filter (fun (f : PageFrame) => f.slot / 24 + 1 == x.fcur.toNat && f.pins.isEmpty)
  l.filter (·.dirty) ++ l.filter (fun (f : PageFrame) => !f.dirty)

/-- The memory cores spill the frames of way F − 1 of slice n (R83). -/
def State.spillWay (s : State) (n : Nat) : State := (s.slice n).leavingFrames.foldl (fun s f => s.spillFrame n f.page) s

/-- Begin to move one way of slice n; LAST says toward what, or that pins refused. Toward frames the lines of way F leave it,
toward cache the frames of way F − 1 do: in the turn in which the move begins (log 63). -/
def State.moveWay (s : State) (n : Nat) (frames : Bool) (note : Bool) : State :=
  if frames && s.pinsRefuse n then s.modSlice n (fun x => { x with last := 3 })
  else
    let s := if frames then s.clearWay n else s.spillWay n
    s.modSlice n (fun x => { x with
      moving := true, target := if frames then x.fcur + 1 else x.fcur - 1
      last := if note then (if frames then 1 else 2) else x.last })

/-- The counters of a slice restart (R82). -/
def Slice.recount (x : Slice) : Slice :=
  { x with cl := 0, cg := 0, fg := 0, fl := 0, frames := x.frames.map (fun f => { f with counted := false }) }

/-- CARVEOUT_SAMPLE of slice i (R82): the interval ends, the gains are compared, and the counters restart. -/
def execCarveoutSample (s : State) : Result :=
  s.event (fun x s =>
    let n := x.i % 64
    let sl := s.slice n
    if !s.regs.full || decide (s.cycle < sl.sampled + 2 ^ 20) then none
    else
      let d := s.die (n / 16)
      let gf : Int := (sl.fg : Int) - 384 * (sl.cl : Int)
      let gc : Int := 384 * (sl.cg : Int) - (sl.fl : Int)
      let f := sl.fcur.toNat
      let canF := decide (f + 1 ≤ d.fmax.toNat) && decide (d.fmin.toNat ≤ f + 1) && decide (f + 1 ≤ 14) && decide (0 < gf)
      let canC := decide (1 ≤ f) && decide (d.fmin.toNat + 1 ≤ f) && decide (f - 1 ≤ d.fmax.toNat) && decide (0 < gc)
      let s := s.modSlice n (fun x => { x.recount with sampled := s.cycle, last := 0 })
      some (if d.frz || sl.moving then s
        else if canF && (!canC || decide (gc < gf)) then s.moveWay n true true
        else if canC && (!canF || decide (gf < gc)) then s.moveWay n false true
        else s))

/-- CARVEOUT_LIMIT_MOVE of slice i (R81). -/
def execCarveoutLimitMove (s : State) : Result :=
  s.event (fun x s =>
    let n := x.i % 64
    let sl := s.slice n
    let d := s.die (n / 16)
    let f := sl.fcur.toNat
    if !s.regs.full || sl.moving || decide (s.cycle < sl.moved + 4096) then none
    else if f < d.fmin.toNat then some ((s.modSlice n (fun x => { x with moved := s.cycle })).moveWay n true false)
    else if d.fmax.toNat < f then some ((s.modSlice n (fun x => { x with moved := s.cycle })).moveWay n false false)
    else none)

/-- L2_WAY_MOVE_END of slice i (R83): not while a pin holds a frame of the way that becomes a cache way (R84, log 63). -/
def execL2WayMoveEnd (s : State) : Result :=
  s.event (fun x s =>
    let n := x.i % 64
    let sl := s.slice n
    if !sl.moving then none
    else
      let s := if sl.target.toNat < sl.fcur.toNat then s.spillWay n else s
      let sl := s.slice n
      if sl.frames.any (fun f => decide (sl.target.toNat ≤ f.slot / 24)) then none
      else some (s.modSlice n (fun x => { x with moving := false, fcur := x.target })))

/-! ## Routing windows and links (R122, R386, R441, R442) -/

/-- Flits counted on the links of a switch: a die has 3, the torus router (4) has 6. -/
def State.switchCounts (s : State) (sw : Nat) : List Nat :=
  (List.range (if sw < 4 then 3 else 6)).map (fun k => match s.net.dieFlits.find? (fun x => x.1 == sw * 8 + k) with
    | some (_, n) => n
    | none => 0)

/-- Sixteen times the ratio of the largest count to the mean; 16 for no flits. -/
def ratio16 (l : List Nat) : Nat := if l.sum = 0 then 16 else 16 * l.foldl max 0 * l.length / l.sum

/-- ROUTE_WINDOW_END (R122). DESIGN CHOICE (log 15): of links with equal largest counts the one with the lowest number is marked. -/
def execRouteWindowEnd (s : State) : Result :=
  s.event (fun _ s =>
    if s.cycle < s.net.windowEnd + 4096 then none
    else
      let marks := (List.range 5).filterMap (fun sw =>
        let l := s.switchCounts sw
        let mx := l.foldl max 0
        if s.regs.routeThr.toNat * l.sum < 16 * mx * l.length then some (sw, l.idxOf mx) else none)
      let top := (List.range 5).foldl (fun m sw => max m (ratio16 (s.switchCounts sw))) 0
      some { s with net := { s.net with marked := marks, dieFlits := [], windowEnd := s.cycle }
                    regs := { s.regs with routeLast := BitVec.ofNat 8 (min top 255) } })

/-- A link of a fabric (log 66). -/
def State.lane (s : State) (n : Nat) : Lane := (aget s.net.lanes n).getD {}
def State.setLane (s : State) (n : Nat) (l : Lane) : State := { s with net := { s.net with lanes := aset s.net.lanes n l } }

/-- FLIT_REPLAY on link i (R441): the eighth failure of one flit makes the link retrain, with a record that does not notify. -/
def execFlitReplay (s : State) : Result :=
  s.event (fun x s =>
    let l := s.lane x.i
    if l.training || l.out || !s.alive then none
    else if l.badCrc + 1 < 8 then some (s.setLane x.i { l with badCrc := l.badCrc + 1 })
    else some ((s.setLane x.i { l with badCrc := 0, training := true }).logRec 0x2C 12 x.i 0 0 (wordOfNat x.i)))

/-- FLIT_ACK on link i of j flits, and on a die-to-die link of k in the other direction (R441): whole packets leave the replay
buffer, and those that waited for it are sent. With k = 1 on a torus link the flow of the packet given has been delivered up to
it (log 107), and those of the flow that waited are injected (R121). -/
def execFlitAck (s : State) : Result :=
  s.event (fun x s =>
    let l := s.lane x.i
    if l.training || l.out || !s.alive then none
    else if 24 ≤ x.i then some (s.setLane x.i { l with replay := l.replay - x.j, replayBack := l.replayBack - x.k, badCrc := 0 })
    else
      let s := (s.setLane x.i { l with replay := l.replay - x.j, badCrc := 0 }).acked x.i (l.replay - x.j)
      some (if x.k = 1 then s.delivered x.pkt else s))

/-- A link leaves service (R442): a torus link with its last quarter, and the packets of its replay buffer are sent again; the
packets of a package-fabric link go around it from then on; a link within a die resets the package, which reports it and then
serves without the failed unit. -/
def State.linkOut (s : State) (n : Nat) : State :=
  let t := s.setLane n { s.lane n with out := true, training := false }
  let s := ((if n < 30 then t else t.restart .rom).logRec 0x2D 12 n 0 0 (wordOfNat n)).notifyPkg
  if n < 24 then
    let k := n / 4
    (if (List.range 4).all (fun q => (s.lane (4 * k + q)).out) then { s with net := s.net.setLink k { s.net.link k with up := false } } else s).resendLane n
  else s

/-- LINK_RETRAIN_END on link i, with success if j = 1 (R441, R442): the third failure within 2^30 cycles ends its service. -/
def execLinkRetrainEnd (s : State) : Result :=
  s.event (fun x s =>
    let l := s.lane x.i
    if !l.training then none
    else if x.j = 1 then some (let t := s.setLane x.i { l with training := false }; sendWaiting t.net.wait t)
    else
      let fails := s.cycle :: l.failures.filter (fun c => decide (s.cycle < c + 2 ^ 30))
      some (if fails.length < 3 then s.setLane x.i { l with failures := fails } else s.linkOut x.i))

/-! ## Errors and retirement (R419 to R427, R437, R440) -/

/-- Kind and number of the unit that holds an error, as a record names them (R424, log 63). -/
def errUnit (s : State) (e : ErrorFound) : Nat × Nat :=
  match e.unit with
  | .hbm => (5, s.stackOf e.addr)
  | .window core => (4, core)
  | .l1 core => (3, core)
  | .l2 slice => (2, slice)
  | .directory slice => (2, slice)
  | .pageTag slice => (2, slice)
  | .icache t => if t < 1024 then (3, t) else (1, t - 1024)
  | .masonStore cl => (8, cl)
  | .eventUnit cl => (10, cl)
  | .tlb t => if t < 1024 then (3, t) else (1, t - 1024)
  | .tagCache cl => (13, cl)
  | .join die => (11, die)
  | .l1Tag core => (3, core)
  | .stream cl => (9, cl)
  | .queue kind cl => (kind, cl)

/-- Notify for the unit (R396). -/
def State.notifyErr (s : State) (e : ErrorFound) : State :=
  match e.unit with
  | .hbm => s.notifyDie (s.stackOf e.addr / 3)
  | .window core => s.notify (core / 64)
  | .l1 core => s.notify (core / 64)
  | .l2 slice => s.notifyDie (slice / 16)
  | .directory slice => s.notifyDie (slice / 16)
  | .pageTag slice => s.notifyDie (slice / 16)
  | .icache t => if t < 1024 then s.notify (t / 64) else s.notifyDie ((t - 1024) / 24)
  | .masonStore cl => s.notify cl
  | .eventUnit cl => s.notify cl
  | .tlb t => if t < 1024 then s.notify (t / 64) else s.notifyDie ((t - 1024) / 24)
  | .tagCache cl => s.notify cl
  | .join die => s.notifyDie die
  | .l1Tag core => s.notify (core / 64)
  | .stream cl => s.notify cl
  | .queue _ cl => s.notify cl

/-- The error bank of a unit. -/
def State.bank (s : State) (k : Nat) : Nat × Nat × Nat × Nat := (aget s.log.banks k).getD (0, 0, 0, 0)
def State.setBank (s : State) (k : Nat) (b : Nat × Nat × Nat × Nat) : State := { s with log := { s.log with banks := aset s.log.banks k b } }

/-- A corrected error: a record with the count of those since the last, at most one in 2^20 cycles; that of HBM notifies (R423,
R424). -/
def State.corrected (s : State) (e : ErrorFound) : State :=
  let (ukind, unit) := errUnit s e
  let k := ukind * 8192 + unit
  let (c, u, _, last) := s.bank k
  if last ≠ 0 ∧ s.cycle < last + 2 ^ 20 then s.setBank k (c + 1, u, e.addr, last)
  else
    let s := (s.setBank k (0, u, e.addr, max 1 s.cycle)).logRec (if e.unit = .hbm then 0x22 else 0x20) ukind unit 0 (wordOfNat e.addr) (wordOfNat (c + 1))
    if e.unit = .hbm then s.notifyErr e else s

/-- A join group is lost (R434): its members stay as they are, and its future fails. -/
def State.loseGroup (s : State) (d : Nat) (g : JoinGroup) : State :=
  ((s.engFail g.rights.cx 11 d g.rights.ident g.handle (failureWord 0x6 0x50 0)).logRec 0x30 11 d g.rights.ident g.key 0).notifyDie d

/-- The operation or launch at a place of a unit's queue is lost (log 111): it fails as one whose unit failed (R428), and a launch
completes lost (R443). -/
def State.loseQueued (s : State) (kind cl n : Nat) : State :=
  let C := s.cluster cl
  match kind with
  | 6 => match C.copies[n]? with
    | some p => s.putCopy cl { p with failed := p.failed.orElse (fun _ => some (failureWord 0x1 0x13 0)) }
    | none => s
  | 7 => match C.gen[n]? with
    | some p => s.putMma cl { p with failed := p.failed.orElse (fun _ => some (failureWord 0x2 0x13 0)) }
    | none => s
  | 8 => match C.mason.queue[n]? with
    | some j => (s.modMason cl (fun m => { m with queue := m.queue.eraseIdx n })).engFail j.rights.cx 8 cl j.rights.ident j.handle (failureWord 0x3 0x13 0)
    | none => s
  | 9 => match C.streams.queue[n]? with
    | some op => s.opFail cl op (failureWord 0x4 0x13 0)
    | none => s
  | 13 => match C.disp[n]? with
    | some l =>
      let la := (aget s.launches l).getD {}
      (((s.leaveQueue cl l).launchDone l).logRec 0x36 13 cl la.ident (wordOfNat la.hdr) (wordOfNat la.chain)).notify cl
    | none => s
  | _ => s

/-- Places of the queue of a unit's kind. -/
def Cluster.queued (c : Cluster) : Nat → Nat
  | 6 => c.copies.length
  | 7 => c.gen.length
  | 8 => c.mason.queue.length
  | 9 => c.streams.queue.length
  | 13 => c.disp.length
  | _ => 0

/-- The copies of a line's page tag are lost in every die, so that the next access brings it from its leaf (R423). -/
def State.retag (s : State) (die line : Nat) : State :=
  let s := match s.frameOf die (line / 512) with
    | some (n, f) => (s.dropPage die f.page).modFrame n f.page (fun f => { f with stale := true })
    | none => s
  (List.range 4).foldl (fun s d => s.dropLine d line) s

/-- An uncorrectable error (R420): the word is poisoned, or in HBM the half-line; a parity error of a translation entry or of a
directory entry is repaired from its source (R423), and one of a directory that cannot be poisons the line; a page-tag copy goes
with its line, as under CINV, a stream context's breaks its stream (R432), and an instruction-cache line is fetched again (R400, R419); one of a
control-store word waits for the job that reaches it (R440); one in the event unit fails its domain (R437), and one of a join
group loses it (R434). -/
def State.uncorrectable (s : State) (e : ErrorFound) : State :=
  let (ukind, unit) := errUnit s e
  let k := ukind * 8192 + unit
  let (c, u, _, last) := s.bank k
  let s := s.setBank k (c, u + 1, e.addr, last)
  let note (s : State) (cause : Nat) : State := (s.logRec cause ukind unit 0 (wordOfNat e.addr) 0).notifyErr e
  let repaired (s : State) (a : Nat) : State := (s.logRec 0x24 ukind unit 0 (wordOfNat a) 0).notifyErr e
  let words (s : State) (a n : Nat) : State := (List.range n).foldl (fun s i => s.setPoison (a + 8 * i)) s
  match e.unit with
  | .hbm => note (words s (e.addr / 64 * 64) 8) 0x23
  | .window _ => note (words s (e.addr / 8 * 8) 1) 0x21
  | .l1 _ => note (words s (e.addr / 8 * 8) 1) 0x21
  | .l2 _ => note (words s (e.addr / 8 * 8) 1) 0x21
  | .directory _ => note (words s (e.addr / 128 * 128) 16) 0x21
  | .masonStore cl => s.modMason cl (fun m => { m with parity := insertKey (e.addr % 2048) m.parity })
  | .eventUnit cl => s.failDomain cl (popId cl e.addr)
  | .pageTag slice => note (s.retag (slice / 16) (e.addr / 128)) 0x24
  | .l1Tag core => note (s.retag (core / 256) (e.addr / 128)) 0x24
  | .stream cl => (note s 0x21).breakStream cl e.addr 0
  | .queue kind cl => (note s 0x21).loseQueued kind cl e.addr
  | .icache t => note { s with caches := { s.caches with icache := s.caches.icache.filter (fun k => k != lineKey t e.addr) } } 0x21
  | .tlb t => repaired (s.setTlb t ((s.tlb t).eraseIdx e.addr)) ((s.tlb t)[e.addr]?.elim 0 (·.frame))
  | .tagCache cl =>
    repaired (s.modCluster cl (fun c => { c with tagCache := c.tagCache.eraseIdx e.addr }))
      ((s.cluster cl).tagCache[e.addr]?.elim 0 (fun t => t.cbase + t.tag / 64 * 8))
  | .join d =>
    match (s.die d).groups[e.addr]? with
    | none => s
    | some g => (s.modDie d (fun u => { u with groups := u.groups.eraseIdx e.addr })).loseGroup d g

/-- Does a slice hold a line: in a way or in a frame, or, during SRAM-only service, as the place of R378? -/
def State.inSlice (s : State) (slice line : Nat) : Bool :=
  if s.regs.full then
    (decide (s.sliceNo (slice / 16) line = slice) && (s.l2Line (slice / 16) line).any (fun l => !l.framed)) ||
      (s.slice slice).frames.any (fun f => f.page == line / 512)
  else decide (s.sliceNo (s.homeDie (line * 128)) line = slice)

/-- Is the place of an error in the storage named? -/
def errPlace (s : State) (e : ErrorFound) : Bool :=
  match e.unit with
  | .hbm => decide (e.addr < s.memTop) && s.regs.full
  | .window core => decide (windowKey core 0 0 ≤ e.addr) && decide (e.addr < windowKey core 0 0 + 2 ^ 20) && decide (core < 1024)
  | .l1 core => (aget s.caches.l1 (core * 2 ^ 33 + e.addr / 128)).isSome && decide (core < 1024)
  | .l2 slice => decide (e.addr < s.memTop) && decide (slice < 64) && s.inSlice slice (e.addr / 128)
  | .directory slice => decide (e.addr < s.memTop) && decide (slice < 64) &&
      (s.inSlice slice (e.addr / 128) || (decide (s.sliceNo (s.homeDie e.addr) (e.addr / 128) = slice) && (aget s.caches.home (e.addr / 128)).isSome))
  | .pageTag slice => decide (e.addr < s.memTop) && decide (slice < 64) && s.inSlice slice (e.addr / 128)
  | .icache t => s.caches.icache.contains (lineKey t e.addr)
  | .masonStore cl => decide (cl < 16)
  | .eventUnit cl => decide (cl < 16) && !(s.events cl).pops.isEmpty
  | .tlb t => decide (e.addr < (s.tlb t).length)
  | .tagCache cl => decide (cl < 16) && decide (e.addr < (s.cluster cl).tagCache.length)
  | .l1Tag core => (aget s.caches.l1 (core * 2 ^ 33 + e.addr / 128)).isSome && decide (core < 1024)
  | .stream cl => decide (cl < 16) && (s.streamCtx cl e.addr).state != .free
  | .queue kind cl => decide (cl < 16) && decide (e.addr < (s.cluster cl).queued kind)
  | .join d => decide (e.addr < (s.die d).groups.length) && decide (d < 4)

/-- The slot of a line in the L2 of a die, as 16 × set + way: in SRAM-only service as R378 places it, else where it stands. -/
def State.slotOf (s : State) (die line : Nat) : Option Nat :=
  if s.regs.full then (s.l2Line die line).map (fun l => 16 * s.l2SetOf line + l.way)
  else some (16 * s.l2SetOf line + line % 3145728 / 196608)

/-- The slot of a line in the L1D of a core, as 16 × (core × 1,024 + set) + way. -/
def State.l1Slot (s : State) (core line : Nat) : Option Nat :=
  (aget s.caches.l1 (core * 2 ^ 33 + line)).map (fun l => 16 * (core * 1024 + line % 1024) + l.way)

/-- Retire the storage of an error (R426): an HBM frame, a frame of a frame way, or a line slot of a slice or an L1D. A set
loses at most two slots. A frame that a pin holds is spilled when the pin ends (R418). -/
def State.retireStore (s : State) (e : ErrorFound) : State :=
  let (ukind, unit) := errUnit s e
  let note (s : State) (kind : Nat) : State := (s.logRec 0x26 ukind unit 0 (wordOfNat e.addr) (wordOfNat kind)).notifyErr e
  let line := e.addr / 128
  match e.unit with
  | .hbm =>
    let f := e.addr / 2 ^ 16
    if s.log.retired.contains f then s
    else
      let a := s.regs.retBase.toNat * 2 ^ 21 + f / 8
      let b := memByte s.mem a ||| BitVec.ofNat 8 (2 ^ (f % 8))
      let s : State := { s with regs := { s.regs with retNret := s.regs.retNret + 1 }, log := { s.log with retired := f :: s.log.retired } }
      note (if s.regs.retEn then { s with mem := memPut s.mem a b } else s) 0
  | .l2 slice =>
    match (s.slice slice).frames.find? (fun (f : PageFrame) => f.page == line / 512) with
    | some f =>
      if e.corrected then s
      else if (s.slice slice).deadFrames.contains f.slot then s
      else note ((if f.pins.isEmpty then s.spillFrame slice f.page else s).modSlice slice (fun x => { x with deadFrames := f.slot :: x.deadFrames })) 3
    | none =>
      match s.slotOf (slice / 16) line with
      | none => s
      | some k =>
        let gone := (s.slice slice).retired
        if gone.contains k || decide (2 ≤ (gone.filter (· / 16 == k / 16)).length) then s
        else
          let s := if s.regs.full then s.dropLine (slice / 16) line else s
          note (s.modSlice slice (fun x => { x with retired := k :: x.retired })) 1
  | .l1 core =>
    match s.l1Slot core line with
    | none => s
    | some k =>
      if 2 ≤ (s.caches.l1dead.filter (· / 16 == k / 16)).length then s
      else note (({ s with caches := { s.caches with l1 := adel s.caches.l1 (core * 2 ^ 33 + line), l1dead := k :: s.caches.l1dead } } : State).relist (core / 256) line) 2
  | _ => s

/-- The storage of an error that errors retire, as a key: a frame, a slot of a slice, a line of an L1D. -/
def State.errKey (s : State) (e : ErrorFound) : Option Nat :=
  match e.unit with
  | .hbm => some (e.addr / 2 ^ 16)
  | .l2 slice => (s.slotOf (slice / 16) (e.addr / 128)).map (fun k => 2 ^ 40 + slice * 2 ^ 20 + k)
  | .l1 core => (s.l1Slot core (e.addr / 128)).map (fun k => 2 ^ 50 + k)
  | _ => none

/-- After a corrected error: whether its storage is retired, and the state that keeps the errors of the last 2^36 cycles. An
HBM frame is retired by errors in 8 different words, a line slot by 2 errors (R426). -/
def State.worn (s : State) (e : ErrorFound) : State × Bool :=
  match s.errKey e with
  | none => (s, false)
  | some k =>
    let l := (k, e.addr / 8, s.cycle) :: s.log.fixes.filter (fun x => decide (s.cycle ≤ x.2.2 + 2 ^ 36))
    let mine := (l.filter (fun x => x.1 == k)).map (·.2.1)
    ({ s with log := { s.log with fixes := l } },
     if e.unit = .hbm then decide (8 ≤ mine.eraseDups.length) else decide (2 ≤ mine.length))

/-- SCRUB, or the access that finds it, meets the error given (R420, R423, R426). What parity protects is never corrected: a
directory entry is restored, the others repaired or lost as R423 has it, with a record (R419). -/
def execScrub (s : State) : Result :=
  s.event (fun x s =>
    if !errPlace s x.err || !s.alive then none
    else if !x.err.corrected then some ((s.uncorrectable x.err).retireStore x.err)
    else
      match x.err.unit with
      | .directory slice => some ((s.logRec 0x24 2 slice 0 (wordOfNat x.err.addr) 0).notifyErr x.err)
      | .pageTag _ => some (s.uncorrectable x.err)
      | .l1Tag _ => some (s.uncorrectable x.err)
      | .tlb _ => some (s.uncorrectable x.err)
      | .tagCache _ => some (s.uncorrectable x.err)
      | .masonStore _ => some (s.uncorrectable x.err)
      | _ =>
        let (s, out) := (s.corrected x.err).worn x.err
        some (if out then s.retireStore x.err else s))

/-! ## Units that leave service (R434, R443) -/

/-- A copy or a mason's job that has lost a store at another package fails with WHY 0x12 (R428, R429). -/
def State.engLost (s : State) (r : RStore) : State :=
  let word (kind role : Nat) : Word := failureWord kind 0x12 (faultField role r.addr)
  let s := (List.range 112).foldl (fun (s : State) u =>
    if (s.copies u).any (fun p => p.handle.toNat == r.uid) then
      s.modCopies u (fun l => l.map (fun p => if p.handle.toNat = r.uid then { p with failed := p.failed.orElse (fun _ => some (word 0x1 1)) } else p))
    else s) s
  (List.range 16).foldl (fun (s : State) cl => match (s.cluster cl).mason.run with
    | some j =>
      if j.job.handle.toNat = r.uid then s.modMason cl (fun m => { m with run := some { j with lost := j.lost.orElse (fun _ => some (word 0x3 3)) } }) else s
    | none => s) s

/-- A remote store is ended without being performed (R414): its counter falls, with a record. -/
def State.loseStore (s : State) (r : RStore) : State :=
  let s := ((s.engLost r).ackTask r.cx r.uid 1).finishDying r.cx r.uid
  (s.logRec 0x27 (if isMemCtx r.cx then 1 else 0) (if isMemCtx r.cx then memCoreOf r.cx else r.cx) 0 (wordOfNat r.key) r.addr).notifyCtx r.cx

/-- Kill every task of a cluster: running ones, those in its yard, and those in its cellar ring. -/
def State.killAll (s : State) (cl : Nat) : State :=
  let s := (s.running cl).foldl (fun s x => s.killRunning x.1) s
  let s := (s.cluster cl).yard.foldl (fun s r =>
    match aget (s.cluster cl).yard r.1 with
    | some q => if q.place == .tile || q.dying then s else s.killSuspended (cl * 512) r.1
    | none => s) s
  (s.cluster cl).cellar.foldl (fun s r => match r.2.place with
    | .fresh c => if c.csrs.kst = 0 then s else s.keyReturn c.csrs.kst.toNat c.csrs.twt
    | _ => s) s

/-- Every launch that the cluster's dispatcher holds completes lost. -/
def State.loseLaunches (s : State) (cl : Nat) : State :=
  let C := s.cluster cl
  let held := s.launches.filter (fun l => l.2.cl == cl && !l.2.done &&
    (C.disp.contains l.1 || C.cur == some l.1 || l.2.kst.isSome))
  held.foldl (fun s l => ((s.launchDone l.1).logRec 0x36 13 cl l.2.ident (wordOfNat l.2.hdr) (wordOfNat l.2.chain)).notify cl) s

/-- Its live streams are broken, without a record for each. -/
def State.breakAll (s : State) (cl : Nat) : State :=
  (s.cluster cl).streams.ctxs.foldl (fun s x =>
    if x.2.state = .free then s
    else (((s.stopJobs cl x.2.id).withdraw x.2.id x.2.jg).freeStream cl x.1).dropStreamTlb cl x.2.id) s

/-- CLUSTER_LEAVE of cluster i (R443). -/
def execClusterLeave (s : State) : Result :=
  s.event (fun x s =>
    let cl := x.i % 16
    if !(s.cluster cl).inService then none
    else
      let s := s.loseLaunches cl
      let s := s.killAll cl
      let s := (s.breakAll cl)
      let away := (s.events cl).queue.filter (fun q => clusterOf q.rights.cx != cl)
      let s := away.foldl (fun s q => s.engFail q.rights.cx 10 cl q.rights.ident q.handle (failureWord 0x5 0x13 0)) s
      let lo := windowBase + cl * 2 ^ 26
      let fe := feBase + cl * 2 ^ 19
      let hits (r : RStore) : Bool := (decide (lo ≤ r.key) && decide (r.key < lo + 2 ^ 26)) || (decide (fe ≤ r.key) && decide (r.key < fe + 2 ^ 19))
      let lost := s.rstores.filter hits
      let s : State := { s with rstores := s.rstores.filter (fun r => !hits r) }
      let s := lost.foldl State.loseStore s
      let s : State := { s with
        keystones := s.keystones.filter (fun k => !(decide (keyHandle cl 0 ≤ k.1) && decide (k.1 < keyHandle cl 0 + 64)))
        pins := s.pins.filter (fun p => isMemCtx p.rights.cx || clusterOf p.rights.cx != cl)
        moves := s.moves.filter (fun m => m.asker.isSome || isMemCtx m.rights.cx || clusterOf m.rights.cx != cl)
        boot := { s.boot with left := cl :: s.boot.left }
        caches := { s.caches with tlbs := s.caches.tlbs.filter (fun t => t.1 / 64 != cl)
                                  icache := s.caches.icache.filter (fun l => l / 2 ^ 33 / 64 != cl)
                                  l1 := s.caches.l1.filter (fun l => l.1 / 2 ^ 33 / 64 != cl) } }
      let gen := (s.cluster cl).gen.map (fun q => q.handle.toNat)
      let s := s.unfetch (fun h => gen.contains (h / 2 ^ 16))
      some ((s.modCluster cl (fun c => {
        yard := c.yard.filter (fun r => r.2.dying), pinq := c.pinq, spool := c.spool, shtb := c.shtb, shtv := c.shtv
        stkaBase := c.stkaBase, stkaSlot := c.stkaSlot, sva := c.sva, celb := c.celb })).rescope))

/-- JOIN_UNIT_FAIL of die i (R434): every group is lost; its members stay as they are. -/
def execJoinUnitFail (s : State) : Result :=
  s.event (fun x s =>
    let d := x.i % 4
    if !(s.die d).joinUp then none
    else
      let lost := (s.die d).groups
      let s := s.modDie d (fun u => { u with joinUp := false, groups := [] })
      some (lost.foldl (fun s g => s.loseGroup d g) s).rescope)

end Sys2Proof.Machine
end

