-- ==== Sys2Proof/Machine/Net.lean ====
section
/-!
DEFINITION. Packets that arrive from other packages (R96, R98, R100, R105, R111, R120, R121, R442), migrations of streams
(R126, R311, R435), and the loss of a package (R386, R414). What a packet carries beside its header is in log 24.
-/

namespace Sys2Proof.Machine

/-! ## What a packet asks (R120, R442) -/

/-- LEN that an OP carries, with the class it belongs to; none for a reserved OP. -/
def opForm : Nat → Option (Nat × List Nat)
  | 0x01 => some (0, [0])
  | 0x02 => some (0, [3])
  | 0x03 => some (0, [1])
  | 0x04 => some (0, [1])
  | 0x05 => some (0, [1])
  | 0x06 => some (0, [1, 2])
  | 0x08 => some (1, [1, 2])
  | 0x09 => some (1, [0])
  | 0x10 => some (2, [1])
  | 0x11 => some (2, [1])
  | 0x12 => some (2, [0])
  | 0x13 => some (2, [3])
  | 0x14 => some (2, [3])
  | 0x15 => some (2, [0])
  | 0x16 => some (2, [0])
  | _ => none

/-- Is the packet to be discarded: a reserved OP, or a LEN that its OP does not carry? -/
def malformed (p : Packet) : Bool :=
  match opForm p.op with
  | none => true
  | some (_, l) => !l.contains p.len

/-- Header bits [127:64]. -/
def headerHigh (p : Packet) : Word :=
  wordOfNat (p.cls * 2 ^ 62 + b2n p.ph * 2 ^ 61 + p.idie * 2 ^ 59 + p.ipkg * 2 ^ 47 + p.dpkg * 2 ^ 35 + p.spkg * 2 ^ 23
    + p.dagt * 2 ^ 12 + p.sagt * 2 + p.seq / 2 ^ 15)

/-- Discard a packet, with its record (R442). -/
def State.discardPacket (s : State) (p : Packet) : State := (s.logRec 0x2E 12 0 0 0 (headerHigh p)).notifyPkg

/-- Word n of a payload. -/
def wordAt (p : Packet) (n : Nat) : Word := p.payload.getD n 0

/-! ## The owner's side (R96, R105) -/

/-- Where the line of a request is now: here, or behind a stub (R100). -/
def State.placeOf (s : State) (p : Packet) : Nat × Nat :=
  if windowBase ≤ p.line then (s.sys.self, p.line) else s.whereNow stubFuel s.sys.self p.line

/-- Does the storage named exist? A request to storage that does not is never answered, and ends at its issuer (R414). -/
def State.exists_ (s : State) (key : Nat) : Bool :=
  if feBase ≤ key then decide (key < feBase + 2 ^ 23) && !s.boot.left.contains ((key - feBase) / 2 ^ 19)
  else if windowBase ≤ key then decide (key < windowBase + 2 ^ 30) && !s.boot.left.contains ((key - windowBase) / 2 ^ 26)
  else decide (key < s.memTop)

/-- Does a request wait: its line is in transit, or its stack is stopped (R100, R384)? -/
def State.lineWaits (s : State) (key : Nat) : Bool := decide (key < windowBase) && (s.stopped key || s.inTransit key)

/-- Die at whose slice, or in whose core, the owner performs a request. -/
def State.dieOfKey (s : State) (key : Nat) : Nat :=
  if feBase ≤ key then (key - feBase) / 2 ^ 21
  else if windowBase ≤ key then (key - windowBase) / 2 ^ 28
  else s.homeDie key

/-- The agent as which the owner checks a request: the requester's identity through the owner's own directory (R105). -/
def State.ownerAgent (s : State) (p : Packet) (key : Nat) : Agent :=
  let id := BitVec.ofNat 24 p.idn
  let d := s.homeDie key
  { rights := { cx := p.cx, ident := id, cbase := s.clearance id }, cl := 4 * d, die := d }

/-- The tag that the owner checks: that of the line it holds, else the page's, which comes with the fill (R105, log 72). -/
def State.ownerTag (s : State) (p : Packet) (key : Nat) : Nat := s.lineTag (s.ownerAgent p key) key p.tag

/-- The owner's check of a request (R102, R105). A denial is logged here. An instruction fetch and an access to a cellar ring are
not tag-checked (R34, R103, R371). -/
def State.ownerCheck (s : State) (p : Packet) (key acc : Nat) : State × Bool :=
  if windowBase ≤ key || p.use == 1 then (s, true)
  else
    let tag := s.ownerTag p key
    match (if tag = 0 then s else s.identRead (BitVec.ofNat 24 p.idn)).allowed (s.ownerAgent p key) tag with
    | (s, true) => (s, true)
    | (s, false) => (s.denial (BitVec.ofNat 24 p.idn) tag acc p.cx p.addr p.spkg (key / 2 ^ 16) true, false)

/-- The line is brought to the slice of its home die for a write, which performs it there (R74, R96). -/
def State.takeLine (s : State) (p : Packet) (key : Nat) : State :=
  if windowBase ≤ key then s else s.mergeLine (s.homeDie key) none (key / 128) (s.ownerTag p key) false

/-- The same for a read. -/
def State.giveLine (s : State) (p : Packet) (key : Nat) : State :=
  if windowBase ≤ key then s else s.readLine (s.homeDie key) none (key / 128) (s.ownerTag p key) false

/-- Merge bits of a word as the owner: a partial write of a poisoned word is dropped with a record (R422). -/
def State.ownerMerge (s : State) (p : Packet) (key : Nat) (mask val : Word) : State :=
  match s.putWord key mask val with
  | (s, false) => s
  | (s, true) => s.droppedRec key p.addr (s.homeDie key) none

/-- The full/empty granule of a window word by its byte key. -/
def granOfKey (key : Nat) : Nat :=
  let core := (key - windowBase) / 2 ^ 20
  let o := (key - windowBase) % 2 ^ 20
  if o < 2 ^ 19 then granuleId core 0 (8 * o)
  else if o < 2 ^ 19 + 2 ^ 18 then granuleId core 1 (8 * (o - 2 ^ 19))
  else granuleId core 2 (8 * (o - 2 ^ 19 - 2 ^ 18))

/-- Pass a request on to the package that a stub names, at the same offset (R100); its answer goes to the requester, and this
package numbers it. -/
def State.passStub (s : State) (p : Packet) (own key : Nat) : State :=
  s.sendPacket { p with dpkg := own, line := key, dagt := s.destAgent key, via := some s.sys.self }

/-- Serve a request at the line it names. -/
def State.atOwner (s : State) (p : Packet) (f : Nat → State → Option State) : Option State :=
  match s.placeOf p with
  | (own, key) =>
    if own ≠ s.sys.self then some (s.passStub p own key)
    else if !s.exists_ key then some s
    else if s.lineWaits key then none
    else f key s

/-- May the requester have the line, with no record of a denial? -/
def State.ownerAllows (s : State) (p : Packet) (key : Nat) : Bool :=
  decide (windowBase ≤ key) || (s.allowed (s.ownerAgent p key) (s.ownerTag p key)).2

/-- RDLINE: the line, with one bit for each poisoned word. One that asks for the poison alone delivers no
data. -/
def State.ownRead (s : State) (p : Packet) : Option State :=
  s.atOwner p (fun key s =>
    let bad := wordOfNat (s.poisonBits key)
    if p.use = 2 then some (s.answer p 0x08 (List.replicate 16 0 ++ [if s.ownerAllows p key then bad else 0]))
    else match s.ownerCheck p key 0 with
    | (s, true) => some ((s.giveLine p key).answer p 0x08 (memWords s.mem 16 key ++ [bad]))
    | (s, false) => some (s.answer p 0x08 (List.replicate 17 0)))

/-- Bits of a word that the eight bits of a byte mask select. -/
def byteMask (m : Nat) : Word :=
  wordOfNat ((List.range 8).foldl (fun x k => if bit m k then x + 0xFF * 2 ^ (8 * k) else x) 0)

/-- WRLINE: the bytes selected; an STFE makes the granules full with them (R208), and words that an engine writes poisoned are
so (R420). -/
def State.ownWrite (s : State) (p : Packet) : Option State :=
  s.atOwner p (fun key s =>
    match s.ownerCheck p key 1 with
    | (s, false) => some (s.answer p 0x09 [])
    | (s, true) =>
      let mask := (wordAt p 16).toNat + (wordAt p 17).toNat * 2 ^ 64
      let hit := (List.range 16).filter (fun k => bits mask (8 * k + 7) (8 * k) != 0)
      let s := hit.foldl (fun s k =>
        let s := s.ownerMerge p (key + 8 * k) (byteMask (bits mask (8 * k + 7) (8 * k))) (wordAt p k)
        if (wordAt p 19).getLsbD k then s.setPoison (key + 8 * k) else s) (s.takeLine p key)
      let s := if wordAt p 18 = 1 ∧ windowBase ≤ key ∧ key < feBase then s.fillGrans (hit.map (fun k => granOfKey (key + 8 * k))) else s
      some (s.answer p 0x09 []))

/-- MERGE: bits of one word, or of two for an STFE that crosses them, in one step with its granule (R208); the word is poisoned
where the sender's data was (R420). -/
def State.ownMerge (s : State) (p : Packet) : Option State :=
  s.atOwner p (fun key s =>
    match s.ownerCheck p key 1 with
    | (s, false) => some (s.answer p 0x09 [])
    | (s, true) =>
      let k := key + 8 * ((wordAt p 0).toNat % 16)
      let s := (s.takeLine p key).ownerMerge p k (wordAt p 1) (wordAt p 2)
      let s := if p.payload.length = 7 then s.ownerMerge p (k + 8) (wordAt p 5) (wordAt p 6) else s
      let s := if wordAt p 3 = 1 then s.setPoison k else s
      let s := if wordAt p 4 = 1 ∧ windowBase ≤ key ∧ key < feBase then s.fillGrans [granOfKey k] else s
      some (s.answer p 0x09 []))

/-- The new value of an atomic of R214 by its code, width, old value, y and the compare value. -/
def atomNew (code w old y c : Nat) : Nat :=
  match code with
  | 0 => (old + y) % 2 ^ w
  | 1 => old &&& y
  | 2 => old ||| y
  | 3 => old ^^^ y
  | 4 => if sltN w y old then y else old
  | 5 => if sltN w old y then y else old
  | 6 => min old y
  | 7 => max old y
  | 8 => y
  | 9 => if old = c % 2 ^ w then y else old
  | 11 => (fadd w old y).1
  | _ => old

/-- An atomic on bits of one word, answered by the old value, one more than the offset of its poison, and whether it was denied. -/
def State.ownAtom (s : State) (p : Packet) (key : Nat) : State :=
  match s.ownerCheck p key 2 with
  | (s, false) => s.answer p 0x08 [0, 0, 0, 1]
  | (s, true) =>
    if s.poisoned key then s.answer p 0x08 [0, 0, 1, 0]
    else
      let off := (wordAt p 0).toNat % 64
      let w := (wordAt p 2).toNat
      let old := ((s.phys key).toNat >>> off) % 2 ^ w
      let new := atomNew (wordAt p 1).toNat w old (wordAt p 4).toNat (wordAt p 5).toNat
      ((s.takeLine p key).ownerMerge p key (wordOfNat ((2 ^ w - 1) * 2 ^ off)) (wordOfNat (new * 2 ^ off))).answer p 0x08 [wordOfNat old, 0, 0, 0]

/-- CAS2 at the owner (R216): the second word follows the first, or at a window lies where its address places it (R73, log 86). A
state word that it writes may make granules full, which serves the LDFE that wait there (R75, R77). -/
def State.ownCas2 (s : State) (p : Packet) (key : Nat) : State :=
  let snd := if windowBase ≤ key then (s.placePart {} { addr := p.addr + 64 }).key else key + 8
  match s.ownerCheck p key 2 with
  | (s, false) => s.answer p 0x08 [0, 0, 0, 1]
  | (s, true) =>
    if s.poisoned key then s.answer p 0x08 [0, 0, 1, 0]
    else if s.poisoned snd then s.answer p 0x08 [0, 0, 65, 0]
    else
      let lo := s.phys key
      let hi := s.phys snd
      let s := s.takeLine p key
      let s := if lo = wordAt p 6 ∧ hi = wordAt p 7 then (s.setPhys key (wordAt p 4)).setPhys snd (wordAt p 5) else s
      let s := if feBase ≤ key then s.serveLdfes else s
      s.answer p 0x08 [lo, hi, 0, 0]

/-! ### LDFE from another package (R76, R77, R207) -/

/-- Parts of the operand of an LDFE request, at this package's windows. -/
def State.ldfeParts (s : State) (p : Packet) : List Part :=
  (partsOf 0 p.addr (ldfeWidth ((wordAt p 1).setWidth 4))).map (s.placePart {})

/-- Perform an LDFE request that may go on: an acknowledgement alone says that a granule is empty, and the requester traps. -/
def State.ownLdfe (s : State) (p : Packet) : State :=
  let qs := s.ldfeParts p
  if qs.any (fun q => !s.granFull q.gran) then s.answer p 0x09 []
  else match qs.find? (fun q => s.poisoned q.key) with
  | some q => s.answer p 0x08 [0, 0, wordOfNat (1 + q.pos), 0]
  | none =>
    let v := laneBits s 0 0 qs
    let s := if (wordAt p 1).getLsbD 3 then emptyGrans qs s else s
    s.answer p 0x08 [wordOfNat v, wordOfNat (v / 2 ^ 64), 0, 0]

/-- An LDFE request: performed, or it waits at its granule behind those that wait there. -/
def State.takeLdfe (s : State) (p : Packet) : Option State :=
  let qs := s.ldfeParts p
  if qs.any (fun q => q.fault.isSome) then none
  else if qs.all (fun q => s.granFull q.gran) || (wordAt p 1).getLsbD 2 then some (s.ownLdfe p)
  else match qs with
    | [] => none
    | q :: _ =>
      some { s with ldfes := s.ldfes ++ [{ req := some p, gran := q.gran, key := q.key, off := q.off, w := ldfeWidth ((wordAt p 1).setWidth 4), clr := (wordAt p 1).getLsbD 3 }] }

/-- Answer an LDFE request that has been served where it waited (R77). -/
def State.ldfeAnswer (s : State) (p : Packet) (e : LdfeWait) : Option State :=
  let s' : State := { s with ldfes := s.ldfes.erase e }
  match e.got with
  | .pending => none
  | .value v => some (s'.answer p 0x08 [wordOfNat v, wordOfNat (v / 2 ^ 64), 0, 0])
  | .poisoned n => some (s'.answer p 0x08 [0, 0, wordOfNat (1 + n), 0])

/-- An LDFE that waits here is taken back, unless it has been served: the answer is 1 where nothing has been read or cleared
(R207, log 104). -/
def State.dropLdfe (s : State) (p : Packet) : State :=
  match s.ldfes.find? (fun e => e.got == .pending && (match e.req with
    | some q => q.spkg == p.spkg && q.name == (wordAt p 0).toNat
    | none => false)) with
  | none => s.answer p 0x08 [0]
  | some e => ({ s with ldfes := s.ldfes.erase e } : State).answer p 0x08 [1]

/-- ATOM: an atomic, an LDFE or the taking back of one, or a CFLUSH or CINV of a line (log 24). -/
def State.takeAtom (s : State) (p : Packet) : Option State :=
  let code := (wordAt p 1).toNat
  if code / 16 = 1 then s.takeLdfe p
  else if code = 0x2F then some (s.dropLdfe p)
  else
    s.atOwner p (fun key s => some (
      if code = 0x20 ∨ code = 0x21 then
        match s.ownerCheck p key 1 with
        | (s, true) => (s.cleanLines (code == 0x21) [key / 128] (wordAt p 2).toNat).answer p 0x09 []
        | (s, false) => s.answer p 0x09 []
      else if code = 10 then s.ownCas2 p key
      else s.ownAtom p key))

/-! ## Hotness, moves, answers -/

/-- HOTINC (R97, R98): applied while the table exists, or passed on from a stub with its quadrant (log 92). -/
def State.takeHot (s : State) (p : Packet) : Option State :=
  let frame := (wordAt p 0).toNat % 2 ^ 24
  if !s.regs.hotbTbl then some s
  else if s.stopped (s.hotRec frame) then none
  else some (s.hotInc stubFuel frame ((wordAt p 1).toNat % 10))

/-- MVLINE (R100): two words ask the owner for a move, three end one with the page's history, more carry a line, whose arrival
is acknowledged. DESIGN CHOICE (log 101): the TBL of the owner that is asked decides on status 6, and a destination writes the
record whatever its own. -/
def State.takeMove (s : State) (p : Packet) : Option State :=
  let a := (wordAt p 0).toNat
  if p.payload.length = 2 then some (
    if !s.regs.hotbTbl then s.answer p 0x08 [6]
    else
      let m : MoveOp := { rights := { ident := BitVec.ofNat 24 p.idn }, own := s.sys.self, frame := a % 2 ^ 24
                          dpkg := Wbits (wordAt p 1) 35 24, dframe := Wbits (wordAt p 1) 23 0, asker := some (p.spkg, p.sagt, p.name) }
      { s with moves := s.moves ++ [m] })
  else if p.payload.length = 3 then
    let now := s.cycle
    let t := (wordAt p 1).toNat
    let r := putBits 0 207 160 ((now + 2 ^ 48 - t % 2 ^ 48) % 2 ^ 48)
    let r := putBits (putBits r 255 208 (now % 2 ^ 48)) 305 304 (min ((wordAt p 2).toNat + 1) 2)
    some (s.writeRec (s.hotRec (a % 2 ^ 24)) 64 (putBits r 303 256 (now % 2 ^ 48)))
  else if s.memTop < a + 128 then some s
  else if s.stopped a then none
  else some (((List.range 16).foldl (fun s k =>
      let s := s.setPhys (a + 8 * k) (wordAt p (k + 1))
      if (wordAt p 17).getLsbD k then s.setPoison (a + 8 * k) else s) (s.purgeLine (a / 128))).answer p 0x09 [])

/-- What an answer does to a page move: it gives the status of one asked for, and says that a line has arrived. -/
def MoveOp.told (m : MoveOp) (name : Nat) (ws : List Word) : MoveOp :=
  if m.req = some name ∧ m.status.isNone then { m with status := some ((ws.headD 0).toNat % 16) }
  else if m.flying = some name then { m with flying := none, next := m.next + 1 }
  else m

/-- The requests of this package once the answer to one has arrived; that to the taking back of an LDFE says whether it still
waited, and then nothing is left of it (R207). -/
def fwdsAfter (l : List Fwd) (name : Nat) (ws : List Word) : List Fwd :=
  match (l.find? (fun f => f.id == name)).bind (·.drop) with
  | some n => l.filter (fun f => f.id != name && !(ws.headD 0 == 1 && f.id == n))
  | none => l.map (fun f => if f.id = name && !f.lost && f.resp.isNone then { f with resp := some ws } else f)

/-- The answer to a forwarded request arrives; a late one is discarded (R414). -/
def State.answered (s : State) (name : Nat) (ws : List Word) : State :=
  { s with
    net := { s.net with fwds := fwdsAfter s.net.fwds name ws }
    moves := s.moves.map (fun m => m.told name ws) }

/-- The acknowledgement of a store at another package (R117): it leaves the counter of its task. -/
def State.storeAcked (s : State) (name : Nat) : State :=
  match s.rstores.find? (fun r => r.req == some name) with
  | none => s
  | some r => (({ s with rstores := s.rstores.filter (fun q => q.req != some name) } : State).ackTask r.cx r.uid 1).finishDying r.cx r.uid

/-! ## Migration: the destination (R126, R311, R435) -/

/-- Free contexts of a stream processor. -/
def StreamProc.room (p : StreamProc) : Nat := 4096 - (p.ctxs.filter (fun c => c.2.state != .free)).length - p.inn.length

/-- The cluster in service with the most free contexts, ties going to the lower index. -/
def State.mostRoom (s : State) : Option Nat :=
  (List.range 16).foldl (fun (b : Option Nat) c =>
    let n := (s.cluster c).streams.room
    if !(s.cluster c).inService || n == 0 then b
    else match b with
      | none => some c
      | some d => if (s.cluster d).streams.room < n then some c else some d) none

/-- A stream context from its image (R296). -/
def imageCtx (ws : List Word) (id : BitVec 32) (gen : BitVec 16) : StreamCtx :=
  let n := ws.foldr (fun (w : Word) (x : Nat) => w.toNat + x * 2 ^ 64) 0
  { id := id, gen := gen, state := .idle, ident := BitVec.ofNat 24 (bits n 479 456), prio := BitVec.ofNat 2 (bits n 452 451)
    aqn := BitVec.ofNat 4 (bits n 450 447), qb := BitVec.ofNat 37 (bits n 446 410), hz := BitVec.ofNat 32 (bits n 319 288)
    p := BitVec.ofNat 16 (bits n 255 240), l := BitVec.ofNat 16 (bits n 239 224), qhead := BitVec.ofNat 32 (bits n 223 192)
    qtail := BitVec.ofNat 32 (bits n 191 160) }

/-- Cluster and entry of the migration that a snapshot packet belongs to; a SOPEN meets an earlier one of the same source. -/
def State.innOf (s : State) (p : Packet) : Option (Nat × MigDst) :=
  (List.range 16).findSome? (fun cl => ((s.cluster cl).streams.inn.find? (fun m => m.pkg == p.spkg && m.agent == p.sagt && (p.op == 0x10 || m.name == p.name))).map (fun m => (cl, m)))

/-- Replace the entry of a migration. -/
def State.putInn (s : State) (cl : Nat) (m : MigDst) : State :=
  s.modStreams cl (fun p => { p with inn := p.inn.map (fun q => if q.slot = m.slot then m else q) })

/-- Free what the destination of a migration holds: its frames, and its context. -/
def State.dropInn (s : State) (cl : Nat) (m : MigDst) : State :=
  let s := m.pages.foldl (fun s q => (s.setRef q.2 0 0).pushFrame cl true q.2) s
  let s := m.nodes.foldl (fun s q => (s.setRef q.2 0 0).pushFrame cl false q.2) s
  s.modStreams cl (fun p => { p with inn := p.inn.filter (fun q => q.slot != m.slot) })

/-- SOPEN: a context is allocated, or none is free. An earlier transfer of the same source that it has given up is dropped. -/
def State.takeOpen (s : State) (p : Packet) : State :=
  let s := match s.innOf p with
    | some (cl, m) => s.dropInn cl m
    | none => s
  let no : Packet := { cls := 2, dpkg := p.spkg, spkg := s.sys.self, dagt := p.sagt, sagt := p.dagt, idn := p.idn, op := 0x12, name := p.name }
  match s.mostRoom with
  | none => s.sendPacket no
  | some cl =>
    match (s.cluster cl).streams.freeSlot with
    | none => s.sendPacket no
    | some k =>
      let gen := nextGen (s.streamCtx cl k).gen
      let id := streamId cl k gen
      let m : MigDst := { slot := k, pkg := p.spkg, agent := p.sagt, name := p.name, ctx := imageCtx p.payload id gen }
      let free : StreamCtx := { gen := gen }
      (s.modStreams cl (fun q => { q with ctxs := aset q.ctxs k free, inn := m :: q.inn })).sendPacket
        { no with op := 0x11, payload := [id.setWidth 64] }

/-- Is a stack stopped for new memory-core firmware: the transfer of a stream waits (R384)? -/
def State.memBusy (s : State) : Bool := !s.boot.stackStop.isEmpty

/-- SNODE: part of a node, in a node frame taken at its first part; none while the node ring is empty. -/
def State.takeNode (s : State) (p : Packet) : Option State :=
  match s.innOf p with
  | none => some s
  | some (cl, m) =>
    if s.memBusy then none
    else
    let n := Wbits (wordAt p 0) 31 16
    let put (s : State) (a : Nat) : State :=
      s.setPhysWords (a + 128 * Wbits (wordAt p 0) 4 0) ((p.payload.drop 1).take 16)
    match aget m.nodes n with
    | some a => some (put s a)
    | none =>
      match s.freshNode cl with
      | none => none
      | some (a, s) => some ((put s a).putInn cl { m with nodes := aset m.nodes n a })

/-- SLINE: a line of a page, in a page frame taken at its first line, with the page's tag; none while the page ring is empty. -/
def State.takeLine_ (s : State) (p : Packet) : Option State :=
  match s.innOf p with
  | none => some s
  | some (cl, m) =>
    if s.memBusy then none
    else
    let k := Wbits (wordAt p 0) 17 0
    let put (s : State) (a : Nat) : State :=
      let b := a + 128 * Wbits (wordAt p 0) 28 20
      (List.range 16).foldl (fun s i =>
        let s := s.setPhys (b + 8 * i) (wordAt p (i + 1))
        if (wordAt p 17).getLsbD i then s.setPoison (b + 8 * i) else s) s
    match aget m.pages k with
    | some a => some (put s a)
    | none =>
      match s.popFrame cl true with
      | none => none
      | some (a, s) => some ((put (s.setRef a (Wbits (wordAt p 0) 63 44) 1) a).putInn cl { m with pages := aset m.pages k a })

/-- Point the valid entries of a received node at the frames taken here: f gives the frame of entry i. -/
def State.repoint (s : State) (node : Nat) (f : Nat → Word → Word) : State :=
  (List.range 512).foldl (fun s i =>
    let e := s.phys (node + 8 * i)
    if e.getLsbD 0 then s.setPhys (node + 8 * i) (f i e) else s) s

/-- Positions of the valid entries of a node. -/
def State.validAt (s : State) (node : Nat) : List Nat := (List.range 512).filter (fun i => (s.phys (node + 8 * i)).getLsbD 0)

/-- The tree as it stands here: node 0 is the root, node k + 1 the leaf node of its k-th valid entry; a leaf entry takes the
tag that came with its page. -/
def State.buildTree (s : State) (m : MigDst) : State :=
  match aget m.nodes 0 with
  | none => s
  | some root =>
    let tops := s.validAt root
    let s := s.repoint root (fun i _ => wordOfNat ((aget m.nodes (tops.idxOf i + 1)).getD 0 + 1))
    (List.range tops.length).foldl (fun s k =>
      match aget m.nodes (k + 1) with
      | none => s
      | some leaf => s.repoint leaf (fun j e =>
        let a := (aget m.pages (tops.getD k 0 * 512 + j)).getD 0
        (e &&& 0xFFFF) ||| wordOfNat (a + s.refTag a * 2 ^ 44))) s

/-- SDONE: the tree is installed, and the destination acknowledges. -/
def State.takeDone (s : State) (p : Packet) : State :=
  match s.innOf p with
  | none => s
  | some (cl, m) =>
    ((s.buildTree m).putInn cl { m with installed := true, since := s.cycle, ctx := { m.ctx with root := (aget m.nodes 0).getD 0 } }).answer p 0x09 []

/-- SDROP: the stream becomes live here. -/
def State.takeDrop (s : State) (p : Packet) : State :=
  match s.innOf p with
  | none => s
  | some (cl, m) =>
    if m.installed then
      s.modStreams cl (fun q => { q with ctxs := aset q.ctxs m.slot m.ctx, inn := q.inn.filter (fun x => x.slot != m.slot) })
    else s

/-! ## Migration: the source -/

/-- Cluster and entry of the migration that an answer belongs to, by its name: one that comes late meets none (R435). -/
def State.outOf (s : State) (p : Packet) : Option (Nat × MigSrc) :=
  let cl := p.dagt - 0x4A0
  if p.dagt < 0x4A0 ∨ 0x4B0 ≤ p.dagt then none
  else ((s.cluster cl).streams.out.find? (fun m => m.pkg == p.spkg && m.name == p.name)).map (fun m => (cl, m))

/-- End a migration at its source: the stream is IDLE again. -/
def State.endOut (s : State) (cl : Nat) (m : MigSrc) (state : StreamState) : State :=
  (s.modStreams cl (fun p => { p with out := p.out.filter (fun q => q.slot != m.slot) })).modStream cl m.slot (fun t => { t with state := state })

/-- SREF: refused. -/
def State.takeRef (s : State) (p : Packet) : State :=
  match s.outOf p with
  | none => s
  | some (cl, m) => if m.accepted then s else (s.endOut cl m .idle).engResolve m.rights.cx m.handle 0x4000000000000000

/-- Send the 32 parts of a node. -/
def State.sendNode (s : State) (send : State → Nat → List Word → State) (idx node : Nat) : State :=
  (List.range 32).foldl (fun s q => send s 0x13 (wordOfNat (idx * 2 ^ 16 + q) :: memWords s.mem 16 (node + 128 * q))) s

/-- Send the 512 lines of a page, with its tag and its poison. -/
def State.sendPage (s : State) (send : State → Nat → List Word → State) (num : Nat) (e : Word) : State :=
  (List.range 512).foldl (fun s q =>
    let a := pageFrame e + 128 * q
    send s 0x14 (wordOfNat (Wbits e 63 44 * 2 ^ 44 + q * 2 ^ 20 + num) :: memWords s.mem 16 a ++ [wordOfNat (s.poisonBits a)])) s

/-- The first entry of a stream's tree that cannot be read, with its node (R432). -/
def State.badTree (s : State) (root : Nat) : Option (Nat × Nat) :=
  (root :: (s.nodeEntries root).map leafFrame).findSome? (fun n => (s.badEntry n).map (fun a => (a, n)))

/-- SACC: the tree, every page, and SDONE are sent. A damaged node breaks the stream. -/
def State.takeAcc (s : State) (p : Packet) : State :=
  match s.outOf p with
  | none => s
  | some (cl, m) =>
    if m.accepted then s
    else
      let t := s.streamCtx cl m.slot
      let s := s.flush (fun r => decide (r.key < windowBase))
      match s.badTree t.root with
      | some (a, n) =>
        (((s.freeze n).breakStream cl m.slot a).modStreams cl (fun p => { p with out := p.out.filter (fun q => q.slot != m.slot) })).engFail
          m.rights.cx 9 cl m.rights.ident m.handle (failureWord 0x4 0x30 t.id.toNat)
      | none =>
        let send (s : State) (op : Nat) (ws : List Word) : State := s.sendSnap cl m t.ident op ws
        let tops := s.validAt t.root
        let leaves := (s.nodeEntries t.root).map leafFrame
        let s := (List.range (leaves.length + 1)).foldl (fun s k => s.sendNode send k ((t.root :: leaves).getD k 0)) s
        let s := (List.range leaves.length).foldl (fun s k =>
          let n := leaves.getD k 0
          (s.validAt n).foldl (fun s j => s.sendPage send (tops.getD k 0 * 512 + j) (s.phys (n + 8 * j))) s) s
        let s := send s 0x15 []
        s.modStreams cl (fun q => { q with
          out := q.out.map (fun x => if x.slot = m.slot then { x with accepted := true, newId := (wordAt p 0).setWidth 32, sent := s.cycle } else x) })

/-- ACK: of a store, of a forwarded operation, or of an installed stream. -/
def State.takeAck (s : State) (p : Packet) : State :=
  match s.outOf p with
  | some (cl, m) => if m.accepted && !m.acked then s.moveAcked cl m else s
  | none => (s.answered p.name []).storeAcked p.name

/-! ## Delivery (R111, R121) -/

/-- Deliver a packet; none while it cannot be taken. -/
def State.deliver (s : State) (p : Packet) : Option State :=
  if malformed p then some (s.discardPacket p)
  else match p.op with
    | 0x01 => s.ownRead p
    | 0x02 => s.ownWrite p
    | 0x03 => s.ownMerge p
    | 0x04 => s.takeAtom p
    | 0x05 => s.takeHot p
    | 0x06 => s.takeMove p
    | 0x08 => some (s.answered p.name p.payload)
    | 0x09 => some (s.takeAck p)
    | 0x10 => some (s.takeOpen p)
    | 0x11 => if s.memBusy then none else some (s.takeAcc p)
    | 0x12 => some (s.takeRef p)
    | 0x13 => s.takeNode p
    | 0x14 => s.takeLine_ p
    | 0x15 => if s.memBusy then none else some (s.takeDone p)
    | 0x16 => some (s.takeDrop p)
    | _ => none

/-- Source of a packet's flow: the package that numbered it, and the agent. -/
def flowSrc (p : Packet) : Nat := p.via.getD p.spkg * 2 ^ 11 + p.sagt

/-- Does a packet belong to a flow? -/
def Flow.has (f : Flow) (p : Packet) : Bool := f.src == flowSrc p && f.agent == p.dagt && f.cls == p.cls

/-- The receiver's record of a packet's flow. -/
def State.flowOf (s : State) (p : Packet) : Flow :=
  (s.net.recv.find? (fun f => f.has p)).getD { src := flowSrc p, agent := p.dagt, cls := p.cls }

/-- Replace the record of a packet's flow. -/
def State.putFlow (s : State) (p : Packet) (g : Flow) : State :=
  { s with net := { s.net with recv := g :: s.net.recv.filter (fun f => !f.has p) } }

/-- The packet is delivered: the flow goes on to the next number. -/
def State.flowOn (s : State) (p : Packet) : State :=
  let f := s.flowOf p
  s.putFlow p { f with next := f.next + 1, held := f.held.filter (fun q => q.seq != p.seq) }

/-- Deliver the packets held behind one that has been delivered, in order, at most n. -/
def drainFlow (p : Packet) : Nat → State → State
  | 0, s => s
  | n + 1, s =>
    match (s.flowOf p).held.find? (fun q => q.seq == (s.flowOf p).next.toNat) with
    | none => s
    | some q =>
      match s.deliver q with
      | none => s
      | some t => drainFlow p n (t.flowOn q)

/-- A packet of a flow arrives: delivered at its turn, else held; numbers already delivered do not come again. -/
def State.inFlow (s : State) (p : Packet) : Option State :=
  let f := s.flowOf p
  let ahead := (BitVec.ofNat 16 p.seq - f.next).toNat
  if ahead = 0 then (s.deliver p).map (fun t => drainFlow p f.held.length (t.flowOn p))
  else if ahead < 2 ^ 15 ∧ f.held.all (fun q => q.seq != p.seq) then some (s.putFlow p { f with held := f.held ++ [p] })
  else none

/-- A packet on its way to another package passes this one's router: its route stays, its second phase begins at its
intermediate, and it leaves on a quarter-link, that of the die on which it came where it serves (R119, R122, R123). -/
def State.passOn (s : State) (p : Packet) : State :=
  let p := if p.ph && p.ipkg == s.sys.self then { p with ph := false, along := none } else p
  match s.wayOn p with
  | none => s
  | some link => s.leaveOn link (p.lane % 4) p

/-- A packet with the OP of a row arrives. A malformed one may come in any row's place, since it has none of its own. One for this
package goes from the die of its quarter-link to the die of its agent (R119). -/
def State.packetIn (s : State) (op : Nat) (p : Packet) : Option State :=
  if !s.alive || p.spkg == s.sys.self || !s.knows p.spkg then none
  else if p.op ≠ op && !malformed p then none
  else if p.dpkg ≠ s.sys.self ∨ (p.ph = true ∧ p.ipkg ≠ s.sys.self) then some (s.passOn p)
  else
    let s := s.dieHop (p.lane % 4) (dieOfAgent p.dagt % 4) (1 + p.len)
    if malformed p then (if p.cls = 1 then some (s.discardPacket p) else s.inFlow p)
    else match opForm p.op with
      | some (c, _) => if p.cls ≠ c then none else if c = 1 then s.deliver p else s.inFlow p
      | none => none

/-- RDLINE arrives (R96, R120). -/
def execRdline (s : State) : Result := s.event (fun x s => s.packetIn 0x01 x.pkt)
/-- WRLINE arrives (R96, R120). -/
def execWrline (s : State) : Result := s.event (fun x s => s.packetIn 0x02 x.pkt)
/-- MERGE arrives (R96, R120). -/
def execMerge (s : State) : Result := s.event (fun x s => s.packetIn 0x03 x.pkt)
/-- ATOM arrives, or an LDFE request that waited at its granule is performed (R77, R96). -/
def execAtom (s : State) : Result :=
  s.event (fun x s =>
    match s.ldfes.find? (fun e => e.req == some x.pkt) with
    | none => s.packetIn 0x04 x.pkt
    | some e => s.ldfeAnswer x.pkt e)
/-- HOTINC arrives (R98). -/
def execHotinc (s : State) : Result := s.event (fun x s => s.packetIn 0x05 x.pkt)
/-- MVLINE arrives (R100). -/
def execMvline (s : State) : Result := s.event (fun x s => s.packetIn 0x06 x.pkt)
/-- DATA arrives (R96, R120). -/
def execData (s : State) : Result := s.event (fun x s => s.packetIn 0x08 x.pkt)
/-- ACK arrives (R117, R120). -/
def execAck (s : State) : Result := s.event (fun x s => s.packetIn 0x09 x.pkt)
/-- SOPEN arrives (R126, R311). -/
def execSopen (s : State) : Result := s.event (fun x s => s.packetIn 0x10 x.pkt)
/-- SACC arrives (R126). -/
def execSacc (s : State) : Result := s.event (fun x s => s.packetIn 0x11 x.pkt)
/-- SREF arrives (R311). -/
def execSref (s : State) : Result := s.event (fun x s => s.packetIn 0x12 x.pkt)
/-- SNODE arrives (R126). -/
def execSnode (s : State) : Result := s.event (fun x s => s.packetIn 0x13 x.pkt)
/-- SLINE arrives (R126). -/
def execSline (s : State) : Result := s.event (fun x s => s.packetIn 0x14 x.pkt)
/-- SDONE arrives (R126). -/
def execSdone (s : State) : Result := s.event (fun x s => s.packetIn 0x15 x.pkt)
/-- SDROP arrives (R435). -/
def execSdrop (s : State) : Result := s.event (fun x s => s.packetIn 0x16 x.pkt)

/-! ## Owners lost (R386, R414, R435) -/

/-- The record of a request that is ended (R414). -/
def State.lostRec (s : State) (cx key : Nat) (addr : Word) : State :=
  (s.logRec 0x27 (if isMemCtx cx then 1 else 0) (if isMemCtx cx then memCoreOf cx else cx % 8192) 0 (wordOfNat key) addr).notifyCtx cx

/-- End a forwarded request: its data is poisoned, or it is not performed. One that takes back another ends alone. -/
def State.loseFwd (s : State) (f : Fwd) : State :=
  if f.drop.isSome then { s with net := { s.net with fwds := s.net.fwds.filter (fun g => g.id != f.id) } }
  else ({ s with net := { s.net with fwds := s.net.fwds.map (fun g => if g.id = f.id then { g with lost := true } else g) } } : State).lostRec f.cx f.line 0

/-- End a store at another package: not performed, and its counter falls. -/
def State.loseRemote (s : State) (r : RStore) : State :=
  ({ s with rstores := s.rstores.filter (fun q => q.req != r.req) } : State).loseStore r

/-- End a move whose owner does not answer (log 25). -/
def State.loseMove (s : State) (m : MoveOp) : State :=
  let s : State := { s with moves := s.moves.filter (fun q => q.handle != m.handle || q.req != m.req) }
  (s.engFail m.rights.cx 2 0 m.rights.ident m.handle (failureWord 0x8 0x12 (faultField 0 m.va))).lostRec m.rights.cx 0 m.va

/-- Has a request had no answer for 2^24 cycles? -/
def State.overdue (s : State) (sent : Nat) : Bool := decide (sent + 2 ^ 24 ≤ s.cycle)

/-- A move to a package that has left, or that does not answer: the lines already moved are lost, and the source frame becomes
a stub (R414). -/
def State.stubMove (s : State) (m : MoveOp) : State :=
  let s := s.writeRec (s.hotRec m.frame) 64 (stubRec m.dpkg m.dframe)
  let s : State := { s with moves := s.moves.map (fun q =>
    if q.handle = m.handle && q.frame = m.frame && q.begun then { q with begun := false, flying := none, status := some 0 } else q) }
  s.lostRec m.rights.cx (m.frame * 2 ^ 16) m.va

/-- OWNER_LOST_TIMEOUT of the request at place i of the forwarded requests (j = 0), of the stores at other packages (j = 1), or
of the page moves (j = 2): one asked of another package, or one whose line in transit is not acknowledged. -/
def execOwnerLostTimeout (s : State) : Result :=
  s.event (fun x s =>
    match x.j with
    | 0 => match s.net.fwds[x.i]? with
      | some f => if f.resp.isNone && !f.lost && s.overdue f.sent then some (s.loseFwd f) else none
      | none => none
    | 1 => match s.rstores[x.i]? with
      | some r => if r.req.isSome && s.overdue r.sent then some (s.loseRemote r) else none
      | none => none
    | _ => match s.moves[x.i]? with
      | some m =>
        if m.status.isSome || !s.overdue m.sent then none
        else if m.req.isSome then some (s.loseMove m)
        else if m.begun && m.flying.isSome then some (s.stubMove m)
        else none
      | none => none)

/-- A migration ends without transfer: the stream is IDLE again, with a record, and SMIG fails (R435). -/
def State.loseOut (s : State) (cl : Nat) (m : MigSrc) : State :=
  let t := s.streamCtx cl m.slot
  let s := ((s.endOut cl m .idle).logRec 0x2F 9 cl t.ident 0 (t.id.setWidth 64)).notify cl
  s.engFail m.rights.cx 9 cl m.rights.ident m.handle (failureWord 0x4 0x31 t.id.toNat)

/-- The destination's copy is given up (R435). -/
def State.loseInn (s : State) (cl : Nat) (m : MigDst) : State :=
  ((s.dropInn cl m).logRec 0x2F 9 cl m.ctx.ident 0 (m.ctx.id.setWidth 64)).notify cl

/-- SMIG_SOURCE_TIMEOUT in cluster i of the migration at place j. -/
def execSmigSourceTimeout (s : State) : Result :=
  s.event (fun x s =>
    match (s.cluster x.i).streams.out[x.j]? with
    | some m => if s.overdue m.sent && !m.acked then some (s.loseOut (x.i % 16) m) else none
    | none => none)

/-- SMIG_DEST_TIMEOUT in cluster i of the migration at place j. -/
def execSmigDestTimeout (s : State) : Result :=
  s.event (fun x s =>
    match (s.cluster x.i).streams.inn[x.j]? with
    | some m => if m.installed && s.overdue m.since then some (s.loseInn (x.i % 16) m) else none
    | none => none)

/-- PACKAGE_LEAVE of package i (R386, R414, R435). -/
def execPackageLeave (s : State) : Result :=
  s.event (fun x s =>
    let g := x.i
    if g = s.sys.self ∨ (aget s.sys.others g).isNone then none
    else
      let s : State := { s with
        sys := { s.sys with others := adel s.sys.others g, gone := aset s.sys.gone g ((aget s.sys.others g).getD (0, 0, 0)) }
        caches := { s.caches with tlbs := s.caches.tlbs.map (fun (t : Nat × List TlbEntry) => (t.1, t.2.filter (fun e => e.own != g))) }
        ldfes := s.ldfes.filter (fun e => match e.req with | some p => p.spkg != g | none => true)
        net := { s.net with
          sent := s.net.sent.filter (fun f => f.dst != g)
          recv := s.net.recv.filter (fun f => f.src / 2 ^ 11 != g)
          back := s.net.back.filter (fun p => p.dpkg != g)
          gone := s.net.gone.filter (fun p => p.dpkg != g) } }
      let s := (s.net.fwds.filter (fun f => f.own == g && f.resp.isNone && !f.lost)).foldl State.loseFwd s
      let s := (s.rstores.filter (fun r => r.req.isSome && decide (0x100000 ≤ r.dst) && (r.dst - 0x100000) / 2048 == g)).foldl State.loseRemote s
      let s := (s.moves.filter (fun m => m.req.isSome && m.status.isNone && m.own == g)).foldl State.loseMove s
      let s := (s.moves.filter (fun m => m.begun && m.dpkg == g && m.status.isNone)).foldl State.stubMove s
      some (((List.range 16).foldl (fun s cl =>
        let s := ((s.cluster cl).streams.out.filter (fun m => m.pkg == g)).foldl (fun s m => s.loseOut cl m) s
        ((s.cluster cl).streams.inn.filter (fun m => m.pkg == g && !m.installed)).foldl (fun s m => s.loseInn cl m) s) s).rescope))

end Sys2Proof.Machine
end

