-- ==== Sys2Proof/Machine/Scalar.lean ====
section
/-!
DEFINITION. Integer, bit-field and bit-address instructions of pages 0 to 3 (R179 to R188).
-/

namespace Sys2Proof.Machine

/-! ## Functions -/

/-- Signed comparison (R178). -/
def sltW (x y : Word) : Bool := decide (x.toInt < y.toInt)

/-- Unsigned comparison. -/
def ultW (x y : Word) : Bool := decide (x.toNat < y.toNat)

/-- floor(i(x) × i(y) / 2^64) (R179). -/
def mulhW (x y : Word) : Word := wordOfInt (Int.fdiv (x.toInt * y.toInt) (2 ^ 64))

/-- floor(n(x) × n(y) / 2^64) (R179). -/
def mulhnW (x y : Word) : Word := wordOfNat (x.toNat * y.toNat / 2 ^ 64)

/-- A 64-bit code with flags as a word with flags. -/
def asWord (p : Nat × Flags) : Word × Flags := (wordOfNat p.1, p.2)

/-- Shift counts are taken modulo 64 (R179). -/
def shAmt (y : Word) : Nat := y.toNat % 64

/-- Rotate right (R179). -/
def rorW (x : Word) (n : Nat) : Word := (x >>> n) ||| (x <<< ((64 - n) % 64))

/-- Count of leading zero bits; 64 for 0 (R181). -/
def clzW (x : Word) : Nat := if x = 0 then 64 else 63 - Nat.log2 x.toNat

/-- Count of trailing zero bits; 64 for 0. -/
def ctzW (x : Word) : Nat := ((List.range 64).find? (fun i => x.getLsbD i)).getD 64

/-- Count of one bits. -/
def popcW (x : Word) : Nat := (List.range 64).foldl (fun n i => n + b2n (x.getLsbD i)) 0

/-- Bit i of the result is bit 63 − i of x. -/
def brevW (x : Word) : Word := wordOfNat (bitsWhere 64 (fun i => x.getLsbD (63 - i)))

/-- Absolute value, wrapping (R181). -/
def absW (x : Word) : Word := if x.getLsbD 63 then -x else x

/-- Positions of the one bits, ascending. -/
def onesOf (m : Word) : List Nat := (List.range 64).filter (fun i => m.getLsbD i)

/-- Pack the bits of x at the positions set in m into the low bits (R182). -/
def bextW (x m : Word) : Word := wordOfNat (bitsWhere (onesOf m).length (fun k => x.getLsbD ((onesOf m).getD k 64)))

/-- Place the low bits of x at the positions set in m (R182). -/
def bdepW (x m : Word) : Word := wordOfNat (((onesOf m).zipIdx).foldl (fun n p => if x.getLsbD p.2 then n + 2 ^ p.1 else n) 0)

/-- sext(x, w) and zext(x, w) of the low w bits. -/
def sextW (x : Word) (w : Nat) : Word := wordOfInt (sextN x.toNat w)
def zextW (x : Word) (w : Nat) : Word := wordOfNat (x.toNat % 2 ^ w)

/-- LIH: the immediate above the low half of d (R180). -/
def lihW (d imm : Word) : Word := wordOfNat (Wbits imm 31 0 * 2 ^ 32 + Wbits d 31 0)

/-- Width k of wfmt, at most 64 (R183). -/
def fwOf (wfmt : Word) (k : Nat) : Nat := min (Wbits wfmt (7 * k + 6) (7 * k)) 64

/-- Field j of a work identifier (R183). -/
def wfldW (wfmt src : Word) (j : Nat) : Word :=
  let o := (List.range j).foldl (fun n k => n + fwOf wfmt k) 0
  let w := fwOf wfmt j
  if w = 0 ∨ 63 < o then 0 else wordOfNat (Wbits src (min (o + w) 64 - 1) o)

/-- Is n a power of two? -/
def isPow2 (n : Nat) : Bool := n != 0 && n == 2 ^ Nat.log2 n

/-- The result word of BCHK (R185). -/
def bchkW (x : Word) (w : Nat) : Word :=
  let spc := if x.getLsbD 63 then 2 else if x.getLsbD 62 then 1 else 0
  let nat := isPow2 w && x.toNat % w == 0
  let sg := decide (w ≤ 64) && decide (x.toNat % 64 + w ≤ 64)
  wordOfNat (spc * 4 + b2n nat * 2 + b2n sg)

/-- The local-window address of a selector and an offset (R187). -/
def bmklW (q ofs : Word) : Word :=
  let core := if q.getLsbD 13 then Wbits q 9 0 / 64 * 64 else Wbits q 9 0
  wordOfNat (2 ^ 63 + Wbits q 12 10 * 2 ^ 60 + Wbits q 25 14 * 2 ^ 48 + core * 2 ^ 38 + Wbits q 13 13 * 2 ^ 37
    + Wbits q 26 26 * 2 ^ 36 + Wbits ofs 22 0)

/-- BCORE's result for an address (R188). -/
def State.bcoreW (s : State) (x : Word) (f : Nat) : Word :=
  if !x.getLsbD 63 then 0xFFFFFFFFFFFFFFFF
  else match s.placeWin x with
    | none => 0xFFFFFFFFFFFFFFFF
    | some p => wordOfNat (match f with | 0 => p.core | 1 => p.inc | 2 => p.pkg | _ => p.win)

/-- The bits of a window address that BPLC keeps: all but the core, PLC and OFS fields. -/
def keepPlace (x : Word) : Nat := x.toNat / 2 ^ 48 * 2 ^ 48 + Wbits x 36 36 * 2 ^ 36

/-- BPLC's result for an address (R188). -/
def State.bplcW (s : State) (x : Word) (f : Nat) : Word :=
  if !x.getLsbD 63 then 0xFFFFFFFFFFFFFFFF
  else match s.placeWin x with
    | none => 0xFFFFFFFFFFFFFFFF
    | some p =>
      if f = 0 then (if x.getLsbD 37 then wordOfNat (keepPlace x + p.core * 2 ^ 38 + p.inc) else x)
      else if x.getLsbD 37 then x
      else if p.win = 3 then 0xFFFFFFFFFFFFFFFF
      else match interleaved p.core p.inc with
        | none => 0xFFFFFFFFFFFFFFFF
        | some o => wordOfNat (keepPlace x + p.core / 64 * 2 ^ 44 + 2 ^ 37 + o)

/-! ## Register and register (R179) -/

/-- ADD (R179). -/
def execAdd (o : Ops) (s : State) : Result := alu2 o (fun x y => x + y) s

/-- SUB (R179). -/
def execSub (o : Ops) (s : State) : Result := alu2 o (fun x y => x - y) s

/-- AND (R179). -/
def execAnd (o : Ops) (s : State) : Result := alu2 o (fun x y => x &&& y) s

/-- OR (R179). -/
def execOr (o : Ops) (s : State) : Result := alu2 o (fun x y => x ||| y) s

/-- XOR (R179). -/
def execXor (o : Ops) (s : State) : Result := alu2 o (fun x y => x ^^^ y) s

/-- MUL (R179). -/
def execMul (o : Ops) (s : State) : Result := alu2 o (fun x y => x * y) s

/-- MULH (R179). -/
def execMulh (o : Ops) (s : State) : Result := alu2 o (fun x y => mulhW x y) s

/-- MULHN (R179). -/
def execMulhn (o : Ops) (s : State) : Result := alu2 o (fun x y => mulhnW x y) s

/-- DIV (R130, R179). -/
def execDiv (o : Ops) (s : State) : Result := alu2Flags o (fun x y => asWord (intDiv true false 64 x.toNat y.toNat)) s

/-- DIVN (R130, R179). -/
def execDivn (o : Ops) (s : State) : Result := alu2Flags o (fun x y => asWord (intDiv false false 64 x.toNat y.toNat)) s

/-- REM (R130, R179). -/
def execRem (o : Ops) (s : State) : Result := alu2Flags o (fun x y => asWord (intRem true 64 x.toNat y.toNat)) s

/-- REMN (R130, R179). -/
def execRemn (o : Ops) (s : State) : Result := alu2Flags o (fun x y => asWord (intRem false 64 x.toNat y.toNat)) s

/-- MIN (R179). -/
def execMin (o : Ops) (s : State) : Result := alu2 o (fun x y => if sltW y x then y else x) s

/-- MAX (R179). -/
def execMax (o : Ops) (s : State) : Result := alu2 o (fun x y => if sltW x y then y else x) s

/-- MINN (R179). -/
def execMinn (o : Ops) (s : State) : Result := alu2 o (fun x y => if ultW y x then y else x) s

/-- MAXN (R179). -/
def execMaxn (o : Ops) (s : State) : Result := alu2 o (fun x y => if ultW x y then y else x) s

/-- SLL (R179). -/
def execSll (o : Ops) (s : State) : Result := alu2 o (fun x y => x <<< shAmt y) s

/-- SRL (R179). -/
def execSrl (o : Ops) (s : State) : Result := alu2 o (fun x y => x >>> shAmt y) s

/-- SRA (R179). -/
def execSra (o : Ops) (s : State) : Result := alu2 o (fun x y => x.sshiftRight (shAmt y)) s

/-- ROR (R179). -/
def execRor (o : Ops) (s : State) : Result := alu2 o (fun x y => rorW x (shAmt y)) s

/-- SEQ (R179). -/
def execSeq (o : Ops) (s : State) : Result := alu2 o (fun x y => b2w (x == y)) s

/-- SNE (R179). -/
def execSne (o : Ops) (s : State) : Result := alu2 o (fun x y => b2w (x != y)) s

/-- SLT (R179). -/
def execSlt (o : Ops) (s : State) : Result := alu2 o (fun x y => b2w (sltW x y)) s

/-- SLTN (R179). -/
def execSltn (o : Ops) (s : State) : Result := alu2 o (fun x y => b2w (ultW x y)) s

/-! ## Immediate forms (R180) -/

/-- ADDI (R180). -/
def execAddi (o : Ops) (s : State) : Result := aluImm o (fun x i => x + i) s

/-- SLLI (R180). -/
def execSlli (o : Ops) (s : State) : Result := aluImm o (fun x i => x <<< i.toNat) s

/-- SRLI (R180). -/
def execSrli (o : Ops) (s : State) : Result := aluImm o (fun x i => x >>> i.toNat) s

/-- SRAI (R180). -/
def execSrai (o : Ops) (s : State) : Result := aluImm o (fun x i => x.sshiftRight i.toNat) s

/-- ANDI (R180). -/
def execAndi (o : Ops) (s : State) : Result := aluImm o (fun x i => x &&& i) s

/-- ORI (R180). -/
def execOri (o : Ops) (s : State) : Result := aluImm o (fun x i => x ||| i) s

/-- XORI (R180). -/
def execXori (o : Ops) (s : State) : Result := aluImm o (fun x i => x ^^^ i) s

/-- SLTI (R180). -/
def execSlti (o : Ops) (s : State) : Result := aluImm o (fun x i => b2w (sltW x i)) s

/-- LI (R180). -/
def execLi (o : Ops) (s : State) : Result := s.run anyMode [] (fun c s => .ok (s.onMe c (fun x => x.writeS o.d o.imm)))

/-- LIH (R180). -/
def execLih (o : Ops) (s : State) : Result := s.run anyMode [(o.d, false)] (fun c s => .ok (s.onMe c (fun x => x.writeS o.d (lihW (x.readS o.d) o.imm))))

/-! ## UN (R181) -/

/-- MOV (R181). -/
def execMov (o : Ops) (s : State) : Result := alu1 o (fun x => x) s

/-- NOT (R181). -/
def execNot (o : Ops) (s : State) : Result := alu1 o (fun x => ~~~x) s

/-- NEG (R181). -/
def execNeg (o : Ops) (s : State) : Result := alu1 o (fun x => -x) s

/-- ABS (R181). -/
def execAbs (o : Ops) (s : State) : Result := alu1 o (fun x => absW x) s

/-- CLZ (R181). -/
def execClz (o : Ops) (s : State) : Result := alu1 o (fun x => wordOfNat (clzW x)) s

/-- CTZ (R181). -/
def execCtz (o : Ops) (s : State) : Result := alu1 o (fun x => wordOfNat (ctzW x)) s

/-- POPC (R181). -/
def execPopc (o : Ops) (s : State) : Result := alu1 o (fun x => wordOfNat (popcW x)) s

/-- BREV (R181). -/
def execBrev (o : Ops) (s : State) : Result := alu1 o (fun x => brevW x) s

/-- NOP (R181). -/
def execNop (s : State) : Result := s.run anyMode [] (fun _ s => .ok s)

/-! ## Bit fields (R182, R183) -/

/-- SEXT (R182). -/
def execSext (o : Ops) (s : State) : Result := alu1 o (fun x => sextW x (widthOf o)) s

/-- ZEXT (R182). -/
def execZext (o : Ops) (s : State) : Result := alu1 o (fun x => zextW x (widthOf o)) s

/-- BEXT (R182). -/
def execBext (o : Ops) (s : State) : Result := alu2 o bextW s

/-- BDEP (R182). -/
def execBdep (o : Ops) (s : State) : Result := alu2 o bdepW s

/-- SEL (R182). -/
def execSel (o : Ops) (s : State) : Result := s.run anyMode (srcABC o) (fun c s => .ok (s.onMe c (fun x => x.writeS o.d (if x.readS o.c ≠ 0 then x.readS o.a else x.readS o.b))))

/-- WFLD (R183; a = 0 reads the CSR wid). -/
def execWfld (o : Ops) (s : State) : Result := s.run anyMode (srcA o) (fun c s => .ok (s.onMe c (fun x => x.writeS o.d (wfldW x.csrs.wfmt (if o.a = 0 then x.csrs.wid else x.readS o.a) o.f.toNat))))

/-! ## Bit addresses (R185 to R188) -/

/-- BADV (R185). -/
def execBadv (o : Ops) (s : State) : Result := aluAcc o (fun d x => d + x * wordOfNat (widthOf o)) s

/-- BRTV (R185). -/
def execBrtv (o : Ops) (s : State) : Result := aluAcc o (fun d x => d - x * wordOfNat (widthOf o)) s

/-- BDIFF (R185). -/
def execBdiff (o : Ops) (s : State) : Result := aluAcc o (fun d x => wordOfInt (Int.fdiv (d - x).toInt (widthOf o : Int))) s

/-- BALN (R185). -/
def execBaln (o : Ops) (s : State) : Result := alu1 o (fun x => x - wordOfNat (x.toNat % widthOf o)) s

/-- BCHK (R185). -/
def execBchk (o : Ops) (s : State) : Result := alu1 o (fun x => bchkW x (widthOf o)) s

/-- BY2B (R186). -/
def execBy2b (o : Ops) (s : State) : Result := alu1 o (fun x => x * 8) s

/-- BB2Y (R186). -/
def execBb2y (o : Ops) (s : State) : Result := alu1 o (fun x => wordOfNat (x.toNat / 8)) s

/-- ADDPC (R186). -/
def execAddpc (o : Ops) (s : State) : Result := s.run anyMode [] (fun c s => .ok (s.onMe c (fun x => x.writeS o.d (c.addr + 16 * o.imm))))

/-- BMKL (R187). -/
def execBmkl (o : Ops) (s : State) : Result := alu2 o bmklW s

/-- BCORE (R188). -/
def execBcore (o : Ops) (s : State) : Result := alu1 o (fun x => s.bcoreW x o.f.toNat) s

/-- BPLC (R188). -/
def execBplc (o : Ops) (s : State) : Result := alu1 o (fun x => s.bplcW x o.f.toNat) s

end Sys2Proof.Machine
end

