-- ==== Sys2Proof/Machine/Vector.lean ====
section
/-!
DEFINITION. Vector instructions, pages 9 to 11 (R225 to R250).
-/

namespace Sys2Proof.Machine

/-! ## The shape (R225 to R229) -/

/-- TYPE of vshape. -/
def Ctx.vtype (x : Ctx) : Nat := Wbits x.csrs.vshape 4 0

/-- Rows and columns of the tile. -/
def Ctx.vrows (x : Ctx) : Nat := Wbits x.csrs.vshape 11 6 + 1
def Ctx.vcols (x : Ctx) : Nat := if Wbits x.csrs.vshape 17 12 = 0 then 64 else Wbits x.csrs.vshape 17 12

/-- Lanes of the tile. -/
def Ctx.vlanes (x : Ctx) : Nat := x.vrows * x.vcols

/-- Type classes of R227. -/
def isFType (t : Nat) : Bool := decide (t ≤ 6)
def isIType (t : Nat) : Bool := decide (7 ≤ t) && decide (t ≤ 17)
def isNType (t : Nat) : Bool := decide (12 ≤ t) && decide (t ≤ 15)
def isFIType (t : Nat) : Bool := decide (t ≤ 17)

/-- Is an integer type signed? The n types are not. -/
def typeSigned (t : Nat) : Bool := !isNType t

/-- The format of a floating type. -/
def typeFmt (t : Nat) : Fmt := [fF32, fBF16, fF16, fE4M3, fE5M2, fE2M3, fE3M2].getD t fF32

/-- Is lane i active (R229)? -/
def Ctx.active (x : Ctx) (o : Ops) (i : Nat) : Bool :=
  decide (i < x.vlanes) && (o.mask == 0 || (x.readS o.mask).getLsbD i)

/-- Lane i of a register. -/
def vlane (v : BitVec 4096) (i : Nat) : Word := v.extractLsb' (64 * i) 64

/-- A register from its 64 lanes. -/
def packLanes : List Word → Nat
  | [] => 0
  | w :: ws => w.toNat + 2 ^ 64 * packLanes ws

/-- Element j of a lane of elements of w bits. -/
def laneElem (w : Nat) (l : Word) (j : Nat) : Nat := (l.toNat >>> (w * j)) % 2 ^ w

/-- Element k of a register of a type (R227). -/
def vElem (t : Nat) (v : BitVec 4096) (k : Nat) : Nat :=
  laneElem (typeWidth t) (vlane v (k / typeLane t)) (k % typeLane t)

/-- A lane from its elements, with zero padding. -/
def packElems (w : Nat) : List Nat → Nat
  | [] => 0
  | e :: es => e % 2 ^ w + 2 ^ w * packElems w es

/-- A lane of a type from a function of the element number, with the flags it raises. -/
def laneOf (t : Nat) (f : Nat → Nat × Flags) : Word × Flags :=
  let rs := (List.range (typeLane t)).map f
  (wordOfNat (packElems (typeWidth t) (rs.map (·.1))), rs.foldl (fun g r => g ||| r.2) 0)

/-- Write V[d]: active lanes from f, with flags; the others zeroed or left alone (R229, R230). -/
def Ctx.writeLanes (x : Ctx) (o : Ops) (act : Nat → Bool) (f : Nat → Word × Flags) : Ctx :=
  let rs := (List.range 64).map (fun i => if act i then f i else (if o.zm then 0 else vlane (x.readV o.d) i, 0))
  (x.orFlags (rs.foldl (fun g r => g ||| r.2) 0)).writeV o.d (BitVec.ofNat 4096 (packLanes (rs.map (·.1))))

/-- The mask register as a source (R170). -/
def srcMask (o : Ops) : List (BitVec 6 × Bool) := if o.mask = 0 then [] else [(o.mask, false)]

/-- An instruction that needs vshape.TYPE in a class (R231, R403). -/
def inTypes (p : Nat → Bool) : Cur → Ctx → Option Nat := fun _ x => if p x.vtype then none else some 7

/-- A vector instruction on registers alone: it completes with the context changed by f. -/
def vecRun (p : Nat → Bool) (srcs : List (BitVec 6 × Bool)) (f : Ctx → Ctx) (s : State) : Result :=
  s.run (inTypes p) srcs (fun c s => .ok (s.onMe c f))

/-- Any type. -/
def anyType : Nat → Bool := fun _ => true

/-- The rounding controls of an instruction; SAT where its entry takes it (R231). -/
def ctlOf (o : Ops) (sat : Bool) : Ctl :=
  { mode := modeOf o.rnd.toNat, sat := sat && o.sat, fzo := o.fzo, fzi := o.fzi }

/-! ## Element-wise arithmetic (R232 to R234, R246, R249) -/

/-- d := op of the elements of a, b and the addend, lane by lane (R232). -/
def vecElems (p : Nat → Bool) (o : Ops) (op : Nat → Nat → Nat → Nat → Nat × Flags) (s : State) : Result :=
  vecRun p (srcMask o) (fun x =>
    let t := x.vtype
    let w := typeWidth t
    let z := x.readV (o.e.setWidth 6)
    x.writeLanes o (x.active o) (fun i =>
      laneOf t (fun j => op t (laneElem w (vlane (x.readV o.a) i) j) (laneElem w (vlane (x.readV o.b) i) j)
        (laneElem w (vlane z i) j)))) s

/-- A floating result of numbers, rounded and delivered. -/
def fpOp (t : Nat) (k : Ctl) (r : Fv × Flags) : Nat × Flags :=
  let (c, g) := (typeFmt t).give k r.1
  (c, r.2 ||| g)

/-- Read an element of a floating type. -/
def fpIn (t : Nat) (k : Ctl) (c : Nat) : Fv := (typeFmt t).read k.fzi c

/-- An integer result, wrapped or clamped. -/
def intOp (t : Nat) (k : Ctl) (v : Int) : Nat × Flags := intCode (typeSigned t) k.sat (typeWidth t) v

/-- The value of an element of an integer type. -/
def intIn (t c : Nat) : Int := intVal (typeSigned t) (typeWidth t) c

/-- Element-wise arithmetic with a rule for numbers and one for integers. -/
def vecArith (o : Ops) (f : Mode → Fv → Fv → Fv → Fv × Flags) (g : Int → Int → Int → Int) (s : State) : Result :=
  let k := ctlOf o true
  vecElems isFIType o (fun t x y z =>
    if isFType t then fpOp t k (f k.mode (fpIn t k x) (fpIn t k y) (fpIn t k z))
    else intOp t k (g (intIn t x) (intIn t y) (intIn t z))) s

/-- VADD (R232). -/
def execVadd (o : Ops) (s : State) : Result := vecArith o (fun m x y _ => x.add m y) (fun x y _ => x + y) s
/-- VSUB (R232). -/
def execVsub (o : Ops) (s : State) : Result := vecArith o (fun m x y _ => x.add m y.neg) (fun x y _ => x - y) s
/-- VMUL (R232). -/
def execVmul (o : Ops) (s : State) : Result := vecArith o (fun _ x y _ => x.mul y) (fun x y _ => x * y) s
/-- VFMA (R233). -/
def execVfma (o : Ops) (s : State) : Result := vecArith o (fun m x y z => x.fma m y z) (fun x y z => x * y + z) s

/-- VDIV (R130, R138, R232). -/
def execVdiv (o : Ops) (s : State) : Result :=
  let k := ctlOf o true
  vecElems isFIType o (fun t x y _ =>
    if isFType t then fpOp t k ((fpIn t k x).div (fpIn t k y))
    else intDiv (typeSigned t) k.sat (typeWidth t) x y) s

/-- Is x below y in the order of VMIN and VMAX: −0 below +0 (R232)? -/
def Fv.below : Fv → Fv → Bool
  | .fin a m e, .fin b n g => if m = 0 ∧ n = 0 then a && !b else Fv.lt (.fin a m e) (.fin b n g)
  | x, y => x.lt y

/-- The lesser or greater of two numbers: NaN if either is. -/
def Fv.pick (hi : Bool) (x y : Fv) : Fv :=
  if x = .nan ∨ y = .nan then .nan
  else if hi then (if x.below y then y else x) else if y.below x then y else x

/-- VMIN and VMAX: no rounding mode and no SAT (R231). A NaN raises no flag (R232); a result that FZO flushes raises UF and NX (R136,
log 36). -/
def vecPick (hi : Bool) (o : Ops) (s : State) : Result :=
  let k : Ctl := { fzi := o.fzi, fzo := o.fzo }
  vecElems isFIType o (fun t x y _ =>
    if isFType t then fpOp t k (Fv.pick hi (fpIn t k x) (fpIn t k y), 0)
    else if hi then (if intIn t x < intIn t y then y else x, 0) else (if intIn t y < intIn t x then y else x, 0)) s

/-- VMIN (R232). -/
def execVmin (o : Ops) (s : State) : Result := vecPick false o s
/-- VMAX (R232). -/
def execVmax (o : Ops) (s : State) : Result := vecPick true o s

/-- A number with its sign cleared. -/
def Fv.abs : Fv → Fv
  | .nan => .nan
  | .inf _ => .inf false
  | .fin _ m e => .fin false m e

/-- VABS and VNEG: SAT acts on integers only (R231). -/
def vecSign (o : Ops) (f : Fv → Fv) (g : Int → Int) (s : State) : Result :=
  let k : Ctl := { fzi := o.fzi, fzo := o.fzo }
  vecElems isFIType o (fun t x _ _ =>
    if isFType t then fpOp t k (f (fpIn t k x), 0) else intOp t (ctlOf o true) (g (intIn t x))) s

/-- VABS (R232). -/
def execVabs (o : Ops) (s : State) : Result := vecSign o Fv.abs (fun x => (x.natAbs : Int)) s
/-- VNEG (R232). -/
def execVneg (o : Ops) (s : State) : Result := vecSign o Fv.neg (fun x => -x) s

/-- Whole lanes of any type, from f of the lane number (R232, R238). -/
def vecLanes (o : Ops) (srcs : List (BitVec 6 × Bool)) (f : Ctx → Nat → Word) (s : State) : Result :=
  vecRun anyType (srcs ++ srcMask o) (fun x => x.writeLanes o (x.active o) (fun i => (f x i, 0))) s

/-- VAND (R232). -/
def execVand (o : Ops) (s : State) : Result := vecLanes o [] (fun x i => vlane (x.readV o.a) i &&& vlane (x.readV o.b) i) s
/-- VOR (R232). -/
def execVor (o : Ops) (s : State) : Result := vecLanes o [] (fun x i => vlane (x.readV o.a) i ||| vlane (x.readV o.b) i) s
/-- VXOR (R232). -/
def execVxor (o : Ops) (s : State) : Result := vecLanes o [] (fun x i => vlane (x.readV o.a) i ^^^ vlane (x.readV o.b) i) s

/-- Integer elements, no flag. -/
def vecInts (p : Nat → Bool) (o : Ops) (f : Nat → Nat → Nat → Nat) (s : State) : Result :=
  vecElems p o (fun t x y _ => (f (typeWidth t) x y, 0)) s

/-- VSHL (R234). -/
def execVshl (o : Ops) (s : State) : Result := vecInts isIType o (fun w x n => if w ≤ n then 0 else x * 2 ^ n % 2 ^ w) s
/-- VSHR (R234). -/
def execVshr (o : Ops) (s : State) : Result := vecInts isIType o (fun w x n => if w ≤ n then 0 else x / 2 ^ n) s
/-- VSRA (R234). -/
def execVsra (o : Ops) (s : State) : Result :=
  vecInts isIType o (fun w x n => ((sextN x w >>> min n w) % (2 ^ w : Nat)).toNat) s
/-- VMULHN (R246). -/
def execVmulhn (o : Ops) (s : State) : Result := vecInts isNType o (fun w x y => x * y / 2 ^ w) s

/-- VEXP2 (R150, R249). -/
def execVexp2 (o : Ops) (s : State) : Result := vecElems (fun t => t == 0) o (fun _ x _ _ => exp2 o.fzi o.fzo x) s

/-! ## Compares and selection (R235, R236) -/

/-- S[d] := the mask of active lanes for which the relation holds; `some_` asks it of some element instead of all. -/
def vecCompare (o : Ops) (some_ : Bool) (rel : Fv → Fv → Bool × Flags) (irel : Int → Int → Bool) (s : State) : Result :=
  vecRun isFIType (srcMask o) (fun x =>
    let t := x.vtype
    let w := typeWidth t
    let k : Ctl := { fzi := o.fzi }
    let elems (i : Nat) : List (Bool × Flags) := (List.range (typeLane t)).map (fun j =>
      let p := laneElem w (vlane (x.readV o.a) i) j
      let q := laneElem w (vlane (x.readV o.b) i) j
      if isFType t then rel (fpIn t k p) (fpIn t k q) else (irel (intIn t p) (intIn t q), 0))
    let lanes := (List.range 64).filter (x.active o)
    let g := lanes.foldl (fun g i => (elems i).foldl (fun g r => g ||| r.2) g) (0 : Flags)
    (x.orFlags g).writeS o.d (wordOfNat (bitsWhere 64 (fun i =>
      x.active o i && (if some_ then (elems i).any (·.1) else (elems i).all (·.1)))))) s

/-- Equality of elements: false with a NaN, no flag (R138). -/
def Fv.eqFlag (x y : Fv) : Bool := x != .nan && y != .nan && x.same y

/-- An ordering comparison: false with NV if either is NaN (R138). -/
def Fv.ordered (p : Fv → Fv → Bool) (x y : Fv) : Bool × Flags :=
  if x = .nan ∨ y = .nan then (false, flagNV) else (p x y, 0)

/-- VCMPEQ (R235). -/
def execVcmpeq (o : Ops) (s : State) : Result := vecCompare o false (fun x y => (x.eqFlag y, 0)) (fun x y => x == y) s
/-- VCMPNE (R235): some element differs. -/
def execVcmpne (o : Ops) (s : State) : Result := vecCompare o true (fun x y => (!x.eqFlag y, 0)) (fun x y => x != y) s
/-- VCMPLT (R235). -/
def execVcmplt (o : Ops) (s : State) : Result := vecCompare o false (Fv.ordered Fv.lt) (fun x y => decide (x < y)) s
/-- VCMPLE (R235). -/
def execVcmple (o : Ops) (s : State) : Result :=
  vecCompare o false (Fv.ordered (fun x y => x.lt y || x.same y)) (fun x y => decide (x ≤ y)) s

/-- VSEL (R236): the mask selects, and lanes inside the tile are written. -/
def execVsel (o : Ops) (s : State) : Result :=
  vecRun anyType (srcMask o) (fun x => x.writeLanes o (fun i => decide (i < x.vlanes)) (fun i =>
    (if o.mask = 0 ∨ (x.readS o.mask).getLsbD i then vlane (x.readV o.a) i else vlane (x.readV o.b) i, 0))) s

/-! ## Reductions (R237, R248) -/

/-- Every element of every active lane of V[a]. -/
def Ctx.activeElems (x : Ctx) (o : Ops) : List Nat :=
  ((List.range 64).filter (x.active o)).flatMap (fun i =>
    (List.range (typeLane x.vtype)).map (laneElem (typeWidth x.vtype) (vlane (x.readV o.a) i)))

/-- S[d] from an element code of the type: sign-extended for an i type, zero-extended otherwise. -/
def extendCode (t c : Nat) : Word :=
  if isIType t && typeSigned t then wordOfInt (sextN c (typeWidth t)) else wordOfNat (c % 2 ^ typeWidth t)

/-- A reduction of elements: 0 with no active lane. -/
def vecReduce (o : Ops) (f : Nat → List Nat → Nat × Flags) (s : State) : Result :=
  vecRun isFIType (srcMask o) (fun x =>
    let l := x.activeElems o
    let r := if l.isEmpty then (0, 0) else f x.vtype l
    (x.orFlags r.2).writeS o.d (extendCode x.vtype r.1)) s

/-- VREDADD (R149, R237). -/
def execVredadd (o : Ops) (s : State) : Result :=
  vecReduce o (fun t l =>
    if isFType t then fpOp t (ctlOf o false) (Fv.sum (modeOf o.rnd.toNat) (l.map (fpIn t (ctlOf o false))))
    else intOp t (ctlOf o true) (l.foldl (fun v c => v + intIn t c) 0)) s

/-- The greatest or least of a list. -/
def reducePick (hi : Bool) (o : Ops) (t : Nat) (l : List Nat) : Nat × Flags :=
  let k : Ctl := { fzi := o.fzi, fzo := o.fzo }
  match l with
  | [] => (0, 0)
  | c :: cs =>
    if isFType t then fpOp t k (cs.foldl (fun m c => Fv.pick hi m (fpIn t k c)) (fpIn t k c), 0)
    else (cs.foldl (fun m c => if hi then (if intIn t m < intIn t c then c else m) else (if intIn t c < intIn t m then c else m)) c, 0)

/-- VREDMAX (R237). -/
def execVredmax (o : Ops) (s : State) : Result := vecReduce o (reducePick true o) s
/-- VREDMIN (R237). -/
def execVredmin (o : Ops) (s : State) : Result := vecReduce o (reducePick false o) s

/-- VREDOR (R237): whole lanes, padding included. -/
def execVredor (o : Ops) (s : State) : Result :=
  vecRun anyType (srcMask o) (fun x =>
    x.writeS o.d (((List.range 64).filter (x.active o)).foldl (fun v i => v ||| vlane (x.readV o.a) i) 0)) s

/-- One bits of a word. -/
def popWord (w : Word) : Nat := (List.range 64).foldl (fun n i => n + b2n (w.getLsbD i)) 0

/-- VPOPC (R248). -/
def execVpopc (o : Ops) (s : State) : Result :=
  vecRun anyType (srcMask o) (fun x =>
    x.writeS o.d (wordOfNat (((List.range 64).filter (x.active o)).foldl (fun n i => n + popWord (vlane (x.readV o.a) i)) 0))) s

/-! ## Lane movement (R238, R239) -/

/-- VBCAST (R238). -/
def execVbcast (o : Ops) (s : State) : Result :=
  vecLanes o (srcA o) (fun x _ => (laneOf x.vtype (fun _ => ((x.readS o.a).toNat, 0))).1) s

/-- VEXT (R238): no mask or tile applies. -/
def execVext (o : Ops) (s : State) : Result :=
  vecRun anyType ((o.b, o.tb) :: srcMask o) (fun x => x.writeS o.d (vlane (x.readV o.a) ((x.readS o.b).toNat % 64))) s

/-- VINS (R238): no mask or tile applies. -/
def execVins (o : Ops) (s : State) : Result :=
  vecRun anyType (srcAB o ++ srcMask o) (fun x =>
    let n := (x.readS o.b).toNat % 64
    x.writeV o.d (BitVec.ofNat 4096 (packLanes ((List.range 64).map (fun i =>
      if i = n then x.readS o.a else vlane (x.readV o.d) i))))) s

/-- VPERM (R238). -/
def execVperm (o : Ops) (s : State) : Result :=
  vecLanes o [] (fun x i => vlane (x.readV o.a) (Wbits (vlane (x.readV o.b) i) 5 0)) s

/-- VSLIDE (R238). -/
def execVslide (o : Ops) (s : State) : Result :=
  vecLanes o [] (fun x i =>
    let j : Int := i + o.imm.toInt
    if 0 ≤ j ∧ j ≤ 63 then vlane (x.readV o.a) j.toNat else 0) s

/-- VTRN (R239): transpose, or reverse each row. -/
def execVtrn (o : Ops) (s : State) : Result :=
  vecLanes o [] (fun x k =>
    let rows := x.vrows
    let cols := x.vcols
    let j := if o.f = 0 then k % rows * cols + k / rows else k / cols * cols + (cols - 1 - k % cols)
    vlane (x.readV o.a) j) s

/-! ## Loads and stores (R240, R241, R250) -/

/-- Address of a lane of a contiguous access. -/
def contigAddr (x : Ctx) (o : Ops) (i : Nat) : Word := x.readS o.a + 4096 * o.imm + wordOfNat (64 * i)

/-- Address of a lane of a strided access. -/
def stridedAddr (x : Ctx) (o : Ops) (i : Nat) : Word :=
  x.readS o.a + x.readS o.b * wordOfNat (i / x.vcols) + wordOfNat (64 * (i % x.vcols))

/-- Address of a lane of a gather or scatter. -/
def gatherAddr (x : Ctx) (o : Ops) (i : Nat) : Word := x.readS o.a + vlane (x.readV o.b) i

/-- The active lanes, ascending. -/
def Ctx.activeLanes (x : Ctx) (o : Ops) : List Nat := (List.range 64).filter (x.active o)

/-- Each active lane of V[d] := the w bits at its address; a denial is logged under a code (R416). -/
def vecLoad (code : Nat) (o : Ops) (srcs : List (BitVec 6 × Bool)) (w : Ctx → Nat) (addr : Ctx → Nat → Word) (s : State) : Result :=
  s.run anyMode (srcs ++ srcMask o) (fun c s =>
    let x := s.me c
    let ag := s.ctxAgent c.cx
    (s.readParts ag code true noExtra ((x.activeLanes o).flatMap (fun i => partsOf i (addr x i) (w x)))).bind (fun s qs =>
      .ok (s.onMe c (fun y => y.writeLanes o (x.active o) (fun i => (wordOfNat (laneBits s ag.rights.uid i qs), 0))))))

/-- A narrow lane among stores to another package makes all its stores there merges, so that they stay in lane order. -/
def mergeMixed (self : Nat) (ws : List Wr) : List Wr :=
  if ws.any (fun w => w.narrow) then ws.map (fun w => if w.part.own = self then w else { w with narrow := true }) else ws

/-- The w bits at the address of each active lane := the low bits of the lane of V[d], in ascending order. -/
def vecStore (code : Nat) (o : Ops) (srcs : List (BitVec 6 × Bool)) (w : Ctx → Nat) (addr : Ctx → Nat → Word) (s : State) : Result :=
  s.run anyMode (srcs ++ srcMask o) (fun c s =>
    let x := s.me c
    let ag := s.ctxAgent c.cx
    let (s, qs) := s.checkParts ag .store false ((x.activeLanes o).flatMap (fun i => partsOf i (addr x i) (w x)))
    match worstFault qs with
    | some t => .trap s t
    | none =>
      let ws : List Wr := qs.map (fun p =>
        { part := p, val := p.cut (vlane (x.readV o.d) p.lane).toNat, narrow := isNarrow (addr x p.lane) (w x) })
      (s.writeParts ag code (mergeMixed s.sys.self ws)).bind (fun s _ =>
        if qs.any (fun p => marksState p.addr) then .okB s else .ok s))

/-- VLD (R240). -/
def execVld (o : Ops) (s : State) : Result := vecLoad 0 o (srcA o) (fun _ => 64) (fun x => contigAddr x o) s
/-- VST (R240). -/
def execVst (o : Ops) (s : State) : Result := vecStore 1 o (srcA o) (fun _ => 64) (fun x => contigAddr x o) s
/-- VLDS (R240). -/
def execVlds (o : Ops) (s : State) : Result := vecLoad 0 o (srcAB o) (fun _ => 64) (fun x => stridedAddr x o) s
/-- VSTS (R240). -/
def execVsts (o : Ops) (s : State) : Result := vecStore 1 o (srcAB o) (fun _ => 64) (fun x => stridedAddr x o) s
/-- VGATH (R241). -/
def execVgath (o : Ops) (s : State) : Result := vecLoad 3 o (srcA o) (fun x => typeWidth x.vtype) (fun x => gatherAddr x o) s
/-- VSCAT (R241). -/
def execVscat (o : Ops) (s : State) : Result := vecStore 4 o (srcA o) (fun x => typeWidth x.vtype) (fun x => gatherAddr x o) s

/-! ## Vector atomics (R242) -/

/-- Perform one atomic a lane, in ascending order, at this package. -/
def laneAtomics (ag : Agent) (f : Nat → Nat → Nat × Flags) : List Part → State → Flags → State × Flags
  | [], s, g => (s, g)
  | p :: ps, s, g =>
    if p.denied || p.own != s.sys.self then laneAtomics ag f ps s g
    else
      let s := s.touchAtomic ag p
      let (v, h) := f p.lane (((memWord s.mem p.key).toNat >>> p.off) % 2 ^ p.len)
      laneAtomics ag f ps (s.putWord p.key p.mask (wordOfNat (v * 2 ^ p.off))).1 (g ||| h)

/-- The answers of other packages to the lanes of a vector atomic: the lowest poisoned or lost lane traps; else its flags follow from
the old values (R242, R399). -/
def laneAnswers (s : State) (c : Cur) (addr : Nat → Word) (f : Nat → Nat → Nat × Flags) (sent : List Fwd) : Res :=
  match sent.find? (fun q => q.poison.isSome) with
  | some q => .trap (s.dropFwds q.uid) { cause := 0x0E, lane := q.lane, val := addr q.lane }
  | none =>
    if sent.any (fun q => q.resp.isNone) then .wait s .other 0
    else .okB (s.onMe c (fun x => x.orFlags (sent.foldl (fun g q =>
      g ||| (if (q.resp.getD []).getD 3 0 = 0 then (f q.lane ((q.resp.getD []).getD 0 0).toNat).2 else 0)) 0)))

/-- VAOR and VAADD: f gives the new value and flags for the old value and the operand (R242). Before any lane is performed, the other
packages have said which of their words are poisoned (R399); then this package's lanes are performed and the others asked
for. -/
def vecAtomic (p : Nat → Bool) (o : Ops) (code : Nat → Nat) (f : Nat → Nat → Nat → Nat × Flags) (s : State) : Result :=
  s.run (inTypes p) (srcA o ++ srcMask o) (fun c s =>
    let x := s.me c
    let t := x.vtype
    let w := typeWidth t
    let ag := s.ctxAgent c.cx
    let lanes := x.activeLanes o
    let y (i : Nat) : Nat := (vlane (x.readV o.d) i).toNat % 2 ^ w
    let g (i old : Nat) : Nat × Flags := f t old (y i)
    let sent := s.net.fwds.filter (fun f => f.uid == ag.rights.uid && f.op == 0x04)
    if !sent.isEmpty then laneAnswers s c (gatherAddr x o) g sent
    else match lanes.find? (fun i => decide (64 < Wbits (gatherAddr x o i) 5 0 + w)) with
    | some i => .trap s { cause := 0x02, lane := i, val := gatherAddr x o i }
    | none =>
      if s.mustDrain c.cx o.imm.toNat then .wait s .other 0
      else
        let (s, qs) := s.checkParts ag .store true (lanes.flatMap (fun i => partsOf i (gatherAddr x o i) w))
        (s.judgeReads ag 2 qs).bind (fun s _ =>
          let cows := qs.filter (fun p => !p.denied && p.cow)
          let away := qs.filter (fun p => !p.denied && p.own != s.sys.self)
          if !cows.isEmpty then .wait (s.askCow ag cows) .other 0
          else
            let s := (logDenials ag 2 qs [] s).1
            let (s, h) := laneAtomics ag g qs s 0
            let s := s.onMe c (fun x => x.orFlags h)
            if away.isEmpty then .okB s
            else .wait (away.foldl (fun s p => s.forward ag p.own p.key 0x04 p.addr
              [wordOfNat p.off, wordOfNat (code t), wordOfNat w, o.imm, wordOfNat (y p.lane)] p.tag 0 p.lane) s) .other 0))

/-- VAOR (R242). -/
def execVaor (o : Ops) (s : State) : Result := vecAtomic isIType o (fun _ => 2) (fun _ old y => (old ||| y, 0)) s
/-- VAADD (R215, R242). -/
def execVaadd (o : Ops) (s : State) : Result :=
  vecAtomic (fun t => isIType t || t == 0 || t == 1) o (fun t => if isFType t then 11 else 0)
    (fun t old y => if isFType t then fadd (typeWidth t) old y else ((old + y) % 2 ^ typeWidth t, 0)) s

/-! ## Conversions (R243) -/

/-- One element of type t converted to type u. -/
def convElem (k : Ctl) (t u c : Nat) : Nat × Flags :=
  match isFType t, isFType u with
  | true, true => convert (typeFmt t) (typeFmt u) k c
  | true, false => (fpIn t k c).toInt k.mode (typeSigned u) (typeWidth u)
  | false, true => (typeFmt u).give k (Fv.ofInt (intIn t c))
  | false, false => intCode (typeSigned u) k.sat (typeWidth u) (intIn t c)

/-- VCVT (R243). -/
def execVcvt (o : Ops) (s : State) : Result :=
  vecRun isFIType (srcMask o) (fun x =>
    let t := x.vtype
    let u := o.f.toNat + 16 * (o.imm.toNat % 2)
    let part := o.imm.toNat / 2
    let sn := 64 * typeLane t
    let dn := 64 * typeLane u
    let k := ctlOf o true
    let src (j : Nat) : Nat × Flags := convElem k t u (vElem t (x.readV o.a) j)
    x.writeLanes o (x.active o) (fun i => laneOf u (fun j =>
      let e := i * typeLane u + j
      if dn ≤ sn then (if part * dn + e < sn then src (part * dn + e) else (0, 0))
      else if part * sn ≤ e ∧ e < (part + 1) * sn then src (e - part * sn)
      else (vElem u (x.readV o.d) e, 0)))) s

/-! ## Quantisation (R244, R245) -/

/-- Byte m of a register. -/
def vByte (v : BitVec 4096) (m : Nat) : Nat := (v.extractLsb' (8 * m) 8).toNat

/-- VQ and VDQ take the types f32, bf16 and f16, and an encoding whose part or block passes the register is reserved. -/
def quantOk (kbMax : Nat → Nat) (o : Ops) : Cur → Ctx → Option Nat := fun _ x =>
  let n := 64 * typeLane x.vtype
  if 2 < x.vtype then some 7
  else if kbMax n < 2 ^ o.f.toNat ∨ 1024 < (o.imm.toNat / 16 + 1) * n then some 3
  else none

/-- VQ (R143, R244). -/
def execVq (o : Ops) (s : State) : Result :=
  s.run (quantOk id o) [] (fun c s =>
    let x := s.me c
    let t := x.vtype
    let sn := 64 * typeLane t
    let kb := 2 ^ o.f.toNat
    let base := o.imm.toNat / 16 * sn
    let cands := if o.imm.toNat % 16 = 0 then [0, 1, 2, 3] else [0, 1, 2, 3].filter (fun T => bit o.imm.toNat T)
    let k := ctlOf o false
    let blocks := (List.range (sn / kb)).map (fun b =>
      quantise k.mode cands ((List.range kb).map (fun j => fpIn t k (vElem t (x.readV o.a) (b * kb + j)))))
    let codes := blocks.flatMap (fun q => q.2.1)
    let scales := blocks.map (fun q => q.1)
    let v := (List.range 1024).map (fun e =>
      if base ≤ e ∧ e < base + sn then codes.getD (e - base) 0 else vElem 18 (x.readV o.d) e)
    let m := (List.range 512).map (fun j =>
      if base / kb ≤ j ∧ j < base / kb + sn / kb then scales.getD (j - base / kb) 0 else vByte (x.readV (pairHi o.d)) j)
    .ok (s.onMe c (fun x =>
      ((x.orFlags (blocks.foldl (fun g q => g ||| q.2.2) 0)).writeV o.d (BitVec.ofNat 4096 (packElems 4 v))).writeV (pairHi o.d)
        (BitVec.ofNat 4096 (packElems 8 m)))))

/-- VDQ (R142, R245). -/
def execVdq (o : Ops) (s : State) : Result :=
  s.run (quantOk (fun _ => 1024) o) [] (fun c s =>
    let x := s.me c
    let t := x.vtype
    let p := typeLane t
    let dn := 64 * p
    let k : Ctl := { mode := modeOf o.rnd.toNat, fzo := o.fzo }
    .ok (s.onMe c (fun x =>
      let rs := (List.range 64).map (fun i => laneOf t (fun j =>
        let g := o.imm.toNat / 16 * dn + i * p + j
        (typeFmt t).give k (q4Fv (vByte (x.readV (pairHi o.a)) (g / 2 ^ o.f.toNat)) (vElem 18 (x.readV o.a) g))))
      (x.orFlags (rs.foldl (fun g r => g ||| r.2) 0)).writeV o.d (BitVec.ofNat 4096 (packLanes (rs.map (·.1)))))))

/-! ## Shape (R247) -/

/-- VSETS (R247): a CSR write, so a region boundary. -/
def execVsets (o : Ops) (s : State) : Result :=
  s.run anyMode (srcAB o ++ srcMask o) (fun c s =>
    let x := s.me c
    let t := Wbits (x.readS o.a) 4 0
    let rows := Wbits (x.readS o.b) 15 8
    let cols := Wbits (x.readS o.b) 7 0
    if t ≤ 18 ∧ 1 ≤ rows ∧ 1 ≤ cols ∧ rows * cols ≤ 64 then
      let v := wordOfNat (t + 64 * (rows - 1) + 4096 * (cols % 64))
      .okB (s.onMe c (fun x => ({ x with csrs := { x.csrs with vshape := v } } : Ctx).writeS o.d (wordOfNat (rows * cols))))
    else .okB (s.onMe c (fun x => x.writeS o.d 0)))

end Sys2Proof.Machine
end

