-- ==== Sys2Proof/Machine/Dispatch.lean ====
section
/-! DEFINITION. The meaning of each instruction. -/

namespace Sys2Proof.Machine

/-- The meaning of an instruction: one arm per constructor. -/
def exec (i : Instr) (s : State) : Host.Outcome State Fault Refusal :=
  match i with
  | .add o => Sys2Proof.Machine.execAdd o s
  | .sub o => Sys2Proof.Machine.execSub o s
  | .and o => Sys2Proof.Machine.execAnd o s
  | .or o => Sys2Proof.Machine.execOr o s
  | .xor o => Sys2Proof.Machine.execXor o s
  | .addi o => Sys2Proof.Machine.execAddi o s
  | .slli o => Sys2Proof.Machine.execSlli o s
  | .li o => Sys2Proof.Machine.execLi o s
  | .ld o => Sys2Proof.Machine.execLd o s
  | .st o => Sys2Proof.Machine.execSt o s
  | .beqz o => Sys2Proof.Machine.execBeqz o s
  | .bnez o => Sys2Proof.Machine.execBnez o s
  | .j o => Sys2Proof.Machine.execJ o s
  | .call o => Sys2Proof.Machine.execCall o s
  | .mov o => Sys2Proof.Machine.execMov o s
  | .not o => Sys2Proof.Machine.execNot o s
  | .neg o => Sys2Proof.Machine.execNeg o s
  | .abs o => Sys2Proof.Machine.execAbs o s
  | .clz o => Sys2Proof.Machine.execClz o s
  | .ctz o => Sys2Proof.Machine.execCtz o s
  | .popc o => Sys2Proof.Machine.execPopc o s
  | .brev o => Sys2Proof.Machine.execBrev o s
  | .jr o => Sys2Proof.Machine.execJr o s
  | .jalr o => Sys2Proof.Machine.execJalr o s
  | .mul o => Sys2Proof.Machine.execMul o s
  | .mulh o => Sys2Proof.Machine.execMulh o s
  | .mulhn o => Sys2Proof.Machine.execMulhn o s
  | .div o => Sys2Proof.Machine.execDiv o s
  | .divn o => Sys2Proof.Machine.execDivn o s
  | .rem o => Sys2Proof.Machine.execRem o s
  | .remn o => Sys2Proof.Machine.execRemn o s
  | .min o => Sys2Proof.Machine.execMin o s
  | .max o => Sys2Proof.Machine.execMax o s
  | .minn o => Sys2Proof.Machine.execMinn o s
  | .maxn o => Sys2Proof.Machine.execMaxn o s
  | .sll o => Sys2Proof.Machine.execSll o s
  | .srl o => Sys2Proof.Machine.execSrl o s
  | .sra o => Sys2Proof.Machine.execSra o s
  | .ror o => Sys2Proof.Machine.execRor o s
  | .seq o => Sys2Proof.Machine.execSeq o s
  | .sne o => Sys2Proof.Machine.execSne o s
  | .slt o => Sys2Proof.Machine.execSlt o s
  | .sltn o => Sys2Proof.Machine.execSltn o s
  | .srli o => Sys2Proof.Machine.execSrli o s
  | .srai o => Sys2Proof.Machine.execSrai o s
  | .andi o => Sys2Proof.Machine.execAndi o s
  | .ori o => Sys2Proof.Machine.execOri o s
  | .xori o => Sys2Proof.Machine.execXori o s
  | .slti o => Sys2Proof.Machine.execSlti o s
  | .sext o => Sys2Proof.Machine.execSext o s
  | .zext o => Sys2Proof.Machine.execZext o s
  | .bext o => Sys2Proof.Machine.execBext o s
  | .bdep o => Sys2Proof.Machine.execBdep o s
  | .sel o => Sys2Proof.Machine.execSel o s
  | .badv o => Sys2Proof.Machine.execBadv o s
  | .brtv o => Sys2Proof.Machine.execBrtv o s
  | .bdiff o => Sys2Proof.Machine.execBdiff o s
  | .baln o => Sys2Proof.Machine.execBaln o s
  | .bchk o => Sys2Proof.Machine.execBchk o s
  | .by2b o => Sys2Proof.Machine.execBy2b o s
  | .bb2y o => Sys2Proof.Machine.execBb2y o s
  | .bcore o => Sys2Proof.Machine.execBcore o s
  | .bmkl o => Sys2Proof.Machine.execBmkl o s
  | .bplc o => Sys2Proof.Machine.execBplc o s
  | .lih o => Sys2Proof.Machine.execLih o s
  | .addpc o => Sys2Proof.Machine.execAddpc o s
  | .wfld o => Sys2Proof.Machine.execWfld o s
  | .beq o => Sys2Proof.Machine.execBeq o s
  | .bne o => Sys2Proof.Machine.execBne o s
  | .blt o => Sys2Proof.Machine.execBlt o s
  | .bltn o => Sys2Proof.Machine.execBltn o s
  | .bge o => Sys2Proof.Machine.execBge o s
  | .bgen o => Sys2Proof.Machine.execBgen o s
  | .ball o => Sys2Proof.Machine.execBall o s
  | .loop o => Sys2Proof.Machine.execLoop o s
  | .csrr o => Sys2Proof.Machine.execCsrr o s
  | .csrw o => Sys2Proof.Machine.execCsrw o s
  | .trap o => Sys2Proof.Machine.execTrap o s
  | .waiti o => Sys2Proof.Machine.execWaiti o s
  | .regn o => Sys2Proof.Machine.execRegn o s
  | .spawn o => Sys2Proof.Machine.execSpawn o s
  | .range o => Sys2Proof.Machine.execRange o s
  | .rnext o => Sys2Proof.Machine.execRnext o s
  | .kset o => Sys2Proof.Machine.execKset o s
  | .kwait o => Sys2Proof.Machine.execKwait o s
  | .barv o => Sys2Proof.Machine.execBarv o s
  | .fwait o => Sys2Proof.Machine.execFwait o s
  | .ftest o => Sys2Proof.Machine.execFtest o s
  | .fcancel o => Sys2Proof.Machine.execFcancel o s
  | .fhnd o => Sys2Proof.Machine.execFhnd o s
  | .yield o => Sys2Proof.Machine.execYield o s
  | .ldf o => Sys2Proof.Machine.execLdf o s
  | .ldfs o => Sys2Proof.Machine.execLdfs o s
  | .stf o => Sys2Proof.Machine.execStf o s
  | .ldfe o => Sys2Proof.Machine.execLdfe o s
  | .stfe o => Sys2Proof.Machine.execStfe o s
  | .lda o => Sys2Proof.Machine.execLda o s
  | .str o => Sys2Proof.Machine.execStr o s
  | .fenceAcq o => Sys2Proof.Machine.execFenceAcq o s
  | .fenceRel o => Sys2Proof.Machine.execFenceRel o s
  | .fenceAcqrel o => Sys2Proof.Machine.execFenceAcqrel o s
  | .fenceSc o => Sys2Proof.Machine.execFenceSc o s
  | .fenceRdrain o => Sys2Proof.Machine.execFenceRdrain o s
  | .pref o => Sys2Proof.Machine.execPref o s
  | .pin o => Sys2Proof.Machine.execPin o s
  | .unpin o => Sys2Proof.Machine.execUnpin o s
  | .cflush o => Sys2Proof.Machine.execCflush o s
  | .cinv o => Sys2Proof.Machine.execCinv o s
  | .ldp o => Sys2Proof.Machine.execLdp o s
  | .stp o => Sys2Proof.Machine.execStp o s
  | .amoadd o => Sys2Proof.Machine.execAmoadd o s
  | .amoand o => Sys2Proof.Machine.execAmoand o s
  | .amoor o => Sys2Proof.Machine.execAmoor o s
  | .amoxor o => Sys2Proof.Machine.execAmoxor o s
  | .amomin o => Sys2Proof.Machine.execAmomin o s
  | .amomax o => Sys2Proof.Machine.execAmomax o s
  | .amominn o => Sys2Proof.Machine.execAmominn o s
  | .amomaxn o => Sys2Proof.Machine.execAmomaxn o s
  | .amoswp o => Sys2Proof.Machine.execAmoswp o s
  | .cas o => Sys2Proof.Machine.execCas o s
  | .cas2 o => Sys2Proof.Machine.execCas2 o s
  | .amofadd o => Sys2Proof.Machine.execAmofadd o s
  | .cp o => Sys2Proof.Machine.execCp o s
  | .cp2d o => Sys2Proof.Machine.execCp2d o s
  | .cpg o => Sys2Proof.Machine.execCpg o s
  | .cps o => Sys2Proof.Machine.execCps o s
  | .cpfill o => Sys2Proof.Machine.execCpfill o s
  | .mcast o => Sys2Proof.Machine.execMcast o s
  | .mcfetch o => Sys2Proof.Machine.execMcfetch o s
  | .mcsend o => Sys2Proof.Machine.execMcsend o s
  | .vadd o => Sys2Proof.Machine.execVadd o s
  | .vsub o => Sys2Proof.Machine.execVsub o s
  | .vmul o => Sys2Proof.Machine.execVmul o s
  | .vfma o => Sys2Proof.Machine.execVfma o s
  | .vmin o => Sys2Proof.Machine.execVmin o s
  | .vmax o => Sys2Proof.Machine.execVmax o s
  | .vabs o => Sys2Proof.Machine.execVabs o s
  | .vneg o => Sys2Proof.Machine.execVneg o s
  | .vand o => Sys2Proof.Machine.execVand o s
  | .vor o => Sys2Proof.Machine.execVor o s
  | .vxor o => Sys2Proof.Machine.execVxor o s
  | .vshl o => Sys2Proof.Machine.execVshl o s
  | .vshr o => Sys2Proof.Machine.execVshr o s
  | .vsra o => Sys2Proof.Machine.execVsra o s
  | .vdiv o => Sys2Proof.Machine.execVdiv o s
  | .vcmpeq o => Sys2Proof.Machine.execVcmpeq o s
  | .vcmpne o => Sys2Proof.Machine.execVcmpne o s
  | .vcmplt o => Sys2Proof.Machine.execVcmplt o s
  | .vcmple o => Sys2Proof.Machine.execVcmple o s
  | .vsel o => Sys2Proof.Machine.execVsel o s
  | .vredadd o => Sys2Proof.Machine.execVredadd o s
  | .vredmax o => Sys2Proof.Machine.execVredmax o s
  | .vredmin o => Sys2Proof.Machine.execVredmin o s
  | .vredor o => Sys2Proof.Machine.execVredor o s
  | .vbcast o => Sys2Proof.Machine.execVbcast o s
  | .vext o => Sys2Proof.Machine.execVext o s
  | .vins o => Sys2Proof.Machine.execVins o s
  | .vperm o => Sys2Proof.Machine.execVperm o s
  | .vslide o => Sys2Proof.Machine.execVslide o s
  | .vtrn o => Sys2Proof.Machine.execVtrn o s
  | .vld o => Sys2Proof.Machine.execVld o s
  | .vst o => Sys2Proof.Machine.execVst o s
  | .vlds o => Sys2Proof.Machine.execVlds o s
  | .vsts o => Sys2Proof.Machine.execVsts o s
  | .vgath o => Sys2Proof.Machine.execVgath o s
  | .vscat o => Sys2Proof.Machine.execVscat o s
  | .vaor o => Sys2Proof.Machine.execVaor o s
  | .vaadd o => Sys2Proof.Machine.execVaadd o s
  | .vcvt o => Sys2Proof.Machine.execVcvt o s
  | .vq o => Sys2Proof.Machine.execVq o s
  | .vdq o => Sys2Proof.Machine.execVdq o s
  | .vmulhn o => Sys2Proof.Machine.execVmulhn o s
  | .vsets o => Sys2Proof.Machine.execVsets o s
  | .vpopc o => Sys2Proof.Machine.execVpopc o s
  | .vexp2 o => Sys2Proof.Machine.execVexp2 o s
  | .mmaBf16 o => Sys2Proof.Machine.execMmaBf16 o s
  | .mmaF16 o => Sys2Proof.Machine.execMmaF16 o s
  | .mmaF32 o => Sys2Proof.Machine.execMmaF32 o s
  | .mmaE4m3 o => Sys2Proof.Machine.execMmaE4m3 o s
  | .mmaE5m2 o => Sys2Proof.Machine.execMmaE5m2 o s
  | .mmaE4m3e5m2 o => Sys2Proof.Machine.execMmaE4m3e5m2 o s
  | .mmaI8 o => Sys2Proof.Machine.execMmaI8 o s
  | .mmaI8n8 o => Sys2Proof.Machine.execMmaI8n8 o s
  | .mmaE2m3 o => Sys2Proof.Machine.execMmaE2m3 o s
  | .mmaE3m2 o => Sys2Proof.Machine.execMmaE3m2 o s
  | .mmaQ4 o => Sys2Proof.Machine.execMmaQ4 o s
  | .mmaQ4e4m3 o => Sys2Proof.Machine.execMmaQ4e4m3 o s
  | .mmaBf16q4 o => Sys2Proof.Machine.execMmaBf16q4 o s
  | .mmaI4 o => Sys2Proof.Machine.execMmaI4 o s
  | .mmaI3i8 o => Sys2Proof.Machine.execMmaI3i8 o s
  | .smmaBf16 o => Sys2Proof.Machine.execSmmaBf16 o s
  | .smmaE4m3 o => Sys2Proof.Machine.execSmmaE4m3 o s
  | .smmaQ4 o => Sys2Proof.Machine.execSmmaQ4 o s
  | .mshape o => Sys2Proof.Machine.execMshape o s
  | .mmapAllocate o => Sys2Proof.Machine.execMmapAllocate o s
  | .mmapFree o => Sys2Proof.Machine.execMmapFree o s
  | .mzero o => Sys2Proof.Machine.execMzero o s
  | .snew o => Sys2Proof.Machine.execSnew o s
  | .sfork o => Sys2Proof.Machine.execSfork o s
  | .sprune o => Sys2Proof.Machine.execSprune o s
  | .sjgrp o => Sys2Proof.Machine.execSjgrp o s
  | .sjoin o => Sys2Proof.Machine.execSjoin o s
  | .sstep o => Sys2Proof.Machine.execSstep o s
  | .saqp o => Sys2Proof.Machine.execSaqp o s
  | .saqw o => Sys2Proof.Machine.execSaqw o s
  | .shz o => Sys2Proof.Machine.execShz o s
  | .shzd o => Sys2Proof.Machine.execShzd o s
  | .smig o => Sys2Proof.Machine.execSmig o s
  | .smapFresh o => Sys2Proof.Machine.execSmapFresh o s
  | .smapShare o => Sys2Proof.Machine.execSmapShare o s
  | .smapUnmap o => Sys2Proof.Machine.execSmapUnmap o s
  | .smapFrame o => Sys2Proof.Machine.execSmapFrame o s
  | .send o => Sys2Proof.Machine.execSend o s
  | .epopl o => Sys2Proof.Machine.execEpopl o s
  | .epost o => Sys2Proof.Machine.execEpost o s
  | .epostv o => Sys2Proof.Machine.execEpostv o s
  | .erun o => Sys2Proof.Machine.execErun o s
  | .etick o => Sys2Proof.Machine.execEtick o s
  | .edrain o => Sys2Proof.Machine.execEdrain o s
  | .aload o => Sys2Proof.Machine.execAload o s
  | .ago o => Sys2Proof.Machine.execAgo o s
  | .astat o => Sys2Proof.Machine.execAstat o s
  | .astop o => Sys2Proof.Machine.execAstop o s
  | .tlbinvGpage o => Sys2Proof.Machine.execTlbinvGpage o s
  | .tlbinvSid o => Sys2Proof.Machine.execTlbinvSid o s
  | .tlbinvIdent o => Sys2Proof.Machine.execTlbinvIdent o s
  | .idset o => Sys2Proof.Machine.execIdset o s
  | .ctxsave o => Sys2Proof.Machine.execCtxsave o s
  | .ctxloadRelease o => Sys2Proof.Machine.execCtxloadRelease o s
  | .ctxloadKill o => Sys2Proof.Machine.execCtxloadKill o s
  | .pcnt o => Sys2Proof.Machine.execPcnt o s
  | .sleep o => Sys2Proof.Machine.execSleep o s
  | .pgmov o => Sys2Proof.Machine.execPgmov o s
  | .cldrainDrain o => Sys2Proof.Machine.execCldrainDrain o s
  | .cldrainResume o => Sys2Proof.Machine.execCldrainResume o s
  | .cldrainWipe o => Sys2Proof.Machine.execCldrainWipe o s
  | .elogr o => Sys2Proof.Machine.execElogr o s
  | .msink m => Sys2Proof.Machine.execMsink m s
  | .mpage m => Sys2Proof.Machine.execMpage m s
  | .mloop m => Sys2Proof.Machine.execMloop m s
  | .mbr m => Sys2Proof.Machine.execMbr m s
  | .mwait m => Sys2Proof.Machine.execMwait m s
  | .mset m => Sys2Proof.Machine.execMset m s
  | .madd m => Sys2Proof.Machine.execMadd m s
  | .ret => Sys2Proof.Machine.execRet s
  | .nop => Sys2Proof.Machine.execNop s
  | .rtt => Sys2Proof.Machine.execRtt s
  | .exit => Sys2Proof.Machine.execExit s
  | .tlbinvGall => Sys2Proof.Machine.execTlbinvGall s
  | .tlbinvSall => Sys2Proof.Machine.execTlbinvSall s
  | .tlbinvIall => Sys2Proof.Machine.execTlbinvIall s
  | .tlbinvAll => Sys2Proof.Machine.execTlbinvAll s
  | .mqk => Sys2Proof.Machine.execMqk s
  | .mmask => Sys2Proof.Machine.execMmask s
  | .mmax => Sys2Proof.Machine.execMmax s
  | .mexp => Sys2Proof.Machine.execMexp s
  | .msum => Sys2Proof.Machine.execMsum s
  | .mscl => Sys2Proof.Machine.execMscl s
  | .mpv => Sys2Proof.Machine.execMpv s
  | .mchk => Sys2Proof.Machine.execMchk s
  | .mnorm => Sys2Proof.Machine.execMnorm s
  | .mout => Sys2Proof.Machine.execMout s
  | .mend => Sys2Proof.Machine.execMend s
  | .doorbell => Sys2Proof.Machine.execDoorbell s
  | .chainEnable => Sys2Proof.Machine.execChainEnable s
  | .chainStop => Sys2Proof.Machine.execChainStop s
  | .registerWrite => Sys2Proof.Machine.execRegisterWrite s
  | .pkgmodeFullWrite => Sys2Proof.Machine.execPkgmodeFullWrite s
  | .fullServiceReady => Sys2Proof.Machine.execFullServiceReady s
  | .stackRetire => Sys2Proof.Machine.execStackRetire s
  | .stackRetireDone => Sys2Proof.Machine.execStackRetireDone s
  | .commandNop => Sys2Proof.Machine.execCommandNop s
  | .commandLaunch => Sys2Proof.Machine.execCommandLaunch s
  | .commandWait => Sys2Proof.Machine.execCommandWait s
  | .waitRelease => Sys2Proof.Machine.execWaitRelease s
  | .dispatcherTakeLaunch => Sys2Proof.Machine.execDispatcherTakeLaunch s
  | .taskCreate => Sys2Proof.Machine.execTaskCreate s
  | .yardGive => Sys2Proof.Machine.execYardGive s
  | .resumeCounterDrain => Sys2Proof.Machine.execResumeCounterDrain s
  | .preempt => Sys2Proof.Machine.execPreempt s
  | .priorityAge => Sys2Proof.Machine.execPriorityAge s
  | .workRequest => Sys2Proof.Machine.execWorkRequest s
  | .cellarRefill => Sys2Proof.Machine.execCellarRefill s
  | .plumbTokenSend => Sys2Proof.Machine.execPlumbTokenSend s
  | .plumbTokenForward => Sys2Proof.Machine.execPlumbTokenForward s
  | .remoteStoreAck => Sys2Proof.Machine.execRemoteStoreAck s
  | .watchdog => Sys2Proof.Machine.execWatchdog s
  | .kwaitComplete => Sys2Proof.Machine.execKwaitComplete s
  | .waitiTimeout => Sys2Proof.Machine.execWaitiTimeout s
  | .sleepEnd => Sys2Proof.Machine.execSleepEnd s
  | .yieldEligible => Sys2Proof.Machine.execYieldEligible s
  | .tableWalkEnd => Sys2Proof.Machine.execTableWalkEnd s
  | .l2Fill => Sys2Proof.Machine.execL2Fill s
  | .cowWalk => Sys2Proof.Machine.execCowWalk s
  | .herdCloseTimeout => Sys2Proof.Machine.execHerdCloseTimeout s
  | .joinResolve => Sys2Proof.Machine.execJoinResolve s
  | .streamOpResolve => Sys2Proof.Machine.execStreamOpResolve s
  | .copyStart => Sys2Proof.Machine.execCopyStart s
  | .copyResolve => Sys2Proof.Machine.execCopyResolve s
  | .mcastResolve => Sys2Proof.Machine.execMcastResolve s
  | .tilePlace => Sys2Proof.Machine.execTilePlace s
  | .tileTaskDispatch => Sys2Proof.Machine.execTileTaskDispatch s
  | .rowSegmentWrite => Sys2Proof.Machine.execRowSegmentWrite s
  | .tileTaskEnd => Sys2Proof.Machine.execTileTaskEnd s
  | .pinResolve => Sys2Proof.Machine.execPinResolve s
  | .pgmovLineMove => Sys2Proof.Machine.execPgmovLineMove s
  | .pgmovResolve => Sys2Proof.Machine.execPgmovResolve s
  | .masonJobStart => Sys2Proof.Machine.execMasonJobStart s
  | .eventIntegrate => Sys2Proof.Machine.execEventIntegrate s
  | .eventCellarRefill => Sys2Proof.Machine.execEventCellarRefill s
  | .tickEnd => Sys2Proof.Machine.execTickEnd s
  | .eventOpResolve => Sys2Proof.Machine.execEventOpResolve s
  | .domainStall => Sys2Proof.Machine.execDomainStall s
  | .cldrainComplete => Sys2Proof.Machine.execCldrainComplete s
  | .carveoutSample => Sys2Proof.Machine.execCarveoutSample s
  | .carveoutLimitMove => Sys2Proof.Machine.execCarveoutLimitMove s
  | .l2WayMoveEnd => Sys2Proof.Machine.execL2WayMoveEnd s
  | .routeWindowEnd => Sys2Proof.Machine.execRouteWindowEnd s
  | .rdline => Sys2Proof.Machine.execRdline s
  | .wrline => Sys2Proof.Machine.execWrline s
  | .merge => Sys2Proof.Machine.execMerge s
  | .atom => Sys2Proof.Machine.execAtom s
  | .hotinc => Sys2Proof.Machine.execHotinc s
  | .mvline => Sys2Proof.Machine.execMvline s
  | .data => Sys2Proof.Machine.execData s
  | .ack => Sys2Proof.Machine.execAck s
  | .sopen => Sys2Proof.Machine.execSopen s
  | .sacc => Sys2Proof.Machine.execSacc s
  | .sref => Sys2Proof.Machine.execSref s
  | .snode => Sys2Proof.Machine.execSnode s
  | .sline => Sys2Proof.Machine.execSline s
  | .sdone => Sys2Proof.Machine.execSdone s
  | .sdrop => Sys2Proof.Machine.execSdrop s
  | .flitReplay => Sys2Proof.Machine.execFlitReplay s
  | .flitAck => Sys2Proof.Machine.execFlitAck s
  | .linkRetrainEnd => Sys2Proof.Machine.execLinkRetrainEnd s
  | .ownerLostTimeout => Sys2Proof.Machine.execOwnerLostTimeout s
  | .packageLeave => Sys2Proof.Machine.execPackageLeave s
  | .smigSourceTimeout => Sys2Proof.Machine.execSmigSourceTimeout s
  | .smigDestTimeout => Sys2Proof.Machine.execSmigDestTimeout s
  | .powerOnReset => Sys2Proof.Machine.execPowerOnReset s
  | .serviceFirmwareImage => Sys2Proof.Machine.execServiceFirmwareImage s
  | .clusterSelfTestEnd => Sys2Proof.Machine.execClusterSelfTestEnd s
  | .memoryCoreFirmwareImage => Sys2Proof.Machine.execMemoryCoreFirmwareImage s
  | .stackTrainEnd => Sys2Proof.Machine.execStackTrainEnd s
  | .linkTrainEnd => Sys2Proof.Machine.execLinkTrainEnd s
  | .calibrationEnd => Sys2Proof.Machine.execCalibrationEnd s
  | .wipeEnd => Sys2Proof.Machine.execWipeEnd s
  | .lifecycleChange => Sys2Proof.Machine.execLifecycleChange s
  | .mcFirmwareUpdate => Sys2Proof.Machine.execMcFirmwareUpdate s
  | .mcFirmwareStart => Sys2Proof.Machine.execMcFirmwareStart s
  | .throttle => Sys2Proof.Machine.execThrottle s
  | .throttleEnd => Sys2Proof.Machine.execThrottleEnd s
  | .thermalShutdown => Sys2Proof.Machine.execThermalShutdown s
  | .scrub => Sys2Proof.Machine.execScrub s
  | .clusterLeave => Sys2Proof.Machine.execClusterLeave s
  | .memoryCoreFail => Sys2Proof.Machine.execMemoryCoreFail s
  | .joinUnitFail => Sys2Proof.Machine.execJoinUnitFail s
  | .illegalInstruction => Sys2Proof.Machine.execIllegalInstruction s
  | .hostPortWrite => Sys2Proof.Machine.execHostPortWrite s
  | .porvaPortLoss => Sys2Proof.Machine.execPorvaPortLoss s
  | .powerOff => Sys2Proof.Machine.execPowerOff s
  | .minverRaise => Sys2Proof.Machine.execMinverRaise s
  | .copyUnitWrite => Sys2Proof.Machine.execCopyUnitWrite s
  | .multicastDelivery => Sys2Proof.Machine.execMulticastDelivery s
  | .pinLine => Sys2Proof.Machine.execPinLine s

end Sys2Proof.Machine
end

