-- ==== Sys2Proof/Machine/Issue.lean ====
section
/-!
DEFINITION. The turn of a context: which of a core's contexts are ready, which of them issues in a pipe, and what a cycle in
which none does counts (R58, R407).
-/

namespace Sys2Proof.Machine

/-- May a context take a turn? Not with no task, nor while it waits for its saved remote-store counter (R281), nor while its
memory core is stopped (R384). -/
def State.mayTurn (s : State) (cx : Nat) : Bool :=
  s.holds cx && !(s.ctx cx).drain && (!isMemCtx cx || (s.mcore (memCoreOf cx)).inService)

/-- Do these words name a page of the vector pipe (R58, R226)? -/
def vecPipe (ws : List IWord) : Bool := decide (9 ≤ (pageOf ws).1 ∧ (pageOf ws).1 ≤ 11)

/-- Run the instruction that words at the pc of a context are, as if it issued now. -/
def runWords (cx : Nat) (ws : List IWord) (s : State) : Result :=
  let cur : Cur := { cx := cx, addr := (s.ctx cx).pc, len := ws.length, base := (pageOf ws).2, page := (pageOf ws).1 }
  match decode ws with
  | .ok i _ => exec i { s with cur := .core cur }
  | .illegal x => exec .illegalInstruction { s with cur := .core cur, arg := { i := x.detail, j := x.npre, k := x.page, w := x.base.setWidth 64 } }
  | .short => .next s

/-- Does an instruction that has been run wait? A context that WAITI or SLEEP has stopped has issued it. -/
def waitsAfter (cx : Nat) : Result → Bool
  | .next t => (t.ctx cx).wait.isSome && (t.ctx cx).pause == .none
  | _ => false

/-- Is a context ready: could its next instruction issue now, in completing or in trapping (R58, log 99)? One that WAITI or SLEEP has
stopped is not. -/
def State.isReady (s : State) (cx : Nat) : Bool :=
  s.mayTurn cx && (s.ctx cx).pause == .none &&
    (match State.fetchWords cx 5 s (s.ctx cx).pc [] with
     | .bad _ _ => true
     | .wait _ => false
     | .words s ws => !waitsAfter cx (runWords cx ws s))

/-- Pipe of the next instruction of a context, where its words can be fetched: true for the vector pipe (R153). -/
def State.pipeOf (s : State) (cx : Nat) : Option Bool :=
  match State.fetchWords cx 5 s (s.ctx cx).pc [] with
  | .words _ ws => some (vecPipe ws)
  | _ => none

/-- Does a ready context of the same core go first in a pipe (R58)? -/
def State.outranked (s : State) (cx : Nat) (vec : Bool) : Bool :=
  s.ctxs.any (fun x => x.1 != cx && coreOf x.1 == coreOf cx && x.2.ready && x.2.outranks (s.ctx cx) s.cycle && s.pipeOf x.1 == some vec)

/-- May a context issue in a pipe now (R58)? -/
def State.mayIssue (s : State) (cx : Nat) (vec : Bool) : Bool := !s.pipeUsed (coreOf cx) vec && !s.outranked cx vec

/-- The turn of a context: its next instruction is fetched, decoded and executed. One that waits leaves its pipe to another; so does
one that ends a WAITI or a SLEEP, which has issued; any other issues where its pipe is free and no other goes first (R58, log
99). -/
def issue (cx : Nat) (s : State) : Result :=
  if !s.mayTurn cx then .next s
  else
    match State.fetchWords cx 5 s (s.ctx cx).pc [] with
    | .wait s => .next (s.modCtx cx (fun c => c.waitAt s.cycle s.fresh c.pc 1 .other 0))
    | .bad s t => .next (s.trapEntry cx t (s.ctx cx).pc 0)
    | .words s ws =>
      let r := runWords cx ws s
      if (s.ctx cx).pause != .none || waitsAfter cx r then r
      else if !s.mayIssue cx (vecPipe ws) then .next s
      else match r with
        | .next t => .next (t.useCycle cx (vecPipe ws))
        | r => r

/-- Note which contexts are ready, and the cycle where that changes (R58). -/
def State.noteReady (s : State) : State :=
  { s with ctxs := s.ctxs.map (fun (x : Nat × Ctx) =>
      let b := s.isReady x.1
      (x.1, if x.2.ready = b then x.2 else { x.2 with ready := b, turned := s.cycle })) }

/-- Cores with a ready context, each once. -/
def State.readyCores (s : State) : List Nat := ((s.ctxs.filter (fun x => x.2.ready)).map (fun x => coreOf x.1)).eraseDups

/-- Of the cycles that pass, those in which a core has a ready context and issues nothing (R407): counter 1 (log 3). -/
def State.countStalls (s : State) (n : Nat) : State :=
  { s with perf := s.readyCores.foldl (fun p core =>
      aset p (core * 8 + 1) ((aget p (core * 8 + 1)).getD 0 + wordOfNat (n - b2n (s.pipeUsed core false || s.pipeUsed core true)))) s.perf }

/-- The end of a step: the contexts that are ready are noted, and time passes (log 3). -/
def State.tick (s : State) : State :=
  let s := s.noteReady
  let n := Config.elapsed s.fresh
  { s.countStalls n with cycle := s.cycle + n, fresh := s.fresh + 1, cur := .none, arg := {} }

end Sys2Proof.Machine
end

