-- ==== Sys2Proof/Machine/Step.lean ====
section
/-!
DEFINITION. One step of the package: one turn of one agent (log 2), and the state with a given first instruction.
-/

namespace Sys2Proof.Machine

/-- The turn of a step: the next of the agenda, else the free choice (log 2). -/
def State.turn (s : State) : Turn × State :=
  match s.agenda with
  | [] => (Config.nextTurn s.fresh, s)
  | t :: ts => (t, { s with agenda := ts })

/-- What a turn does. -/
def takeTurn (t : Turn) (s : State) : Result :=
  match t with
  | .issue cx => issue cx s
  | .mason cl =>
    match s.masonTurn (cl % 16) with
    | .done s => .next s
    | .run i => exec i { s with cur := .mason (cl % 16) }
  | .event i x => if isEvent i then exec i { s with cur := .event, arg := x } else .next s

/-- One step. -/
def step (s : State) : Result :=
  let (t, s) := s.turn
  match takeTurn t s with
  | .next s => .next s.tick
  | r => r

/-- The state with a micro-instruction in word 0 of the control store of cluster 0, a job running there, and its turn
chosen (log 1). -/
def State.withMicroWord (s : State) (w : Word) : State :=
  { s with
    clusters := s.clusters.set 0 { s.clusters[0] with inService := true, mason := { store := [(0, w)], run := some {} } }
    agenda := [.mason 0] }

/-- The state with the instruction of a table word laid out so that the next step runs it (log 1): a task in context 0 of
core 0, its code page mapped, and its turn chosen. A word of 64 bits is a word of a mason's control store. -/
def State.withFetchWord (s : State) (nbits w : Nat) : State :=
  if nbits = 64 then s.withMicroWord (wordOfNat w) else
  let ws := tableOrder nbits w ++ List.replicate 5 0
  let c : Ctx := startCtx 0 0 0 {}
  { s with
    mem := putWords (codeTables s.mem) codeBase ws
    regs := { s.regs with gvtbRoot := 0, gvtbEn := true }
    ctxs := aset s.ctxs 0 { c with uid := s.nextUid }
    nextUid := s.nextUid + 1
    clusters := s.clusters.set 0 { s.clusters[0] with
      inService := true, yard := aset s.clusters[0].yard 0 { uid := s.nextUid, place := .running 0 } }
    agenda := [.issue 0] }

end Sys2Proof.Machine
end

