-- ==== Sys2Proof/Safety.lean ====
section
/-!
DEFINITION. The terms in which claims are stated: when an instruction issues, what completing it leaves, what stays as it
was, and what a well-kept state is.
-/

namespace Sys2Proof.Machine

/-! ## Issuing (R58, R170, R391) -/

/-- The turn is that of the instruction at c, and its context holds a task. -/
def State.Issues (s : State) (c : Cur) : Prop := s.cur = .core c ∧ s.holds c.cx = true

/-- A register that can be read: full, and not failed (R168, R391). -/
def Ctx.Ready (x : Ctx) (r : BitVec 6) : Prop := x.fullS r = true ∧ x.failS r = false

/-- No step trap follows the instruction: supervisor mode, or STEP = 0 (R390). -/
def Ctx.NoStep (x : Ctx) : Prop := x.super = true ∨ x.csrs.trapctl.getLsbD 2 = false

/-- The instruction at c issues with the sources given ready, and no step trap follows. -/
def State.Runs (s : State) (c : Cur) (srcs : List (BitVec 6)) : Prop :=
  s.Issues c ∧ (∀ r ∈ srcs, (s.ctx c.cx).Ready r) ∧ (s.ctx c.cx).NoStep

/-- The turn is that of an event of the device with these operands. -/
def State.Happens (s : State) (x : EvArg) : Prop := s.cur = .event ∧ s.arg = x

/-! ## What stays as it was -/

/-- Everything of the package but one context, the event counters, the requests that the context has made of other packages and the
denials that its instruction has logged (R103), and the flits counted and kept for replay on the links between dies (R122, R441):
every other context, every byte of memory, every register and table. -/
structure SameElse (s t : State) (cx : Nat) : Prop where
  all : { t with ctxs := s.ctxs, perf := s.perf, net := s.net, opDenials := s.opDenials } = s
  net : { t.net with fwds := s.net.fwds, dieFlits := s.net.dieFlits, lanes := s.net.lanes } = s.net
  torus : ∀ n, n < 24 → aget t.net.lanes n = aget s.net.lanes n
  contexts : ∀ k, k ≠ cx → aget t.ctxs k = aget s.ctxs k
  memory : ∀ a, memByte t.mem a = memByte s.mem a

/-- A context without what an instruction that computes may change: the pc, the registers, the flags, the hardware loop's
count, the region record, the effective priority, and the record of waiting. -/
def Ctx.rest (x : Ctx) : Ctx :=
  { x with
    pc := 0, sregs := Vector.replicate 64 {}, vregs := Vector.replicate 32 0, region := {}, wait := none, carry := none, since := 0
    csrs := { x.csrs with fcsr := 0, lcnt := 0, eff := 0 } }

/-- The pc after an instruction of len words at addr that does not transfer control, with the hardware loop (R191). -/
def Ctx.pcAfter (x : Ctx) (addr : Word) (len : Nat) : Word :=
  if addr = x.csrs.lend ∧ x.csrs.lcnt ≠ 0 then
    (if x.csrs.lcnt = 1 then addr + wordOfNat (16 * len) else x.csrs.lbeg &&& ~~~(0xF : Word))
  else addr + wordOfNat (16 * len)

/-- The loop count after it (R191). -/
def Ctx.countAfter (x : Ctx) (addr : Word) : Word :=
  if addr = x.csrs.lend ∧ x.csrs.lcnt ≠ 0 then x.csrs.lcnt - 1 else x.csrs.lcnt

/-- The region record that a boundary at the pc of y opens, with every register live (R53). -/
def Ctx.opened (y : Ctx) : Region :=
  { entry := y.pc, lcnt := y.csrs.lcnt, lbeg := y.csrs.lbeg, lend := y.csrs.lend, fcsr := y.csrs.fcsr }

/-! ## What completing an instruction leaves -/

/-- An instruction that writes v to scalar register d, raises flags, and goes on; bd says that it is a region boundary. -/
structure WroteS (s t : State) (c : Cur) (d : BitVec 6) (v : Word) (flags : BitVec 6) (bd : Bool) : Prop where
  value : (t.ctx c.cx).readS d = if d = 0 then 0 else v
  full : (t.ctx c.cx).fullS d = true
  others : ∀ r, r ≠ d → (t.ctx c.cx).sreg r = (s.ctx c.cx).sreg r
  vectors : (t.ctx c.cx).vregs = (s.ctx c.cx).vregs
  flags : (t.ctx c.cx).csrs.fcsr = (s.ctx c.cx).csrs.fcsr ||| flags.setWidth 64
  pc : (t.ctx c.cx).pc = (s.ctx c.cx).pcAfter c.addr c.len
  count : (t.ctx c.cx).csrs.lcnt = (s.ctx c.cx).countAfter c.addr
  region : (t.ctx c.cx).region = if bd then (t.ctx c.cx).opened else (s.ctx c.cx).region
  rest : (t.ctx c.cx).rest = (s.ctx c.cx).rest
  same : SameElse s t c.cx

/-- An instruction that writes v to vector register d, raises flags, and goes on. -/
structure WroteV (s t : State) (c : Cur) (d : BitVec 6) (v : BitVec 4096) (flags : BitVec 6) : Prop where
  value : (t.ctx c.cx).readV d = v
  others : ∀ r : BitVec 6, r.toNat % 32 ≠ d.toNat % 32 → (t.ctx c.cx).readV r = (s.ctx c.cx).readV r
  scalars : (t.ctx c.cx).sregs = (s.ctx c.cx).sregs
  flags : (t.ctx c.cx).csrs.fcsr = (s.ctx c.cx).csrs.fcsr ||| flags.setWidth 64
  pc : (t.ctx c.cx).pc = (s.ctx c.cx).pcAfter c.addr c.len
  count : (t.ctx c.cx).csrs.lcnt = (s.ctx c.cx).countAfter c.addr
  region : (t.ctx c.cx).region = (s.ctx c.cx).region
  rest : (t.ctx c.cx).rest = (s.ctx c.cx).rest
  same : SameElse s t c.cx

/-- A transfer of control to a target: the pc alone moves, and the hardware loop does not act (R191). -/
structure Jumped (s t : State) (c : Cur) (target : Word) : Prop where
  pc : (t.ctx c.cx).pc = target
  scalars : (t.ctx c.cx).sregs = (s.ctx c.cx).sregs
  vectors : (t.ctx c.cx).vregs = (s.ctx c.cx).vregs
  csrs : { (t.ctx c.cx).csrs with eff := (s.ctx c.cx).csrs.eff } = (s.ctx c.cx).csrs
  region : (t.ctx c.cx).region = (s.ctx c.cx).region
  rest : (t.ctx c.cx).rest = (s.ctx c.cx).rest
  same : SameElse s t c.cx

/-- An instruction that changes no register of its context and goes on; bd says that it is a region boundary. -/
structure WentOn (s t : State) (c : Cur) (bd : Bool) : Prop where
  scalars : (t.ctx c.cx).sregs = (s.ctx c.cx).sregs
  vectors : (t.ctx c.cx).vregs = (s.ctx c.cx).vregs
  flags : (t.ctx c.cx).csrs.fcsr = (s.ctx c.cx).csrs.fcsr
  pc : (t.ctx c.cx).pc = (s.ctx c.cx).pcAfter c.addr c.len
  count : (t.ctx c.cx).csrs.lcnt = (s.ctx c.cx).countAfter c.addr
  region : (t.ctx c.cx).region = if bd then (t.ctx c.cx).opened else (s.ctx c.cx).region
  rest : (t.ctx c.cx).rest = (s.ctx c.cx).rest

/-- An instruction that makes the change f to its context, and goes on: f may change what `Ctx.rest` keeps, and nothing that the
hardware loop reads. -/
structure Did (s t : State) (c : Cur) (bd : Bool) (f : Ctx → Ctx) : Prop where
  scalars : (t.ctx c.cx).sregs = (f (s.ctx c.cx)).sregs
  vectors : (t.ctx c.cx).vregs = (f (s.ctx c.cx)).vregs
  flags : (t.ctx c.cx).csrs.fcsr = (f (s.ctx c.cx)).csrs.fcsr
  pc : (t.ctx c.cx).pc = (f (s.ctx c.cx)).pcAfter c.addr c.len
  count : (t.ctx c.cx).csrs.lcnt = (f (s.ctx c.cx)).countAfter c.addr
  region : (t.ctx c.cx).region = if bd then (t.ctx c.cx).opened else (s.ctx c.cx).region
  rest : (t.ctx c.cx).rest = (f (s.ctx c.cx)).rest

/-! ## Traps (R393) -/

/-- A handler takes the traps of the context: none runs there already, and the trap block names one (R393, R394). -/
def State.Handles (s : State) (cx : Nat) : Prop := (s.ctx cx).csrs.trapctl.getLsbD 7 = false ∧ s.trapVec cx ≠ 0

/-- Trap entry, from an instruction at pc of len words (R390, R393). -/
structure Trapped (s t : State) (cx : Nat) (k : Trap) (pc : Word) (len : Nat) : Prop where
  cause : (t.ctx cx).csrs.trapcause = BitVec.ofNat 64 (k.cause + k.detail * 2 ^ 8 + (if k.fetch then 2 ^ 16 else 0) + k.lane * 2 ^ 24)
  trappc : (t.ctx cx).csrs.trappc = pc
  trapval : (t.ctx cx).csrs.trapval = k.val
  pc : (t.ctx cx).pc = s.trapVec cx >>> 4 <<< 4
  mode : (t.ctx cx).super = true
  nest : (t.ctx cx).csrs.trapctl.getLsbD 7 = true
  words : ((t.ctx cx).csrs.trapctl.extractLsb' 4 3).toNat = len % 8
  prior : (t.ctx cx).csrs.trapctl.getLsbD 1 = (s.ctx cx).super
  kept : (t.ctx cx).csrs.trapctl.extractLsb' 2 2 = (s.ctx cx).csrs.trapctl.extractLsb' 2 2
  reserved : (t.ctx cx).csrs.trapctl.extractLsb' 8 56 = 0
  scalars : (t.ctx cx).sregs = (s.ctx cx).sregs
  vectors : (t.ctx cx).vregs = (s.ctx cx).vregs
  csrs : { (t.ctx cx).csrs with trapcause := 0, trappc := 0, trapval := 0, trapctl := 0 } =
    { (s.ctx cx).csrs with trapcause := 0, trappc := 0, trapval := 0, trapctl := 0 }
  region : (t.ctx cx).region = (t.ctx cx).opened
  rest : { t.ctx cx with pc := 0, csrs := {}, region := {}, wait := none, since := 0 } =
    { s.ctx cx with pc := 0, csrs := {}, region := {}, wait := none, since := 0 }
  same : SameElse s t cx

/-- The context waits at the instruction at c, and nothing else has happened: its registers, its pc, all else of the package
stand, and its next turn issues the instruction again. -/
structure Waits (s t : State) (c : Cur) (k : WaitKind) : Prop where
  waits : ∃ w, (t.ctx c.cx).wait = some w ∧ w.kind = k ∧ w.pc = c.addr
  rest : { t.ctx c.cx with wait := (s.ctx c.cx).wait, carry := (s.ctx c.cx).carry } = s.ctx c.cx
  package : { t with ctxs := s.ctxs } = s
  contexts : ∀ n, n ≠ c.cx → aget t.ctxs n = aget s.ctxs n

/-- Memory after an instruction is memory before it outside n bytes from a. -/
def SameOutside (s t : State) (a n : Nat) : Prop := ∀ b, b < a ∨ a + n ≤ b → memByte t.mem b = memByte s.mem b

/-! ## Well-kept states -/

/-- Memory in its canonical form. -/
def State.memoryOk (s : State) : Bool := memOk s.mem

end Sys2Proof.Machine
end

