-- ==== Sys2Proof/WellFormed.lean ====
section
/-!
DEFINITION. Well-formed instructions: operands that the encoding admits (R155 to R163, R342).
-/

namespace Sys2Proof

/-- The instruction has an encoding: its registers, immediate and controls are ones its entry allows, and they fit four
prefix words. An event has no words and no such limits. -/
def Instr.wellFormed (i : Instr) : Bool :=
  match rowOf? i with
  | some (r, o) => r.opsWf o
  | none => microWf i

end Sys2Proof
end

