-- ==== Sys2Proof/Certificates/Slice0/Obligations.lean ====
section
/-!
DEFINITION. The statements for the provers. The clauses stand first, each under a name of Sys2Proof.Claims with the rules
that it states; the obligations at the end name them together.
-/

namespace Sys2Proof.Claims

open Sys2Proof.Machine

/-! ## Scalar arithmetic (R179 to R188) -/

/-- The smaller and the larger of two words in an order. -/
def pick (le : Word → Word → Prop) [DecidableRel le] (x y : Word) : Word := if le x y then x else y

/-- A truth value as a result. -/
def truth (p : Prop) [Decidable p] : Word := if p then 1 else 0

/-- The register-register operations of R179 that raise no flag, with the result of each. -/
def binaryOps : List ((Ops → Instr) × (Word → Word → Word)) :=
  [(.add, fun x y => x + y), (.sub, fun x y => x - y), (.and, fun x y => x &&& y), (.or, fun x y => x ||| y), (.xor, fun x y => x ^^^ y),
   (.mul, fun x y => x * y),
   (.mulh, fun x y => BitVec.ofInt 64 (x.toInt * y.toInt / 2 ^ 64)),
   (.mulhn, fun x y => BitVec.ofNat 64 (x.toNat * y.toNat / 2 ^ 64)),
   (.min, fun x y => if x.toInt ≤ y.toInt then x else y), (.max, fun x y => if x.toInt ≤ y.toInt then y else x),
   (.minn, fun x y => if x.toNat ≤ y.toNat then x else y), (.maxn, fun x y => if x.toNat ≤ y.toNat then y else x),
   (.sll, fun x y => x <<< (y.toNat % 64)), (.srl, fun x y => x >>> (y.toNat % 64)),
   (.sra, fun x y => x.sshiftRight (y.toNat % 64)), (.ror, fun x y => x.rotateRight (y.toNat % 64)),
   (.seq, fun x y => truth (x = y)), (.sne, fun x y => truth (x ≠ y)),
   (.slt, fun x y => truth (x.toInt < y.toInt)), (.sltn, fun x y => truth (x.toNat < y.toNat))]

/-- The divisions of R179, with the result and the flags of each (R130): a zero divisor gives all ones, or the dividend,
and sets DZ. -/
def divisionOps : List ((Ops → Instr) × (Word → Word → Word)) :=
  [(.div, fun x y => if y = 0 then -1 else BitVec.ofInt 64 (x.toInt.tdiv y.toInt)),
   (.divn, fun x y => if y = 0 then -1 else BitVec.ofNat 64 (x.toNat / y.toNat)),
   (.rem, fun x y => if y = 0 then x else BitVec.ofInt 64 (x.toInt.tmod y.toInt)),
   (.remn, fun x y => if y = 0 then x else BitVec.ofNat 64 (x.toNat % y.toNat))]

/-- The immediate forms of R180 that read register a. -/
def immediateOps : List ((Ops → Instr) × (Word → Word → Word)) :=
  [(.addi, fun x i => x + i), (.slli, fun x i => x <<< i.toNat), (.srli, fun x i => x >>> i.toNat),
   (.srai, fun x i => x.sshiftRight i.toNat), (.andi, fun x i => x &&& i), (.ori, fun x i => x ||| i), (.xori, fun x i => x ^^^ i),
   (.slti, fun x i => truth (x.toInt < i.toInt))]

/-- The operations on register a alone (R181, R182, R185, R186), with the result for a width class. -/
def unaryOps : List ((Ops → Instr) × (Nat → Word → Word)) :=
  [(.mov, fun _ x => x), (.not, fun _ x => -1 - x), (.neg, fun _ x => 0 - x), (.abs, fun _ x => BitVec.ofNat 64 x.toInt.natAbs),
   (.zext, fun w x => BitVec.ofNat 64 (x.toNat % 2 ^ w)), (.baln, fun w x => x - BitVec.ofNat 64 (x.toNat % w)),
   (.by2b, fun _ x => x * 8), (.bb2y, fun _ x => BitVec.ofNat 64 (x.toNat / 8))]

/-- The operations on register d as well (R185), with the result for a width. -/
def addressOps : List ((Ops → Instr) × (Nat → Word → Word → Word)) :=
  [(.badv, fun w d x => d + x * BitVec.ofNat 64 w), (.brtv, fun w d x => d - x * BitVec.ofNat 64 w),
   (.bdiff, fun w d x => BitVec.ofInt 64 ((d - x).toInt / w))]

/-- The one bits of a word below position n. -/
def onesBelow (m : Word) (n : Nat) : Nat := (List.range n).countP (fun i => m.getLsbD i)

/-! ## Transfers (R181, R189) -/

/-- The branches of R189 on one register, with the condition of each. -/
def branches1 : List ((Ops → Instr) × (Word → Prop)) := [(.beqz, fun x => x = 0), (.bnez, fun x => x ≠ 0)]

/-- The branches of R189 on two registers. -/
def branches2 : List ((Ops → Instr) × (Word → Word → Prop)) :=
  [(.beq, fun x y => x = y), (.bne, fun x y => x ≠ y), (.blt, fun x y => x.toInt < y.toInt), (.bge, fun x y => y.toInt ≤ x.toInt),
   (.bltn, fun x y => x.toNat < y.toNat), (.bgen, fun x y => y.toNat ≤ x.toNat), (.ball, fun x y => ∀ i < 64, y.getLsbD i = true → x.getLsbD i = true)]

/-- A branch at c: taken, the pc becomes addr + 16 × off; not taken, control goes on at next; no register changes. -/
def Branched (s t : State) (c : Cur) (off : Word) (taken : Prop) : Prop :=
  (taken → Jumped s t c (c.addr + 16 * off)) ∧ (¬ taken → WentOn s t c false ∧ SameElse s t c.cx)

/-- A call at c: register d takes the address after the instruction, control goes to the target. -/
structure Called (s t : State) (c : Cur) (d : BitVec 6) (target : Word) : Prop where
  link : (t.ctx c.cx).readS d = if d = 0 then 0 else c.addr + BitVec.ofNat 64 (16 * c.len)
  full : (t.ctx c.cx).fullS d = true
  others : ∀ r, r ≠ d → (t.ctx c.cx).sreg r = (s.ctx c.cx).sreg r
  vectors : (t.ctx c.cx).vregs = (s.ctx c.cx).vregs
  pc : (t.ctx c.cx).pc = target
  csrs : { (t.ctx c.cx).csrs with eff := (s.ctx c.cx).csrs.eff } = (s.ctx c.cx).csrs
  region : (t.ctx c.cx).region = (s.ctx c.cx).region
  rest : (t.ctx c.cx).rest = (s.ctx c.cx).rest
  same : SameElse s t c.cx

end Sys2Proof.Claims

open Sys2Proof Sys2Proof.Machine Sys2Proof.Claims

/-- R179: ADD, SUB, AND, OR, XOR, the multiplies, the minima and maxima, the shifts, ROR and the comparisons write their
result of S[a] and S[b] to S[d], raise no flag and change nothing else. -/
def Sys2Proof.Claims.RegisterOperationsWriteTheirResult : Prop :=
  ∀ row ∈ binaryOps, ∀ (o : Ops) (s : State) (c : Cur), s.Runs c [o.a, o.b] →
    ∃ t, exec (row.1 o) s = .next t ∧ WroteS s t c o.d (row.2 ((s.ctx c.cx).readS o.a) ((s.ctx c.cx).readS o.b)) 0 false

/-- R130, R179: DIV, DIVN, REM and REMN. -/
def Sys2Proof.Claims.DivisionsTruncateAndFlagZeroDivisors : Prop :=
  ∀ row ∈ divisionOps, ∀ (o : Ops) (s : State) (c : Cur), s.Runs c [o.a, o.b] →
    ∃ t, exec (row.1 o) s = .next t ∧
      WroteS s t c o.d (row.2 ((s.ctx c.cx).readS o.a) ((s.ctx c.cx).readS o.b)) (if (s.ctx c.cx).readS o.b = 0 then flagDZ else 0) false

/-- R180: ADDI, the shifts by an immediate, ANDI, ORI, XORI and SLTI; LI writes its immediate; LIH writes its immediate
above the low half of d. -/
def Sys2Proof.Claims.ImmediateFormsWriteTheirResult : Prop :=
  (∀ row ∈ immediateOps, ∀ (o : Ops) (s : State) (c : Cur), s.Runs c [o.a] →
    ∃ t, exec (row.1 o) s = .next t ∧ WroteS s t c o.d (row.2 ((s.ctx c.cx).readS o.a) o.imm) 0 false) ∧
  (∀ (o : Ops) (s : State) (c : Cur), s.Runs c [] → ∃ t, exec (.li o) s = .next t ∧ WroteS s t c o.d o.imm 0 false) ∧
  (∀ (o : Ops) (s : State) (c : Cur), s.Runs c [o.d] → ∃ t, exec (.lih o) s = .next t ∧
    WroteS s t c o.d (((o.imm.extractLsb' 0 32) ++ ((s.ctx c.cx).readS o.d).extractLsb' 0 32 : BitVec 64)) 0 false)

/-- R181, R182, R185, R186: the operations on one register, and those that also read d; SEXT writes the number that the
low w bits of S[a] are. -/
def Sys2Proof.Claims.UnaryAndAddressOperations : Prop :=
  (∀ row ∈ unaryOps, ∀ (o : Ops) (s : State) (c : Cur), s.Runs c [o.a] →
    ∃ t, exec (row.1 o) s = .next t ∧ WroteS s t c o.d (row.2 (classWidth o.f.toNat) ((s.ctx c.cx).readS o.a)) 0 false) ∧
  (∀ row ∈ addressOps, ∀ (o : Ops) (s : State) (c : Cur), s.Runs c [o.a, o.d] →
    ∃ t, exec (row.1 o) s = .next t ∧
      WroteS s t c o.d (row.2 (classWidth o.f.toNat) ((s.ctx c.cx).readS o.d) ((s.ctx c.cx).readS o.a)) 0 false) ∧
  (∀ (o : Ops) (s : State) (c : Cur), s.Runs c [o.a] → classWidth o.f.toNat ≠ 0 → ∃ t, exec (.sext o) s = .next t ∧
    WroteS s t c o.d (BitVec.ofInt 64 (Int.bmod ((s.ctx c.cx).readS o.a).toNat (2 ^ classWidth o.f.toNat))) 0 false)

/-- R181: CLZ and CTZ count the zero bits above and below the one bits, POPC the one bits, and BREV reverses. -/
def Sys2Proof.Claims.BitCountsAndReversal : Prop :=
  ∀ (o : Ops) (s : State) (c : Cur), s.Runs c [o.a] → ∀ x, x = (s.ctx c.cx).readS o.a →
    (∃ n ≤ 64, ∃ t, exec (.clz o) s = .next t ∧ WroteS s t c o.d (BitVec.ofNat 64 n) 0 false ∧
      (∀ i, i < n → x.getLsbD (63 - i) = false) ∧ (n < 64 → x.getLsbD (63 - n) = true)) ∧
    (∃ n ≤ 64, ∃ t, exec (.ctz o) s = .next t ∧ WroteS s t c o.d (BitVec.ofNat 64 n) 0 false ∧
      (∀ i, i < n → x.getLsbD i = false) ∧ (n < 64 → x.getLsbD n = true)) ∧
    (∃ t, exec (.popc o) s = .next t ∧ WroteS s t c o.d (BitVec.ofNat 64 (onesBelow x 64)) 0 false) ∧
    (∃ v t, exec (.brev o) s = .next t ∧ WroteS s t c o.d v 0 false ∧ ∀ i < 64, v.getLsbD i = x.getLsbD (63 - i))

/-- R182: BEXT packs the bits of S[a] at the positions set in S[b] into the low bits in ascending order, the other bits
being 0; BDEP places the low bits of S[a] at those positions in ascending order, the other bits being 0. -/
def Sys2Proof.Claims.BitExtractAndDeposit : Prop :=
  ∀ (o : Ops) (s : State) (c : Cur), s.Runs c [o.a, o.b] → ∀ x m, x = (s.ctx c.cx).readS o.a → m = (s.ctx c.cx).readS o.b →
    (∃ v t, exec (.bext o) s = .next t ∧ WroteS s t c o.d v 0 false ∧
      (∀ i < 64, m.getLsbD i = true → v.getLsbD (onesBelow m i) = x.getLsbD i) ∧ (∀ k, onesBelow m 64 ≤ k → v.getLsbD k = false)) ∧
    (∃ v t, exec (.bdep o) s = .next t ∧ WroteS s t c o.d v 0 false ∧
      ∀ i < 64, v.getLsbD i = (m.getLsbD i && x.getLsbD (onesBelow m i)))

/-- R182, R183, R186: SEL chooses by S[c], with S[c] of s0 choosing S[b]; ADDPC adds 16 × imm to the address of the
instruction; WFLD writes field j of the work identifier, from the CSR wid where a = 0: bits o to o + fw(j) − 1 of it, no
higher than bit 63, o being the sum of the widths before j, each at most 64. -/
def Sys2Proof.Claims.SelectAndFieldExtraction : Prop :=
  (∀ (o : Ops) (s : State) (c : Cur), s.Runs c [o.a, o.b, o.c] → ∃ t, exec (.sel o) s = .next t ∧
    WroteS s t c o.d (if (s.ctx c.cx).readS o.c = 0 then (s.ctx c.cx).readS o.b else (s.ctx c.cx).readS o.a) 0 false) ∧
  (∀ (o : Ops) (s : State) (c : Cur), s.Runs c [] → ∃ t, exec (.addpc o) s = .next t ∧ WroteS s t c o.d (c.addr + 16 * o.imm) 0 false) ∧
  (∀ (o : Ops) (s : State) (c : Cur), s.Runs c [o.a] → ∀ src fw pos,
    src = (if o.a = 0 then (s.ctx c.cx).csrs.wid else (s.ctx c.cx).readS o.a) →
    (∀ k, fw k = min ((s.ctx c.cx).csrs.wfmt.toNat / 2 ^ (7 * k) % 128) 64) → pos = ((List.range o.f.toNat).map fw).sum →
    ∃ t, exec (.wfld o) s = .next t ∧
      WroteS s t c o.d (if pos > 63 then 0 else BitVec.ofNat 64 (src.toNat / 2 ^ pos % 2 ^ fw o.f.toNat)) 0 false)

/-- R185: the result word of BCHK: the space of the address, natural alignment, and whether the access lies in one granule. -/
def Sys2Proof.Claims.AddressCheckWord : Prop :=
  ∀ (o : Ops) (s : State) (c : Cur), s.Runs c [o.a] → o.f ≠ 15 → ∀ x w, x = (s.ctx c.cx).readS o.a → w = classWidth o.f.toNat →
    ∃ v t, exec (.bchk o) s = .next t ∧ WroteS s t c o.d v 0 false ∧
      v.toNat / 4 = (if x.getLsbD 63 then 2 else if x.getLsbD 62 then 1 else 0) ∧
      (v.getLsbD 1 = true ↔ (∃ k, w = 2 ^ k) ∧ x.toNat % w = 0) ∧
      (v.getLsbD 0 = true ↔ w ≤ 64 ∧ x.toNat / 64 = (x.toNat + w - 1) / 64)

/-- R187: BMKL's address, field by field. -/
def Sys2Proof.Claims.WindowAddressBuilder : Prop :=
  ∀ (o : Ops) (s : State) (c : Cur), s.Runs c [o.a, o.b] → ∀ q b, q = (s.ctx c.cx).readS o.a → b = (s.ctx c.cx).readS o.b →
    ∃ t, exec (.bmkl o) s = .next t ∧
      WroteS s t c o.d
        ((1 : BitVec 1) ++ q.extractLsb' 10 3 ++ q.extractLsb' 14 12 ++ q.extractLsb' 6 4 ++
          (if q.getLsbD 13 then 0 else q.extractLsb' 0 6 : BitVec 6) ++ q.extractLsb' 13 1 ++ q.extractLsb' 26 1 ++ (0 : BitVec 13) ++ b.extractLsb' 0 23) 0 false

namespace Sys2Proof.Claims

open Sys2Proof.Machine

/-! ## Window addresses (R62, R63, R68, R69) -/

/-- The bits of a local-window address: its window, its offset field, and after placement its core and in-core offset. -/
def winOf (x : Word) : Nat := (x.extractLsb' 60 3).toNat
def ofsOf (x : Word) : BitVec 23 := x.extractLsb' 0 23
def coreAt (x : Word) : BitVec 10 := if x.getLsbD 37 then x.extractLsb' 44 4 ++ x.extractLsb' 6 6 else x.extractLsb' 38 10
def incoreAt (x : Word) : BitVec 23 := if x.getLsbD 37 then (0 : BitVec 6) ++ x.extractLsb' 12 11 ++ x.extractLsb' 0 6 else ofsOf x
def pkgAt (s : State) (x : Word) : Nat := if x.getLsbD 36 then s.sys.self else (x.extractLsb' 48 12).toNat

/-- The address is in local window space and in range (R63): a window that exists, bits [35:23] zero, a package of the
system, and an offset within the window's span; the full/empty window is not interleaved (R75). -/
def InRange (s : State) (x : Word) : Prop :=
  x.getLsbD 63 = true ∧ winOf x < 4 ∧ x.extractLsb' 23 13 = 0 ∧ s.knows (pkgAt s x) = true ∧
    (if x.getLsbD 37 then winOf x ≠ 3 else (ofsOf x).toNat < windowSpan (winOf x))

/-- The blocked and the interleaved address of the bit that an address names (R188). -/
def blockedAddr (x : Word) : Word :=
  x.extractLsb' 48 16 ++ coreAt x ++ (0 : BitVec 1) ++ x.extractLsb' 36 1 ++ (0 : BitVec 13) ++ incoreAt x
def interleavedAddr (x : Word) : Word :=
  x.extractLsb' 48 16 ++ (coreAt x).extractLsb' 6 4 ++ (0 : BitVec 6) ++ (1 : BitVec 1) ++ x.extractLsb' 36 1 ++ (0 : BitVec 13) ++
    (incoreAt x).extractLsb' 6 11 ++ (coreAt x).extractLsb' 0 6 ++ (incoreAt x).extractLsb' 0 6

/-! ## CSRs (R169) -/

/-- The CSRs by number: what each reads as. -/
def csrTable : List (Nat × (State → Nat → Word)) :=
  [(0x00, fun s cx => (s.ctx cx).csrs.vshape), (0x01, fun s cx => (s.ctx cx).csrs.mshape), (0x02, fun s cx => (s.ctx cx).csrs.fcsr),
   (0x03, fun s cx => (s.ctx cx).csrs.lcnt), (0x04, fun s cx => (s.ctx cx).csrs.lbeg), (0x05, fun s cx => (s.ctx cx).csrs.lend),
   (0x06, fun s cx => (s.ctx cx).csrs.wid), (0x07, fun s cx => (s.ctx cx).csrs.wfmt), (0x08, fun s cx => (s.ctx cx).csrs.twt),
   (0x09, fun s cx => (s.ctx cx).csrs.kst), (0x0A, fun s cx => (s.ctx cx).csrs.sid), (0x0B, fun s cx => (s.ctx cx).csrs.ident.setWidth 64),
   (0x0C, fun s cx => (((s.ctx cx).csrs.eff ++ (s.ctx cx).csrs.base : BitVec 4)).setWidth 64), (0x0D, fun s _ => BitVec.ofNat 64 s.cycle),
   (0x0E, fun _ cx => BitVec.ofNat 64 (if 8192 ≤ cx then cx - 8192 else cx)), (0x10, fun s cx => (s.ctx cx).csrs.trapcause), (0x11, fun s cx => (s.ctx cx).csrs.trappc),
   (0x12, fun s cx => (s.ctx cx).csrs.trapval), (0x13, fun s cx => (s.ctx cx).csrs.trapctl)]

/-- A vshape that names an element type and no more than 64 elements (R226). -/
def shapeOk (v : Word) : Bool :=
  decide (v.toNat / 2 ^ 18 = 0 ∧ v.getLsbD 5 = false ∧ v.toNat % 32 ≤ 18 ∧
    (v.toNat / 64 % 64 + 1) * (if v.toNat / 2 ^ 12 % 64 = 0 then 64 else v.toNat / 2 ^ 12 % 64) ≤ 64)

/-- CSRs that CSRW writes without other effect: number, supervisor only, and what a value v makes of old contents. trapctl has
STEP and PM written and NTF cleared by 1 (R390). -/
def csrWrites : List (Nat × Bool × (Word → Word → Word)) :=
  [(0x00, false, fun old v => if shapeOk v then v else old), (0x01, false, fun old v => if v.toNat % 16 ≤ 6 then v else old),
   (0x02, false, fun _ v => v &&& 0x3F), (0x03, false, fun _ v => v), (0x04, false, fun _ v => v), (0x05, false, fun _ v => v),
   (0x06, false, fun _ v => v), (0x07, false, fun _ v => v &&& 0x3FFFFFFFFFF), (0x0A, false, fun _ v => v &&& 0xFFFFFFFF),
   (0x08, true, fun _ v => v), (0x09, true, fun _ v => v), (0x0C, true, fun _ v => BitVec.ofNat 64 (v.toNat % 4 * 5)),
   (0x10, true, fun _ v => v &&& 0x3F01FFFF), (0x11, true, fun _ v => v), (0x12, true, fun _ v => v),
   (0x13, true, fun old v => (old &&& ~~~(6 : Word) &&& ~~~(v &&& 8)) ||| (v &&& 6))]

/-- Page 17, RTT and WAITI: the instructions of supervisor mode (R166, R193). -/
def privileged : List (Ops → Instr) :=
  [.tlbinvGpage, .tlbinvSid, .tlbinvIdent, .idset, .ctxsave, .ctxloadRelease, .ctxloadKill, .pcnt, .sleep, .pgmov, .cldrainDrain,
   .cldrainResume, .cldrainWipe, .elogr, .waiti, fun _ => .rtt, fun _ => .tlbinvGall, fun _ => .tlbinvSall, fun _ => .tlbinvIall,
   fun _ => .tlbinvAll]

/-- The instructions of pages 12 to 16 and MCAST, which no memory core has (R166, R222). -/
def coresOnly : List (Ops → Instr) :=
  [.mcast, .mmaBf16, .mmaF16, .mmaF32, .mmaE4m3, .mmaE5m2, .mmaE4m3e5m2, .mmaI8, .mmaI8n8, .mmaE2m3, .mmaE3m2, .mmaQ4, .mmaQ4e4m3,
   .mmaBf16q4, .mmaI4, .mmaI3i8, .smmaBf16, .smmaE4m3, .smmaQ4, .mshape, .mmapAllocate, .mmapFree, .mzero, .snew, .sfork, .sprune,
   .sjgrp, .sjoin, .sstep, .saqp, .saqw, .shz, .shzd, .smig, .smapFresh, .smapShare, .smapUnmap, .smapFrame, .send, .epopl, .epost,
   .epostv, .erun, .etick, .edrain, .aload, .ago, .astat, .astop]

/-- The trap of an illegal instruction at c (R392, R403). -/
def illegalAt (c : Cur) (detail : Nat) : Trap :=
  { cause := 0x01, detail := detail, val := BitVec.ofNat 64 (c.base.toNat + (c.len - 1) * 2 ^ 16 + c.page * 2 ^ 20) }

end Sys2Proof.Claims

open Sys2Proof Sys2Proof.Machine Sys2Proof.Claims

/-- R63, R68, R188: BCORE reads the core, in-core offset, package and window of an address in range; BPLC writes its blocked
or its interleaved address; every other address gives all ones. -/
def Sys2Proof.Claims.WindowAddressReaders : Prop :=
  ∀ (o : Ops) (s : State) (c : Cur), s.Runs c [o.a] → o.f.toNat < 4 → ∀ x, x = (s.ctx c.cx).readS o.a →
    (∃ v t, exec (.bcore o) s = .next t ∧ WroteS s t c o.d v 0 false ∧ (¬ InRange s x → v = -1) ∧
      (InRange s x → v = if o.f = 0 then (coreAt x).setWidth 64 else if o.f = 1 then (incoreAt x).setWidth 64
        else if o.f = 2 then BitVec.ofNat 64 (pkgAt s x) else BitVec.ofNat 64 (winOf x))) ∧
    (o.f.toNat < 2 → ∃ v t, exec (.bplc o) s = .next t ∧ WroteS s t c o.d v 0 false ∧ (¬ InRange s x → v = -1) ∧
      (InRange s x → v = if o.f = 0 then (if x.getLsbD 37 then blockedAddr x else x)
        else if x.getLsbD 37 then x else if 2 ^ 17 ≤ (incoreAt x).toNat ∨ winOf x = 3 then -1 else interleavedAddr x))

/-- R189: a branch whose condition holds goes to addr + 16 × off, another goes on; none changes a register. -/
def Sys2Proof.Claims.BranchesFollowTheirCondition : Prop :=
  (∀ row ∈ branches1, ∀ (o : Ops) (s : State) (c : Cur), s.Runs c [o.a] →
    ∃ t, exec (row.1 o) s = .next t ∧ Branched s t c o.imm (row.2 ((s.ctx c.cx).readS o.a))) ∧
  (∀ row ∈ branches2, ∀ (o : Ops) (s : State) (c : Cur), s.Runs c [o.a, o.b] →
    ∃ t, exec (row.1 o) s = .next t ∧ Branched s t c o.imm (row.2 ((s.ctx c.cx).readS o.a) ((s.ctx c.cx).readS o.b)))

/-- R181, R189: J, CALL, JR, JALR and RET; the register targets have bits [3:0] cleared, and JALR reads a before it writes d. -/
def Sys2Proof.Claims.JumpsAndCallsTransferControl : Prop :=
  (∀ (o : Ops) (s : State) (c : Cur), s.Runs c [] → ∃ t, exec (.j o) s = .next t ∧ Jumped s t c (c.addr + 16 * o.imm)) ∧
  (∀ (o : Ops) (s : State) (c : Cur), s.Runs c [] → ∃ t, exec (.call o) s = .next t ∧ Called s t c 63 (c.addr + 16 * o.imm)) ∧
  (∀ (o : Ops) (s : State) (c : Cur), s.Runs c [o.a] → ∃ t, exec (.jr o) s = .next t ∧ Jumped s t c ((s.ctx c.cx).readS o.a >>> 4 <<< 4)) ∧
  (∀ (o : Ops) (s : State) (c : Cur), s.Runs c [o.a] → ∃ t, exec (.jalr o) s = .next t ∧ Called s t c o.d ((s.ctx c.cx).readS o.a >>> 4 <<< 4)) ∧
  (∀ (s : State) (c : Cur), s.Runs c [63] → ∃ t, exec .ret s = .next t ∧ Jumped s t c ((s.ctx c.cx).readS 63 >>> 4 <<< 4))

/-- R191: LOOP with a count other than 0 sets lend, lbeg and lcnt and goes on at next; where it stands at the old lend, its
own check lowers the new count. With a count of 0 it goes on behind the instruction at lend. An offset below its own length
is reserved. -/
def Sys2Proof.Claims.LoopSetsUpOneLevel : Prop :=
  ∀ (o : Ops) (s : State) (c : Cur), s.Runs c [o.a] → c.addr.extractLsb' 0 4 = 0 →
    ∀ n next, n = (s.ctx c.cx).readS o.a → next = c.addr + BitVec.ofNat 64 (16 * c.len) →
    ((c.len : Int) ≤ o.imm.toInt → n ≠ 0 → ∃ t, exec (.loop o) s = .next t ∧
      (t.ctx c.cx).csrs.lend = c.addr + 16 * o.imm ∧ (t.ctx c.cx).csrs.lbeg = next ∧
      (t.ctx c.cx).csrs.lcnt = (if c.addr = (s.ctx c.cx).csrs.lend then n - 1 else n) ∧ (t.ctx c.cx).pc = next ∧
      (t.ctx c.cx).sregs = (s.ctx c.cx).sregs ∧ (t.ctx c.cx).vregs = (s.ctx c.cx).vregs ∧ SameElse s t c.cx) ∧
    ((c.len : Int) ≤ o.imm.toInt → n = 0 → ∀ u ws, State.fetchWords c.cx 5 s (c.addr + 16 * o.imm) [] = .words u ws →
      ∃ t, exec (.loop o) s = .next t ∧ ((u.holds c.cx = true ∧ u.ctx c.cx = s.ctx c.cx) →
      (t.ctx c.cx).csrs.lend = c.addr + 16 * o.imm ∧ (t.ctx c.cx).csrs.lbeg = next ∧ (t.ctx c.cx).csrs.lcnt = 0 ∧
      (t.ctx c.cx).pc = c.addr + 16 * o.imm + BitVec.ofNat 64 (16 * ((instrWords ws).getD ws.length)) ∧
      (t.ctx c.cx).sregs = (s.ctx c.cx).sregs ∧ (t.ctx c.cx).vregs = (s.ctx c.cx).vregs)) ∧
    (o.imm.toInt < (c.len : Int) → s.Handles c.cx → ∃ t, exec (.loop o) s = .next t ∧ Trapped s t c.cx (illegalAt c 3) c.addr c.len)

/-- R181, R191, R194: NOP changes nothing but the pc, with the check of the hardware loop; REGN opens a region at next with
the masks S[a] and the low 32 bits of S[b]; a register that is not live in and awaits a future abandons it, and is full and zero
(log 85), and the other registers keep their values. -/
def Sys2Proof.Claims.NopAndRegionMarks : Prop :=
  (∀ (s : State) (c : Cur), s.Runs c [] → ∃ t, exec .nop s = .next t ∧ WentOn s t c false ∧ SameElse s t c.cx ∧
    (c.addr = (s.ctx c.cx).csrs.lend → (s.ctx c.cx).csrs.lcnt ≠ 0 → (t.ctx c.cx).csrs.lcnt = (s.ctx c.cx).csrs.lcnt - 1 ∧
      ((s.ctx c.cx).csrs.lcnt ≠ 1 → (s.ctx c.cx).csrs.lbeg.extractLsb' 0 4 = 0 → (t.ctx c.cx).pc = (s.ctx c.cx).csrs.lbeg))) ∧
  (∀ (o : Ops) (s : State) (c : Cur), s.Runs c [o.a, o.b] → ∃ t, exec (.regn o) s = .next t ∧
    (t.ctx c.cx).region = { (t.ctx c.cx).opened with smask := (s.ctx c.cx).readS o.a, vmask := ((s.ctx c.cx).readS o.b).setWidth 32 } ∧
    (∀ r, (t.ctx c.cx).sreg r = if ((s.ctx c.cx).readS o.a).getLsbD r.toNat ∨ ((s.ctx c.cx).sreg r).full = true then (s.ctx c.cx).sreg r else {}) ∧
    (t.ctx c.cx).vregs = (s.ctx c.cx).vregs ∧ (t.ctx c.cx).pc = (s.ctx c.cx).pcAfter c.addr c.len ∧
    (t.ctx c.cx).rest = (s.ctx c.cx).rest ∧ SameElse s t c.cx)

/-- R169, R192: CSRR reads every assigned CSR, and takes the illegal-instruction trap, detail 6, for every other number. -/
def Sys2Proof.Claims.CsrReads : Prop :=
  (∀ row ∈ csrTable, ∀ (o : Ops) (s : State) (c : Cur), s.Runs c [] → o.imm.toNat = row.1 →
    ∃ t, exec (.csrr o) s = .next t ∧ WroteS s t c o.d (row.2 s c.cx) 0 false) ∧
  (∀ (o : Ops) (s : State) (c : Cur), s.Issues c → s.Handles c.cx → (∀ row ∈ csrTable, o.imm.toNat ≠ row.1) →
    ∃ t, exec (.csrr o) s = .next t ∧ Trapped s t c.cx (illegalAt c 6) c.addr c.len)

/-- R169, R192, R226, R251: CSRW writes the CSR as its entry says, in the mode that may, and is a region boundary; the other
CSRs keep their values but for prio, whose effective part is the base again (R58). A supervisor's write of ident brings the
clearance base of the identity with it. -/
def Sys2Proof.Claims.CsrWrites : Prop :=
  (∀ row ∈ csrWrites, ∀ (o : Ops) (s : State) (c : Cur), s.Runs c [o.a] → o.imm.toNat = row.1 → (row.2.1 = true → (s.ctx c.cx).super = true) →
    c.addr ≠ (s.ctx c.cx).csrs.lend →
    ∃ t, exec (.csrw o) s = .next t ∧
      (∀ r ∈ csrTable, r.1 = row.1 → r.2 t c.cx = row.2.2 (r.2 s c.cx) ((s.ctx c.cx).readS o.a)) ∧
      (∀ r ∈ csrTable, r.1 ≠ row.1 → r.1 ≠ 0x0C → r.2 t c.cx = r.2 s c.cx) ∧
      (t.ctx c.cx).sregs = (s.ctx c.cx).sregs ∧ (t.ctx c.cx).vregs = (s.ctx c.cx).vregs ∧
      (t.ctx c.cx).pc = c.addr + BitVec.ofNat 64 (16 * c.len) ∧ (t.ctx c.cx).region = (t.ctx c.cx).opened ∧ SameElse s t c.cx) ∧
  (∀ (o : Ops) (s : State) (c : Cur), s.Runs c [o.a] → o.imm.toNat = 0x0B → (s.ctx c.cx).super = true → c.addr ≠ (s.ctx c.cx).csrs.lend →
    ∀ w, w = (s.ctx c.cx).readS o.a →
    s.poisoned (s.regs.iddb.toNat * 2 ^ 27 + 8 * (w.toNat % 2 ^ 24)) = false →
    ∃ t, exec (.csrw o) s = .next t ∧ (t.ctx c.cx).csrs.ident = w.extractLsb' 0 24 ∧
      (t.ctx c.cx).cbase = s.clearance (w.extractLsb' 0 24) ∧
      (∀ r ∈ csrTable, r.1 ≠ 0x0B → r.1 ≠ 0x0C → r.2 t c.cx = r.2 s c.cx) ∧
      (t.ctx c.cx).sregs = (s.ctx c.cx).sregs ∧ (t.ctx c.cx).vregs = (s.ctx c.cx).vregs ∧
      (t.ctx c.cx).pc = c.addr + BitVec.ofNat 64 (16 * c.len) ∧ (t.ctx c.cx).region = (t.ctx c.cx).opened ∧ SameElse s t c.cx)

/-- R192, R403: a CSRW of a number that is unassigned, or read-only in the mode, takes the illegal-instruction trap, detail 6:
in user mode every number but 0 to 7 and 0x0A, in supervisor mode cycle, ctxid and the unassigned numbers. -/
def Sys2Proof.Claims.CsrWritesRefused : Prop :=
  ∀ (o : Ops) (s : State) (c : Cur), s.Issues c → s.Handles c.cx → ∀ n, n = o.imm.toNat → 7 < n → n ≠ 0x0A →
    ((s.ctx c.cx).super = true → n ≠ 0x08 ∧ n ≠ 0x09 ∧ n ≠ 0x0B ∧ n ≠ 0x0C ∧ n ≠ 0x10 ∧ n ≠ 0x11 ∧ n ≠ 0x12 ∧ n ≠ 0x13) →
    ∃ t, exec (.csrw o) s = .next t ∧ Trapped s t c.cx (illegalAt c 6) c.addr c.len

/-- R193, R393: TRAP enters the handler with cause 0x0D and its immediate as the value. -/
def Sys2Proof.Claims.TrapEntersTheHandler : Prop :=
  ∀ (o : Ops) (s : State) (c : Cur), s.Issues c → s.Handles c.cx →
    ∃ t, exec (.trap o) s = .next t ∧ Trapped s t c.cx { cause := 0x0D, val := o.imm } c.addr c.len

/-- R193, R393: RTT goes to trappc with bits [3:0] cleared, in the mode that PM holds, with NEST 0, and is a region boundary;
the other fields of trapctl, the other CSRs and the registers stay. -/
def Sys2Proof.Claims.RttReturns : Prop :=
  ∀ (s : State) (c : Cur), s.Runs c [] → (s.ctx c.cx).super = true →
    ∃ t, exec .rtt s = .next t ∧ (t.ctx c.cx).pc = (s.ctx c.cx).csrs.trappc >>> 4 <<< 4 ∧
      (t.ctx c.cx).super = (s.ctx c.cx).csrs.trapctl.getLsbD 1 ∧
      (∀ i < 64, 1 ≤ i → (t.ctx c.cx).csrs.trapctl.getLsbD i = (i != 7 && (s.ctx c.cx).csrs.trapctl.getLsbD i)) ∧
      (t.ctx c.cx).region = (t.ctx c.cx).opened ∧
      { (t.ctx c.cx).csrs with trapctl := 0, eff := 0 } = { (s.ctx c.cx).csrs with trapctl := 0, eff := 0 } ∧
      (t.ctx c.cx).sregs = (s.ctx c.cx).sregs ∧ (t.ctx c.cx).vregs = (s.ctx c.cx).vregs ∧ SameElse s t c.cx

/-- R166, R193, R389, R403: in user mode page 17, RTT and WAITI take the illegal-instruction trap, detail 4. -/
def Sys2Proof.Claims.PrivilegedInstructionsTrapInUserMode : Prop :=
  ∀ i ∈ privileged, ∀ (o : Ops) (s : State) (c : Cur), s.Issues c → s.Handles c.cx → (s.ctx c.cx).super = false →
    ∃ t, exec (i o) s = .next t ∧ Trapped s t c.cx (illegalAt c 4) c.addr c.len

/-- R166, R221, R222, R403: on a memory core pages 12 to 16 and MCAST take the illegal-instruction trap, detail 5, and on
every other core MCFETCH and MCSEND do. -/
def Sys2Proof.Claims.CoreKindsTrapOnEachOthersInstructions : Prop :=
  (∀ i ∈ coresOnly, ∀ (o : Ops) (s : State) (c : Cur), s.Issues c → s.Handles c.cx → 8192 ≤ c.cx →
    ∃ t, exec (i o) s = .next t ∧ Trapped s t c.cx (illegalAt c 5) c.addr c.len) ∧
  (∀ i ∈ [Instr.mcfetch, Instr.mcsend], ∀ (o : Ops) (s : State) (c : Cur), s.Issues c → s.Handles c.cx → c.cx < 8192 →
    ∃ t, exec (i o) s = .next t ∧ Trapped s t c.cx (illegalAt c 5) c.addr c.len)

/-- R157, R170, R391, R401: a source that is empty stops the register-register operations: with its trap bit the context takes
cause 0x06 with the handle, without it the context waits; a failed source takes cause 0x08 with the failure word. -/
def Sys2Proof.Claims.SourcesThatAreNotReadyStopTheInstruction : Prop :=
  ∀ row ∈ binaryOps, ∀ (o : Ops) (s : State) (c : Cur), s.Issues c → ∀ x, x = s.ctx c.cx →
    (x.failS o.a = true → s.Handles c.cx → ∃ t, exec (row.1 o) s = .next t ∧
      Trapped s t c.cx { cause := 0x08, detail := o.a.toNat, val := (x.sreg o.a).val } c.addr c.len) ∧
    (x.failS o.a = false → x.fullS o.a = false → o.ta = true → s.Handles c.cx → ∃ t, exec (row.1 o) s = .next t ∧
      Trapped s t c.cx { cause := 0x06, detail := o.a.toNat, val := (x.sreg o.a).val } c.addr c.len) ∧
    (x.failS o.a = false → x.fullS o.a = false → o.ta = false → ∃ t, exec (row.1 o) s = .next t ∧ Waits s t c .source) ∧
    (x.Ready o.a → x.failS o.b = false → x.fullS o.b = false → o.tb = false → ∃ t, exec (row.1 o) s = .next t ∧ Waits s t c .source) ∧
    (x.Ready o.a → x.failS o.b = false → x.fullS o.b = false → o.tb = true → s.Handles c.cx → ∃ t, exec (row.1 o) s = .next t ∧
      Trapped s t c.cx { cause := 0x06, detail := o.b.toNat, val := (x.sreg o.b).val } c.addr c.len)

/-- R390, R392, R393: with STEP set in user mode, a NOP completes and then takes the breakpoint: cause 0x0C, trappc the address
that follows, trapval the instruction's own. -/
def Sys2Proof.Claims.BreakpointFollowsACompletedInstruction : Prop :=
  ∀ (s : State) (c : Cur), s.Issues c → s.Handles c.cx → (s.ctx c.cx).super = false → (s.ctx c.cx).csrs.trapctl.getLsbD 2 = true →
    c.addr ≠ (s.ctx c.cx).csrs.lend →
    ∃ t, exec .nop s = .next t ∧ (t.ctx c.cx).csrs.trapcause = 0x0C ∧ (t.ctx c.cx).csrs.trapval = c.addr ∧
      (t.ctx c.cx).csrs.trappc = c.addr + BitVec.ofNat 64 (16 * c.len) ∧ (t.ctx c.cx).pc = s.trapVec c.cx >>> 4 <<< 4 ∧
      (t.ctx c.cx).super = true ∧ (t.ctx c.cx).sregs = (s.ctx c.cx).sregs ∧ (t.ctx c.cx).vregs = (s.ctx c.cx).vregs ∧ SameElse s t c.cx

/-- R193, R396, R408: WAITI completes once NTF is 1 or its time has passed, SLEEP once its time has passed; before, the context
waits at the instruction, and the time of the first issue counts. Both are region boundaries. -/
def Sys2Proof.Claims.WaitiAndSleepEnd : Prop :=
  ∀ (o : Ops) (s : State) (c : Cur), s.Runs c [] → (s.ctx c.cx).super = true →
    (((s.ctx c.cx).ntf = true ∨ ∃ n, (s.ctx c.cx).pause = .waiti (some n) ∧ n ≤ s.cycle) →
      ∃ t, exec (.waiti o) s = .next t ∧ Did s t c true (fun x => { x with pause := .none }) ∧ SameElse s t c.cx) ∧
    ((s.ctx c.cx).ntf = false → (s.ctx c.cx).pause = .none → ∃ t, exec (.waiti o) s = .next t ∧ (t.ctx c.cx).pc = (s.ctx c.cx).pc ∧
      (t.ctx c.cx).pause = .waiti (if o.imm = 0 then none else some (s.cycle + o.imm.toNat * 1024))) ∧
    ((∃ n, (s.ctx c.cx).pause = .sleep n ∧ n ≤ s.cycle) →
      ∃ t, exec (.sleep o) s = .next t ∧ Did s t c true (fun x => { x with pause := .none }) ∧ SameElse s t c.cx) ∧
    ((s.ctx c.cx).pause = .none → ∃ t, exec (.sleep o) s = .next t ∧ (t.ctx c.cx).pc = (s.ctx c.cx).pc ∧
      (t.ctx c.cx).pause = .sleep (s.cycle + o.imm.toNat * 2 ^ 16))

namespace Sys2Proof.Claims

open Sys2Proof.Machine

/-! ## Tasks, weight, votes, futures (R42 to R52, R195 to R201) -/

/-- The yard record that a new task takes: the lowest free one of its yard, with more than 64 of a cluster's free, nothing waiting in
its cellar ring, and no source of a later class than its own served in the cycle (R365, R371), or of a memory core's own (R60). -/
def NewRecord (s : State) (cx k : Nat) : Prop :=
  (if 8192 ≤ cx then k < 64 else k < 1024 ∧ 64 < (s.cluster (cx / 512)).freeRecs ∧ (s.cluster (cx / 512)).cellar = [] ∧
      ((s.cluster (cx / 512)).took.1 ≠ s.cycle ∨ 1 ≤ (s.cluster (cx / 512)).took.2)) ∧
    aget (s.yardOf cx) k = none ∧ ∀ j < k, aget (s.yardOf cx) j ≠ none

/-- The weight that SPAWN and RANGE move (R46, R50): the child takes half; at weight 1 the creator first draws 2^32 from its
keystone, which must have room for it. -/
structure Split (s t : State) (kst twt mine theirs : Word) : Prop where
  idle : kst = 0 → mine = twt ∧ theirs = 0
  half : kst ≠ 0 → theirs = (mine + theirs).toNat / 2
  plain : kst ≠ 0 → twt ≠ 1 → mine + theirs = twt ∧ t.keystones = s.keystones
  drawn : kst ≠ 0 → twt = 1 → ∀ K, aget s.keystones kst.toNat = some K → K.issued.toNat + 2 ^ 32 < 2 ^ 64 →
    mine + theirs = twt + 0x100000000 ∧ t.keystones = aset s.keystones kst.toNat { K with issued := K.issued + 0x100000000 }

/-- A task that a context has made (R42, R196): its first instruction, its registers and CSRs. -/
structure Child (x y : Ctx) (entry arg wid kst : Word) (super : Bool) : Prop where
  pc : y.pc = entry >>> 4 <<< 4
  regs : ∀ r, y.sreg r = { val := if r = 0 then 0 else if r = 1 then arg else if r = 61 then x.readS 61 else 0 }
  vectors : y.vregs = Vector.replicate 32 0
  csrs : { y.csrs with twt := 0 } =
    { vshape := x.csrs.vshape, wid := wid, wfmt := x.csrs.wfmt, sid := x.csrs.sid, ident := x.csrs.ident, base := x.csrs.base
      eff := x.csrs.base, kst := kst, trapctl := if super then 1 else 0 }
  region : y.region = { entry := y.pc }
  cleared : y.cbase = x.cbase

/-- What SPAWN and RANGE leave: the record with its task, the creator with its share of the weight and its registers as they
were, every other record, all of memory. -/
structure Made (s t : State) (c : Cur) (k : Nat) (kind : TaskKind) (range : Option RangeRec) (entry arg wid : Word) : Prop where
  task : ∃ r y, aget (t.yardOf c.cx) k = some r ∧ r.place = .fresh y ∧ r.kind = kind ∧ y.range = range ∧ r.base = (s.ctx c.cx).csrs.base ∧
    Child (s.ctx c.cx) y entry arg wid (s.ctx c.cx).csrs.kst (decide (8192 ≤ c.cx)) ∧
    Split s t (s.ctx c.cx).csrs.kst (s.ctx c.cx).csrs.twt (t.ctx c.cx).csrs.twt y.csrs.twt
  others : ∀ j, j ≠ k → aget (t.yardOf c.cx) j = aget (s.yardOf c.cx) j
  creator : Did s t c true (fun x => { x with csrs := { x.csrs with twt := (t.ctx c.cx).csrs.twt } })
  contexts : ∀ n, n ≠ c.cx → aget t.ctxs n = aget s.ctxs n
  memory : ∀ a, memByte t.mem a = memByte s.mem a

/-- The condition under which a task at weight 1 can split it: its keystone has room for the draw (R46, R48). -/
def CanSplit (s : State) (cx : Nat) : Prop :=
  (s.ctx cx).csrs.kst ≠ 0 → (s.ctx cx).csrs.twt = 1 →
    ∃ K, aget s.keystones (s.ctx cx).csrs.kst.toNat = some K ∧ K.issued.toNat + 2 ^ 32 < 2 ^ 64

/-- Handle of keystone slot i of the pool of a context (R46, R60). -/
def slotHandle (cx i : Nat) : Nat := if 8192 ≤ cx then 0x8400 + 8 * ((cx - 8192) / 8) + i else 0x8000 + 64 * (cx / 512) + i

end Sys2Proof.Claims

open Sys2Proof Sys2Proof.Machine Sys2Proof.Claims

/-- R42, R46, R196, R365: SPAWN and RANGE make a task in a yard record, move weight to it, and write no register. -/
def Sys2Proof.Claims.SpawnAndRangeMakeATask : Prop :=
  ∀ (o : Ops) (s : State) (c : Cur) (k : Nat), (s.ctx c.cx).rcount = 0 → CanSplit s c.cx → NewRecord s c.cx k →
    ∀ x, x = s.ctx c.cx →
    (s.Runs c [o.a, o.b, o.d, 61] → ∃ t, exec (.spawn o) s = .next t ∧
      Made s t c k .spawned none (x.readS o.a) (x.readS o.b) (x.readS o.d)) ∧
    (s.Runs c [o.a, o.b, o.c, o.c + 1, o.d, 61] → ∃ t, exec (.range o) s = .next t ∧
      Made s t c k .range
        (some { cur := x.readS o.c, hi := x.readS (o.c + 1), arg := x.readS o.b, s61 := x.readS 61, wid := x.readS o.d,
                vshape := x.csrs.vshape, entry := x.readS o.a >>> 4 <<< 4 })
        (x.readS o.a) (x.readS o.b) (x.readS o.d))

/-- R43, R44, R197: RNEXT of a range task returns the index and moves on, or all ones at the end; another task gets all ones. In the cycle
in which a work request has split the task it waits: the split comes after the RNEXT of its cycle. -/
def Sys2Proof.Claims.RnextReturnsTheNextIndex : Prop :=
  ∀ (o : Ops) (s : State) (c : Cur), s.Runs c [] →
    ((s.cycle, (s.ctx c.cx).uid) ∈ s.splits.map (·.2) → ∃ t, exec (.rnext o) s = .next t ∧ Waits s t c .other) ∧
    ((s.cycle, (s.ctx c.cx).uid) ∉ s.splits.map (·.2) → ∃ t, exec (.rnext o) s = .next t ∧ SameElse s t c.cx ∧
    ((s.ctx c.cx).range = none → Did s t c true (fun x => x.writeS o.d (-1))) ∧
    (∀ r, (s.ctx c.cx).range = some r → r.cur.toNat < r.hi.toNat →
      Did s t c true (fun x => ({ x with range := some { r with cur := r.cur + 1 } } : Ctx).writeS o.d r.cur)) ∧
    (∀ r, (s.ctx c.cx).range = some r → r.hi.toNat ≤ r.cur.toNat → Did s t c true (fun x => x.writeS o.d (-1))))

/-- R46, R198: KSET takes the lowest free slot of the pool, saves the task's keystone and weight there, and gives the task
the new keystone with weight 2^62; with no free slot it waits. -/
def Sys2Proof.Claims.KsetAllocatesAKeystone : Prop :=
  ∀ (o : Ops) (s : State) (c : Cur), s.Runs c [] → ∀ n, n = (if 8192 ≤ c.cx then 8 else 64) →
    (∀ i < n, aget s.keystones (slotHandle c.cx i) = none → (∀ j < i, aget s.keystones (slotHandle c.cx j) ≠ none) →
      ∃ t, exec (.kset o) s = .next t ∧
        Did s t c true (fun x => ({ x with csrs := { x.csrs with kst := BitVec.ofNat 64 (slotHandle c.cx i), twt := 2 ^ 62 } } : Ctx).writeS o.d
          (BitVec.ofNat 64 (slotHandle c.cx i))) ∧
        aget t.keystones (slotHandle c.cx i) = some { issued := 2 ^ 62, returned := 0, pkst := (s.ctx c.cx).csrs.kst, pwt := (s.ctx c.cx).csrs.twt, owner := some (s.ctx c.cx).uid } ∧
        (∀ h, h ≠ slotHandle c.cx i → aget t.keystones h = aget s.keystones h) ∧
        (∀ m, m ≠ c.cx → aget t.ctxs m = aget s.ctxs m) ∧ (∀ a, memByte t.mem a = memByte s.mem a)) ∧
    ((∀ i < n, aget s.keystones (slotHandle c.cx i) ≠ none) → ∃ t, exec (.kset o) s = .next t ∧ Waits s t c .kset)

/-- R46, R198, R202: KWAIT on the task's own keystone returns its weight; with all of it back the parent pair returns and the
keystone is free; before, the context waits with no weight. On any other value S[d] is 1 and no weight moves; a keystone
lost with its cluster gives 2 (R443). -/
def Sys2Proof.Claims.KwaitReturnsWeight : Prop :=
  ∀ (o : Ops) (s : State) (c : Cur), s.Runs c [o.a] → ∀ x k, x = s.ctx c.cx → k = x.csrs.kst.toNat →
    ((x.readS o.a ≠ x.csrs.kst ∨ k = 0 ∨ k ∉ (s.recOf c.cx).ksets) → ∃ t, exec (.kwait o) s = .next t ∧
      Did s t c true (fun x => x.writeS o.d 1) ∧ SameElse s t c.cx) ∧
    (x.readS o.a = x.csrs.kst → k ≠ 0 → k ∈ (s.recOf c.cx).ksets →
      (0x8000 ≤ k ∧ k < 0x8400 ∧ (k - 0x8000) / 64 ∈ s.boot.left → ∃ t, exec (.kwait o) s = .next t ∧
        Did s t c true (fun x => ({ x with csrs := { x.csrs with kst := 0, twt := 0 } } : Ctx).writeS o.d 2) ∧ SameElse s t c.cx) ∧
      (¬ (0x8000 ≤ k ∧ k < 0x8400 ∧ (k - 0x8000) / 64 ∈ s.boot.left) → ∀ K, aget s.keystones k = some K → K.launch = none → K.orphan = false →
        (K.returned + x.csrs.twt = K.issued → ∃ t, exec (.kwait o) s = .next t ∧
          (t.ctx c.cx).csrs.kst = K.pkst ∧ (t.ctx c.cx).csrs.twt = K.pwt ∧ (t.ctx c.cx).readS o.d = 0 ∧ (∀ r, r ≠ o.d → (t.ctx c.cx).sreg r = x.sreg r) ∧
          (t.ctx c.cx).vregs = x.vregs ∧ (t.ctx c.cx).region = (t.ctx c.cx).opened ∧ (t.ctx c.cx).pc = x.pcAfter c.addr c.len ∧
          aget t.keystones k = none ∧ (∀ h, h ≠ k → aget t.keystones h = aget s.keystones h) ∧ (∀ a, memByte t.mem a = memByte s.mem a)) ∧
        (K.returned + x.csrs.twt ≠ K.issued → ∃ t, exec (.kwait o) s = .next t ∧ (∃ w, (t.ctx c.cx).wait = some w ∧ w.kind = .kwait) ∧
          (t.ctx c.cx).csrs.twt = 0 ∧ (t.ctx c.cx).csrs.kst = x.csrs.kst ∧ (t.ctx c.cx).pc = x.pc ∧ (t.ctx c.cx).sregs = x.sregs ∧
          aget t.keystones k = some { K with returned := K.returned + x.csrs.twt })))

/-- R51, R199, R202: BARV of a task that no launch made gives its own vote. A launched task that joins an instance of
cluster or wider scope as the last of its launch's tasks, all others having exited, reads its own vote at once; a task whose join
stands in an instance that has completed reads that instance's result. -/
def Sys2Proof.Claims.BarvReadsTheVotes : Prop :=
  ∀ (o : Ops) (s : State) (c : Cur), s.Runs c [o.a] → ∀ r, r = s.recOf c.cx →
    (r.launch = none → ∃ t, exec (.barv o) s = .next t ∧ WroteS s t c o.d ((s.ctx c.cx).readS o.a) 0 true) ∧
    (∀ l num inst b v, r.launch = some l → aget r.joins o.f.toNat = some (num, inst) →
      (s.cluster (c.cx / 512)).barriers = [b] → b.launch = (if 3 ≤ o.f.toNat then some l else none) → b.scope = o.f.toNat → b.inst = inst → b.num = num →
      (s.ctx c.cx).uid ∈ b.joined → b.result = some v →
      ∃ t, exec (.barv o) s = .next t ∧ Did s t c true (fun x => x.writeS o.d v) ∧
        (t.cluster (c.cx / 512)).barriers = [{ b with joined := b.joined.filter (· != (s.ctx c.cx).uid) }] ∧
        (∀ a, memByte t.mem a = memByte s.mem a)) ∧
    (∀ l la, r.launch = some l → c.cx < 8192 → 3 ≤ o.f.toNat → aget r.joins o.f.toNat = none → (s.ctx c.cx).rcount = 0 →
      aget s.launches l = some la → la.total = la.exited + 1 →
      (s.cluster (c.cx / 512)).barriers = [] → aget (s.cluster (c.cx / 512)).yard (s.ctx c.cx).yr = some r → r.uid = (s.ctx c.cx).uid → r.kind ≠ .tile →
      ∃ t, exec (.barv o) s = .next t ∧ Did s t c true (fun x => x.writeS o.d (x.readS o.a)) ∧ (∀ a, memByte t.mem a = memByte s.mem a))

/-- R86, R195, R257: EXIT with no remote store outstanding ends the task: its context is free, its pins and map slots are
released, and its weight returns to its keystone; with remote stores outstanding it waits. -/
def Sys2Proof.Claims.ExitEndsTheTask : Prop :=
  ∀ (s : State) (c : Cur), s.Runs c [] → ∀ x, x = s.ctx c.cx →
    (x.rcount = 0 → ∃ t, exec .exit s = .next t ∧ t.holds c.cx = false ∧
      (∀ n, n ≠ c.cx → aget t.ctxs n = aget s.ctxs n) ∧
      (∀ p ∈ t.caches.l2, (s.recOf c.cx).uid ∉ p.2.pins) ∧ aget t.charges (s.recOf c.cx).uid = none ∧
      (c.cx < 8192 → ∀ m ∈ (t.cluster (c.cx / 512)).maps, m.2.owner ≠ (s.recOf c.cx).uid) ∧
      (∀ K, x.csrs.kst ≠ 0 → (s.recOf c.cx).ksets = [] → aget s.keystones x.csrs.kst.toNat = some K → K.returned + x.csrs.twt ≠ K.issued →
        aget t.keystones x.csrs.kst.toNat = some { K with returned := K.returned + x.csrs.twt })) ∧
    (x.rcount ≠ 0 → ∃ t, exec .exit s = .next t ∧ Waits s t c .other)

/-- R55, R200, R370: YIELD completes where no stack is stopped for new memory-core firmware (R384), and the task is in its yard
again: suspended in its save area, its age 0, eligible after n × 64 cycles, its context free; nothing else of memory changes. -/
def Sys2Proof.Claims.YieldReturnsToTheYard : Prop :=
  ∀ (o : Ops) (s : State) (c : Cur) (r : YRec), s.Runs c [] → c.cx < 8192 → aget (s.yardOf c.cx) (s.ctx c.cx).yr = some r →
    s.boot.stackStop = [] → ∃ t r', exec (.yield o) s = .next t ∧ t.holds c.cx = false ∧ aget (t.yardOf c.cx) (s.ctx c.cx).yr = some r' ∧
      r'.place = .suspended ∧ r'.age = 0 ∧ r'.elig = s.cycle + o.imm.toNat * 64 ∧ r'.base = (s.ctx c.cx).csrs.base ∧ r'.uid = r.uid ∧
      (∀ n, n ≠ c.cx → aget t.ctxs n = aget s.ctxs n) ∧
      (∀ b, b < (s.cluster (c.cx / 512)).saveArea (s.ctx c.cx).yr ∨ (s.cluster (c.cx / 512)).saveArea (s.ctx c.cx).yr + 32768 ≤ b →
        memByte t.mem b = memByte s.mem b)

/-- R55, R370: the save area that a yielding task leaves holds the pc at next and every scalar register, all live. -/
def Sys2Proof.Claims.YieldSavesEveryRegister : Prop :=
  ∀ (o : Ops) (s : State) (c : Cur) (r : YRec), s.Runs c [] → c.cx < 8192 → aget (s.yardOf c.cx) (s.ctx c.cx).yr = some r →
    s.boot.stackStop = [] → ∃ t, exec (.yield o) s = .next t ∧ ∀ base, base = (s.cluster (c.cx / 512)).saveArea (s.ctx c.cx).yr →
      t.phys base = (s.ctx c.cx).pcAfter c.addr c.len ∧ t.phys (base + 8) = -1 ∧
      (∀ i : BitVec 6, i ≠ 0 → t.phys (base + 0x200 + 8 * i.toNat) = ((s.ctx c.cx).sreg i).val) ∧
      (∀ j < 32, ∀ l < 64, t.phys (base + 0x400 + 512 * j + 8 * l) = ((s.ctx c.cx).vregs.getD j 0).extractLsb' (64 * l) 64)

/-- R170, R201, R401: FWAIT of a full register copies it, of an empty one waits whatever its trap bit, of a failed one takes
cause 0x08; FTEST and FHND never wait. -/
def Sys2Proof.Claims.FutureTests : Prop :=
  ∀ (o : Ops) (s : State) (c : Cur), s.Runs c [] → ∀ x, x = s.ctx c.cx →
    (x.Ready o.a → ∃ t, exec (.fwait o) s = .next t ∧ WroteS s t c o.d (x.readS o.a) 0 false) ∧
    (x.failS o.a = false → x.fullS o.a = false → ∃ t, exec (.fwait o) s = .next t ∧ Waits s t c .fwait) ∧
    (x.failS o.a = true → s.Handles c.cx → ∃ t, exec (.fwait o) s = .next t ∧
      Trapped s t c.cx { cause := 0x08, detail := o.a.toNat, val := (x.sreg o.a).val } c.addr c.len) ∧
    (∃ t, exec (.ftest o) s = .next t ∧ WroteS s t c o.d (if x.fullS o.a then 1 else 0) 0 false) ∧
    (∃ t, exec (.fhnd o) s = .next t ∧ WroteS s t c o.d (if x.fullS o.a then 0 else (x.sreg o.a).val) 0 false)

/-- R201: FCANCEL of a full register writes 0 and does nothing else; of an empty one it writes 1, and every copy with that
handle but MCAST, every matrix operation, AGO and PIN with it is asked to stop, and no other of a cluster or memory core. -/
def Sys2Proof.Claims.FcancelAsksTheEngineToStop : Prop :=
  ∀ (o : Ops) (s : State) (c : Cur), s.Runs c [] → ∀ x, x = s.ctx c.cx →
    (x.fullS o.a = true → ∃ t, exec (.fcancel o) s = .next t ∧ WroteS s t c o.d 0 0 true) ∧
    (x.fullS o.a = false → ∃ t, exec (.fcancel o) s = .next t ∧ Did s t c true (fun x => x.writeS o.d 1) ∧
      (∀ a, memByte t.mem a = memByte s.mem a) ∧ (∀ n, n ≠ c.cx → aget t.ctxs n = aget s.ctxs n) ∧
      t.pins = s.pins.map (fun p => if p.handle = (x.sreg o.a).val then { p with cancel := true } else p) ∧
      (∀ cl, (t.cluster cl).copies = (s.cluster cl).copies.map (fun p =>
        if p.handle = (x.sreg o.a).val ∧ p.kind ≠ .mcast then { p with cancel := true } else p)) ∧
      (∀ cl, (t.cluster cl).gen = (s.cluster cl).gen.map (fun p => if p.handle = (x.sreg o.a).val then { p with cancel := true } else p)) ∧
      (∀ cl, (t.cluster cl).mason.queue = (s.cluster cl).mason.queue.map (fun j =>
        if j.handle = (x.sreg o.a).val ∧ j.load = false then { j with cancel := true } else j)) ∧
      (∀ cl, (t.cluster cl).mason.run = (s.cluster cl).mason.run.map (fun r =>
        if r.job.handle = (x.sreg o.a).val ∧ r.job.load = false then { r with job := { r.job with cancel := true } } else r)) ∧
      (∀ m, (t.mcore m).copies = (s.mcore m).copies.map (fun p =>
        if p.handle = (x.sreg o.a).val ∧ p.kind ≠ .mcast then { p with cancel := true } else p)))

namespace Sys2Proof.Claims

open Sys2Proof.Machine

/-! ## Memory (R61 to R77, R103, R117, R184, R205 to R216) -/

/-- The byte key and the bit of the place that an address in range of a window names (R65, R68, R75). -/
def placeByte (x : Word) : Nat × Nat :=
  (windowKey (coreAt x).toNat (winOf x) ((incoreAt x).toNat / 8 * 8), (incoreAt x).toNat % 8)

/-- The bit of memory at an address in range of a window. -/
def bitAt (s : State) (x : Word) : Bool := (memByte s.mem (placeByte x).1).getLsbD (placeByte x).2

/-- The w bits from a lie in range of windows of this package that the context reaches: of clusters that have not left, and
for a memory core not in C (R63, R67). -/
def InWindows (s : State) (cx : Nat) (a : Word) (w : Nat) : Prop :=
  ∀ i < w, InRange s (a + BitVec.ofNat 64 i) ∧ pkgAt s (a + BitVec.ofNat 64 i) = s.sys.self ∧
    (coreAt (a + BitVec.ofNat 64 i)).toNat / 64 ∉ s.boot.left ∧ (8192 ≤ cx → winOf (a + BitVec.ofNat 64 i) ≠ 2)

/-- The same for windows of the context's own core. -/
def InOwnWindows (s : State) (cx : Nat) (a : Word) (w : Nat) : Prop :=
  InWindows s cx a w ∧ cx < 8192 ∧ ∀ i < w, (coreAt (a + BitVec.ofNat 64 i)).toNat = cx / 8

/-- No engine holds a range lock in the cluster, no store of the task or of its core is in flight, no granule is poisoned and no
LDFE waits at one: no atomic of the task awaits another package's answer: an access to a window then meets neither a lock nor an error, performs no
other store, and what it fills stays full. -/
def Quiet (s : State) (cx : Nat) : Prop :=
  (s.cluster (cx / 512)).locks = [] ∧ (∀ r ∈ s.rstores, r.uid ≠ (s.ctx cx).uid ∧ r.cx / 8 ≠ cx / 8) ∧ s.poison = [] ∧ s.ldfes = [] ∧
  s.atomSent (s.ctx cx).uid = none

/-- The address of a load or store: S[a] + imm × u (R184, R204). -/
def addressOf (x : Ctx) (o : Ops) (u : Nat) : Word := x.readS o.a + o.imm * BitVec.ofNat 64 u

/-- A number whose bits are those of memory at w addresses from a (R71, R73). -/
def ReadsAs (s : State) (a : Word) (w v : Nat) : Prop := v < 2 ^ w ∧ ∀ i < w, v.testBit i = bitAt s (a + BitVec.ofNat 64 i)

/-- Memory after a store of the w low bits of v at a: those bits there, every other bit as before (R71 to R73). -/
structure Stored (s t : State) (a : Word) (w v : Nat) : Prop where
  bits : ∀ i < w, bitAt t (a + BitVec.ofNat 64 i) = v.testBit i
  others : ∀ b j, (∀ i < w, placeByte (a + BitVec.ofNat 64 i) ≠ (b, j)) → (memByte t.mem b).getLsbD j = (memByte s.mem b).getLsbD j

/-- The loads of one register, with their width and what they make of its bits (R184, R205). -/
def loads : List ((Ops → Instr) × (Ops → Nat) × (Nat → Nat → Word)) :=
  [(.ld, fun _ => 64, fun _ v => BitVec.ofNat 64 v), (.ldf, fun o => classWidth o.f.toNat, fun _ v => BitVec.ofNat 64 v),
   (.ldfs, fun o => classWidth o.f.toNat, fun w v => BitVec.ofInt 64 (Int.bmod v (2 ^ w)))]

/-- The stores of one register, with their width. -/
def stores : List ((Ops → Instr) × (Ops → Nat)) := [(.st, fun _ => 64), (.stf, fun o => classWidth o.f.toNat)]

/-- The value of a pair of registers (R206). -/
def pairValue (x : Ctx) (d : BitVec 6) : Nat := (x.readS d).toNat + (x.readS (d + 1)).toNat * 2 ^ 64

/-- The atomics of R214 on w bits, but CAS: the new value for the old one and y. -/
def atomics : List ((Ops → Instr) × (Nat → Nat → Nat → Nat)) :=
  [(.amoadd, fun w old y => (old + y) % 2 ^ w), (.amoand, fun _ old y => old &&& y), (.amoor, fun _ old y => old ||| y),
   (.amoxor, fun _ old y => old ^^^ y), (.amomin, fun w old y => if (BitVec.ofNat w y).toInt < (BitVec.ofNat w old).toInt then y else old),
   (.amomax, fun w old y => if (BitVec.ofNat w old).toInt < (BitVec.ofNat w y).toInt then y else old),
   (.amominn, fun _ old y => if y < old then y else old), (.amomaxn, fun _ old y => if old < y then y else old), (.amoswp, fun _ _ y => y)]

/-- What an instruction on memory leaves beside memory: the change f to its context, and all else of the package. -/
structure DidAt (s t : State) (c : Cur) (bd : Bool) (f : Ctx → Ctx) : Prop where
  did : Did s t c bd f
  package : { t with ctxs := s.ctxs, mem := s.mem, perf := s.perf, net := s.net, opDenials := s.opDenials } = s
  net : { t.net with fwds := s.net.fwds, dieFlits := s.net.dieFlits, lanes := s.net.lanes } = s.net
  torus : ∀ n, n < 24 → aget t.net.lanes n = aget s.net.lanes n
  contexts : ∀ k, k ≠ c.cx → aget t.ctxs k = aget s.ctxs k

/-- The full/empty bit of the granule that a window address names (R75, R76). -/
def granuleAt (x : Word) : Nat := granuleId (coreAt x).toNat (winOf x) (incoreAt x).toNat

/-- The fences that wait for a release at their scope (R118, R210). -/
def releases : List (Ops → Instr) := [.fenceRel, .fenceAcqrel, .fenceSc]

/-- Loads of a window: each bit of the result is the bit of memory at its address, whatever the alignment and the number of
granules; the pair load writes both registers; LDA needs a multiple of 64. -/
def WindowLoads : Prop :=
  (∀ row ∈ loads, ∀ (o : Ops) (s : State) (c : Cur) (a : Word), s.Runs c [o.a] → a = addressOf (s.ctx c.cx) o (row.2.1 o) → 0 < row.2.1 o →
    row.2.1 o ≤ 64 → InWindows s c.cx a (row.2.1 o) → Quiet s c.cx →
    ∃ v t, exec (row.1 o) s = .next t ∧ ReadsAs s a (row.2.1 o) v ∧ WroteS s t c o.d (row.2.2 (row.2.1 o) v) 0 false) ∧
  (∀ (o : Ops) (s : State) (c : Cur) (a : Word), s.Runs c [o.a] → a = addressOf (s.ctx c.cx) o 128 → InWindows s c.cx a 128 → Quiet s c.cx →
    ∃ v t, exec (.ldp o) s = .next t ∧ ReadsAs s a 128 v ∧
      Did s t c false (fun x => (x.writeS o.d (BitVec.ofNat 64 v)).writeS (o.d + 1) (BitVec.ofNat 64 (v / 2 ^ 64))) ∧ SameElse s t c.cx) ∧
  (∀ (o : Ops) (s : State) (c : Cur) (a : Word), s.Runs c [o.a] → a = addressOf (s.ctx c.cx) o 64 → a.extractLsb' 0 6 = 0 →
    InWindows s c.cx a 64 → Quiet s c.cx →
    ∃ v t, exec (.lda o) s = .next t ∧ ReadsAs s a 64 v ∧ WroteS s t c o.d (BitVec.ofNat 64 v) 0 false)

/-- Stores of the core's own windows W, A and C, at any bit address: the stored bits, and no other bit of memory, change. -/
def OwnWindowStores : Prop :=
  (∀ row ∈ stores, ∀ (o : Ops) (s : State) (c : Cur) (a : Word), s.Runs c [o.a, o.d] → a = addressOf (s.ctx c.cx) o (row.2 o) → 0 < row.2 o →
    row.2 o ≤ 64 → InOwnWindows s c.cx a (row.2 o) → winOf a ≠ 3 → Quiet s c.cx → (s.ctx c.cx).rcount ≤ 512 →
    ∃ t, exec (row.1 o) s = .next t ∧ Stored s t a (row.2 o) ((s.ctx c.cx).readS o.d).toNat ∧ DidAt s t c false id) ∧
  (∀ (o : Ops) (s : State) (c : Cur) (a : Word), s.Runs c [o.a, o.d, o.d + 1] → a = addressOf (s.ctx c.cx) o 128 →
    InOwnWindows s c.cx a 128 → winOf a ≠ 3 → Quiet s c.cx → (s.ctx c.cx).rcount ≤ 512 →
    ∃ t, exec (.stp o) s = .next t ∧ Stored s t a 128 (pairValue (s.ctx c.cx) o.d) ∧ DidAt s t c false id) ∧
  (∀ (o : Ops) (s : State) (c : Cur) (a : Word), s.Runs c [o.a, o.d] → a = addressOf (s.ctx c.cx) o 64 → a.extractLsb' 0 6 = 0 →
    InOwnWindows s c.cx a 64 → winOf a ≠ 3 → Quiet s c.cx → (s.ctx c.cx).rcount = 0 →
    ∃ t, exec (.str o) s = .next t ∧ Stored s t a 64 ((s.ctx c.cx).readS o.d).toNat ∧ DidAt s t c false id)

/-- A store of one word of another core's window retires at the issuer: memory stands, the counter of remote stores rises by
one, and the store waits in flight with its word, its bits and their values. -/
def RemoteStores : Prop :=
  ∀ (o : Ops) (s : State) (c : Cur) (a : Word), s.Runs c [o.a, o.d] → a = addressOf (s.ctx c.cx) o 64 → a.extractLsb' 0 6 = 0 →
    InWindows s c.cx a 64 → (8192 ≤ c.cx ∨ (coreAt a).toNat ≠ c.cx / 8) → winOf a ≠ 3 → Quiet s c.cx → (s.ctx c.cx).rcount < 512 →
    ∃ t r, exec (.st o) s = .next t ∧ t.rstores = s.rstores ++ [r] ∧ r.uid = (s.ctx c.cx).uid ∧ r.key = (placeByte a).1 ∧ r.mask = -1 ∧
      r.val = (s.ctx c.cx).readS o.d ∧ r.done = false ∧ r.req = none ∧ t.mem = s.mem ∧
      Did s t c false (fun x => { x with rcount := x.rcount + 1 }) ∧ (∀ k, k ≠ c.cx → aget t.ctxs k = aget s.ctxs k)

/-- An access that the entry for its address refuses traps, and does nothing else: a load of an address outside the windows'
range takes an address fault, cause 0x03, and so does a store. -/
def WindowFaults : Prop :=
  ∀ (o : Ops) (s : State) (c : Cur) (a : Word), a = addressOf (s.ctx c.cx) o 64 → a.extractLsb' 0 6 = 0 → a.getLsbD 63 = true →
    ¬ InRange s a → Quiet s c.cx → s.Handles c.cx →
    (s.Runs c [o.a] → ∃ t, exec (.ld o) s = .next t ∧ Trapped s t c.cx { cause := 0x03, val := a } c.addr c.len) ∧
    (s.Runs c [o.a, o.d] → ∃ t, exec (.st o) s = .next t ∧ Trapped s t c.cx { cause := 0x03, val := a } c.addr c.len)

/-- Global space through an entry of the core's TLB that serves the access, for a page of this package that is not shared, tag 0
(R90, R93, R101): a load reads the word of the page's frame and changes no byte of memory; a store that the core's own die performs
(R378) writes it and no other byte. -/
def GlobalAccesses : Prop :=
  ∀ (o : Ops) (s : State) (c : Cur) (a : Word) (e : TlbEntry) (b : Nat), c.cx < 8192 → a = addressOf (s.ctx c.cx) o 64 → a.extractLsb' 0 6 = 0 →
    a.extractLsb' 60 4 = 0 → s.regs.gvtbEn = true → aget s.caches.tlbs (c.cx / 8) = some [e] → e.stream = false → e.key = a.toNat / 8 / 2 ^ e.size → e.own = s.sys.self →
    e.s = false → b = e.frame + a.toNat / 8 % 2 ^ e.size → b % 8 = 0 → b < s.memTop → s.movedOn b = none → s.inTransit b = false →
    s.boot.stackStop = [] → s.lineTag (s.ctxAgent c.cx) b e.tag = 0 → Quiet s c.cx →
    (s.Runs c [o.a] → e.rd = true → ∃ t, exec (.ld o) s = .next t ∧ (t.ctx c.cx).readS o.d = (if o.d = 0 then 0 else s.phys b) ∧
      (∀ r, r ≠ o.d → (t.ctx c.cx).sreg r = (s.ctx c.cx).sreg r) ∧ (t.ctx c.cx).vregs = (s.ctx c.cx).vregs ∧
      (t.ctx c.cx).pc = (s.ctx c.cx).pcAfter c.addr c.len ∧ (∀ k, memByte t.mem k = memByte s.mem k)) ∧
    (s.Runs c [o.a, o.d] → e.wr = true → e.dirty = true → (s.ctx c.cx).rcount ≤ 512 → (s.regs.full = true ∨ s.homeDie (b / 128 * 128) = c.cx / 2048) →
      ∃ t, exec (.st o) s = .next t ∧
      t.phys b = (s.ctx c.cx).readS o.d ∧ SameOutside s t b 8 ∧ (t.ctx c.cx).sregs = (s.ctx c.cx).sregs ∧ (t.ctx c.cx).vregs = (s.ctx c.cx).vregs ∧
      (t.ctx c.cx).pc = (s.ctx c.cx).pcAfter c.addr c.len)

/-- Do w bits from a lie in one full/empty granule of their window: 128 bits, of which an address under interleaved placement
reaches one word (R71, R76)? -/
def OneGranule (a : Word) (w : Nat) : Prop := if a.getLsbD 37 = true then a.toNat % 64 + w ≤ 64 else a.toNat % 128 + w ≤ 128

/-- What LDFE makes of the bits it reads: 128 of them go to a pair (R206, R207). -/
def ldfeResult (o : Ops) (v : Nat) (x : Ctx) : Ctx :=
  if o.f.toNat % 4 = 3 then (x.writeS o.d (BitVec.ofNat 64 v)).writeS (o.d + 1) (BitVec.ofNat 64 (v / 2 ^ 64)) else x.writeS o.d (BitVec.ofNat 64 v)

/-- LDFE of an operand within one granule of a window of this package, of any of its widths: from a full granule it reads the bits, and
with clr leaves the granule empty; on an empty one it waits there, or with trp takes cause 0x07. STFE to the core's own window
stores the word and leaves the granule full. Of either, an operand that is not within one granule of W, A or C is misaligned, detail 1
(R76, R207, R208). -/
def FullEmptyAccesses : Prop :=
  ∀ (o : Ops) (s : State) (c : Cur) (a : Word), Quiet s c.cx →
    (∀ w, w = 16 * 2 ^ (o.f.toNat % 4) → s.Runs c [o.a] → a = addressOf (s.ctx c.cx) o w → InWindows s c.cx a w → winOf a ≠ 3 →
      OneGranule a w →
      ((memByte s.mem (feBase + granuleAt a / 8)).getLsbD (granuleAt a % 8) = true →
        ∃ v t, exec (.ldfe o) s = .next t ∧ ReadsAs s a w v ∧ Did s t c (o.f.getLsbD 3) (ldfeResult o v) ∧
          (∀ b j, (memByte t.mem b).getLsbD j =
            if o.f.getLsbD 3 ∧ b = feBase + granuleAt a / 8 ∧ j = granuleAt a % 8 then false else (memByte s.mem b).getLsbD j)) ∧
      ((memByte s.mem (feBase + granuleAt a / 8)).getLsbD (granuleAt a % 8) = false → o.f.getLsbD 2 = false →
        ∃ t e, exec (.ldfe o) s = .next t ∧ Waits s { t with ldfes := [] } c .granule ∧ t.ldfes = [e] ∧ e.uid = (s.ctx c.cx).uid ∧ e.pc = c.addr ∧
          e.gran = granuleAt a ∧ e.w = w ∧ e.clr = o.f.getLsbD 3 ∧ e.got = .pending) ∧
      ((memByte s.mem (feBase + granuleAt a / 8)).getLsbD (granuleAt a % 8) = false → o.f.getLsbD 2 = true → s.Handles c.cx →
        ∃ t, exec (.ldfe o) s = .next t ∧ Trapped s t c.cx { cause := 0x07, val := a } c.addr c.len)) ∧
    (s.Runs c [o.a, o.d] → a = addressOf (s.ctx c.cx) o 64 → a.extractLsb' 0 6 = 0 → InOwnWindows s c.cx a 64 → winOf a ≠ 3 → (s.ctx c.cx).rcount ≤ 512 →
      ∃ t, exec (.stfe o) s = .next t ∧ DidAt s t c true id ∧ (∀ i < 64, bitAt t (a + BitVec.ofNat 64 i) = ((s.ctx c.cx).readS o.d).getLsbD i) ∧
        (∀ b j, (∀ i < 64, placeByte (a + BitVec.ofNat 64 i) ≠ (b, j)) → (memByte t.mem b).getLsbD j =
          if b = feBase + granuleAt a / 8 ∧ j = granuleAt a % 8 then true else (memByte s.mem b).getLsbD j)) ∧
    (∀ w, w = 16 * 2 ^ (o.f.toNat % 4) → s.Runs c [o.a] → a = addressOf (s.ctx c.cx) o w → (a.getLsbD 63 = false ∨ 3 ≤ winOf a ∨ ¬ OneGranule a w) →
      s.Handles c.cx → ∃ t, exec (.ldfe o) s = .next t ∧ Trapped s t c.cx { cause := 0x02, detail := 1, val := a } c.addr c.len) ∧
    (s.Runs c [o.a, o.d] → a = addressOf (s.ctx c.cx) o 64 → (a.getLsbD 63 = false ∨ 3 ≤ winOf a ∨ ¬ OneGranule a 64) → s.Handles c.cx →
      ∃ t, exec (.stfe o) s = .next t ∧ Trapped s t c.cx { cause := 0x02, detail := 1, val := a } c.addr c.len)

/-- LDFE that wait at one granule when it becomes full: each without clear is served, and of those with clear the first alone,
which empties it; what each is served is what it reads there then, and each completes with it (R76, R77, R207). -/
def WaitingLoads : Prop :=
  (∀ (s : State) (g : Nat), s.poison = [] → (∀ e ∈ s.ldfes, e.gran = g ∧ e.got = .pending ∧ s.ldfeLive e = true ∧ 0 < e.w ∧ e.off + e.w ≤ 64 ∧ e.key + 8 ≤ feBase) →
    (s.fillGrans [g]).granFull g = s.ldfes.all (fun e => !e.clr) ∧ (s.fillGrans [g]).ldfes.length = s.ldfes.length ∧
      ∀ (i : Nat) (e : LdfeWait), s.ldfes[i]? = some e → (s.fillGrans [g]).ldfes[i]? =
        some (if e.clr = true ∧ (s.ldfes.take i).any (fun q => q.clr) = true then e else { e with got := .value ((s.phys e.key).toNat / 2 ^ e.off % 2 ^ e.w) })) ∧
  (∀ (o : Ops) (s : State) (c : Cur) (e : LdfeWait) (n : Nat) (r : WaitRec), s.Runs c [o.a] → s.ldfes = [e] → e.req = none → e.uid = (s.ctx c.cx).uid → e.pc = c.addr → e.got = .value n →
    (s.ctx c.cx).wait = some r → r.kind = .granule → r.pc = c.addr →
    ∃ t, exec (.ldfe o) s = .next t ∧ Did s t c (o.f.getLsbD 3) (ldfeResult o n) ∧ t.mem = s.mem ∧ t.ldfes = [])

/-- FENCE.acq completes; FENCE.rel, .acqrel and .sc complete at sc.core, and at a wider scope with no remote store outstanding,
where they otherwise wait; FENCE.rdrain does at every scope (R118, R210). -/
def Fences : Prop :=
  ∀ (o : Ops) (s : State) (c : Cur), s.Runs c [] →
    (∃ t, exec (.fenceAcq o) s = .next t ∧ WentOn s t c false ∧ SameElse s t c.cx) ∧
    (∀ i ∈ releases, (o.f = 0 ∨ (s.ctx c.cx).rcount = 0) → ∃ t, exec (i o) s = .next t ∧ WentOn s t c false ∧ SameElse s t c.cx) ∧
    (∀ i ∈ releases, o.f ≠ 0 → (s.ctx c.cx).rcount ≠ 0 → ∃ t, exec (i o) s = .next t ∧ Waits s t c .other) ∧
    ((s.ctx c.cx).rcount = 0 → ∃ t, exec (.fenceRdrain o) s = .next t ∧ WentOn s t c false ∧ SameElse s t c.cx) ∧
    ((s.ctx c.cx).rcount ≠ 0 → ∃ t, exec (.fenceRdrain o) s = .next t ∧ Waits s t c .other)

/-- PREF completes on every address and faults on none; where a TLB entry maps the line to this package it asks for it if the fill queue
of its die has room, else does nothing, and changes no byte of memory. CFLUSH and CINV of such a line leave it written back in every
die, but in a page frame, whose lines stay; CFLUSH takes it out of no L1D, and CINV leaves it in none, and in a slice only where it is
pinned or in a frame (R106, R211). -/
def CacheOperations : Prop :=
  ∀ (o : Ops) (s : State) (c : Cur) (a : Word) (w : Nat), s.Runs c [o.a] → w = classWidth o.f.toNat → a = addressOf (s.ctx c.cx) o w →
    (∃ t, exec (.pref o) s = .next t ∧ WentOn s t c false ∧ (a.getLsbD 63 = true → SameElse s t c.cx)) ∧
    (∀ (e : TlbEntry) (b : Nat), c.cx < 8192 → w = 1024 → a.extractLsb' 0 10 = 0 → a.extractLsb' 60 4 = 0 → s.regs.gvtbEn = true → aget s.caches.tlbs (c.cx / 8) = some [e] →
      e.stream = false → e.key = a.toNat / 8 / 2 ^ e.size → e.own = s.sys.self → e.s = false → b = e.frame + a.toNat / 8 % 2 ^ e.size → b % 128 = 0 →
      b < s.memTop → s.movedOn b = none → s.inTransit b = false → s.boot.stackStop = [] → s.lineTag (s.ctxAgent c.cx) b e.tag = 0 → Quiet s c.cx →
      (e.rd = true → ∃ t f, exec (.pref o) s = .next t ∧ f.line = b / 128 ∧ f.die = c.cx / 2048 ∧ f.core = some (c.cx / 8) ∧ t.mem = s.mem ∧
        WentOn s t c false ∧
        t.caches.fills = s.caches.fills ++ if s.caches.fills.countP (fun q => q.die == c.cx / 2048) < Config.fillQueue then [f] else []) ∧
      (∃ t, exec (.cflush o) s = .next t ∧ WentOn s t c false ∧ t.mem = s.mem ∧
        (∀ d < 4, ∀ l, aget t.caches.l2 (d * 2 ^ 33 + b / 128) = some l → l.framed = false → l.st ≠ .m) ∧
        (∀ x ∈ t.caches.l1, x.1 % 2 ^ 33 = b / 128 → x.1 / 2 ^ 33 < 1024 → x.2.dirty = false) ∧ t.caches.l1.map (·.1) = s.caches.l1.map (·.1)) ∧
      (∃ t, exec (.cinv o) s = .next t ∧ WentOn s t c false ∧
        (∀ d < 4, ∀ l, aget t.caches.l2 (d * 2 ^ 33 + b / 128) = some l → l.framed = true ∨ l.st ≠ .m ∧ l.pinned = true) ∧
        (∀ x ∈ t.caches.l1, x.1 / 2 ^ 33 < 1024 → x.1 % 2 ^ 33 ≠ b / 128)))

/-- An atomic whose operand lies in one word of a window of this package: S[d] takes the old value, the operand takes the new one, and no
other bit of memory changes; it is a region boundary. CAS writes where the old value is S[c]; CAS2 acts on 128 bits at a multiple of
128 and on register pairs (R214 to R216). -/
def Atomics : Prop :=
  ∀ (o : Ops) (s : State) (c : Cur) (a : Word) (w : Nat), a = (s.ctx c.cx).readS o.a → Quiet s c.cx → (o.scope = 0 ∨ (s.ctx c.cx).rcount = 0) →
    winOf a ≠ 3 →
    (w = classWidth o.cls.toNat → 0 < w → a.toNat % 64 + w ≤ 64 → InWindows s c.cx a w → ∀ old y, ReadsAs s a w old → y = ((s.ctx c.cx).readS o.b).toNat % 2 ^ w →
      (s.Runs c [o.a, o.b] → ∀ row ∈ atomics, ∃ t, exec (row.1 o) s = .next t ∧ Stored s t a w (row.2 w old y) ∧
        DidAt s t c true (fun x => x.writeS o.d (BitVec.ofNat 64 old))) ∧
      (s.Runs c [o.a, o.b, o.c] → ∃ t, exec (.cas o) s = .next t ∧
        Stored s t a w (if old = ((s.ctx c.cx).readS o.c).toNat % 2 ^ w then y else old) ∧ DidAt s t c true (fun x => x.writeS o.d (BitVec.ofNat 64 old))) ∧
      (s.Runs c [o.a, o.b] → ∃ t, exec (.amofadd o) s = .next t ∧ Stored s t a w (fadd w old y).1 ∧
        DidAt s t c true (fun x => (x.orFlags (fadd w old y).2).writeS o.d (BitVec.ofNat 64 old)))) ∧
    (a.extractLsb' 0 7 = 0 → InWindows s c.cx a 128 → s.Runs c [o.a, o.b, o.b + 1, o.c, o.c + 1] → ∀ old, ReadsAs s a 128 old →
      ∃ t, exec (.cas2 o) s = .next t ∧ Stored s t a 128 (if old = pairValue (s.ctx c.cx) o.c then pairValue (s.ctx c.cx) o.b else old) ∧
        DidAt s t c true (fun x => (x.writeS o.d (BitVec.ofNat 64 old)).writeS (o.d + 1) (BitVec.ofNat 64 (old / 2 ^ 64))))

end Sys2Proof.Claims

namespace Sys2Proof.Claims

open Sys2Proof.Machine

/-! ## Engine instructions (R171 to R173, R217 to R224, R282, R369) -/

/-- The issue of an engine instruction: d holds the handle h, of the kind given and of no pending future, and is empty; its context goes on at
a region boundary; no byte of memory and no other context changes. -/
structure Issued (s t : State) (c : Cur) (d : BitVec 6) (kind : Nat) (h : Word) : Prop where
  handle : ∃ n, s.nextHandle ≤ n ∧ h = BitVec.ofNat 64 (kind * 2 ^ 60 + s.sys.self * 2 ^ 48 + c.cx % 8192 * 2 ^ 32 + n % 2 ^ 32) ∧ t.nextHandle = n + 1
  fresh : s.handles.length < 2 ^ 32 → h ∉ s.handles
  future : d ≠ 0 → (t.ctx c.cx).sreg d = { val := h, full := false }
  others : ∀ r, r ≠ d → (t.ctx c.cx).sreg r = (s.ctx c.cx).sreg r
  vectors : (t.ctx c.cx).vregs = (s.ctx c.cx).vregs
  flags : (t.ctx c.cx).csrs.fcsr = (s.ctx c.cx).csrs.fcsr
  pc : (t.ctx c.cx).pc = (s.ctx c.cx).pcAfter c.addr c.len
  count : (t.ctx c.cx).csrs.lcnt = (s.ctx c.cx).countAfter c.addr
  region : (t.ctx c.cx).region = (t.ctx c.cx).opened
  rest : (t.ctx c.cx).rest = (s.ctx c.cx).rest
  contexts : ∀ k, k ≠ c.cx → aget t.ctxs k = aget s.ctxs k
  memory : ∀ a, memByte t.mem a = memByte s.mem a

/-- The failure of an engine instruction at issue: d holds the failure word, full, with its fail bit set (R391, R401, R428). -/
def Refused (s t : State) (c : Cur) (d : BitVec 6) (kind why : Nat) : Prop :=
  Did s t c true (fun x => x.failReg d (BitVec.ofNat 64 (kind * 2 ^ 60 + why * 2 ^ 52))) ∧ SameElse s t c.cx

/-- What a copy of one of these kinds is to do, from its operands: rows × length in bits, the operation record, and its range-lock entries. -/
structure CopyPlan where
  bits : Nat
  op : CopyOp
  windows : List Word
  locks : List RangeLock

/-- The bits between the lowest and the highest that rows of a stride touch: first bit and length (R223). -/
def spanOf (a : Word) (rows len : Nat) (stride : Int) : Word × Nat :=
  (a + BitVec.ofInt 64 (min 0 (stride * (rows - 1 : Nat))), (stride * (rows - 1 : Nat)).natAbs + len)

/-- Signed upper and lower half of a word. -/
def hiHalf (w : Word) : Nat := w.toNat / 2 ^ 32
def loHalf (w : Word) : Nat := w.toNat % 2 ^ 32
def half (n : Nat) : Int := Int.bmod n (2 ^ 32)

/-- CP, CP2D, CPG, CPS and CPFILL (R219): the plan of each for S[a], S[b], S[c] and S[c + 1]. -/
def copyPlans : List ((Ops → Instr) × Bool × (State → Word → Word → Word → Word → CopyPlan)) :=
  [(.cp, false, fun s a b n _ => ⟨n.toNat, { kind := .cp, dst := a, src := b, len := n.toNat, rows := 1 }, [a, b],
      [s.lockEntry true a n.toNat, s.lockEntry false b n.toNat]⟩),
   (.cp2d, true, fun s a b n m => ⟨hiHalf n * loHalf n,
      { kind := .cp2d, dst := a, src := b, len := loHalf n, rows := hiHalf n, dstr := half (hiHalf m), sstr := half (loHalf m) }, [a, b],
      [s.lockEntry true (spanOf a (hiHalf n) (loHalf n) (half (hiHalf m))).1 (spanOf a (hiHalf n) (loHalf n) (half (hiHalf m))).2,
       s.lockEntry false (spanOf b (hiHalf n) (loHalf n) (half (loHalf m))).1 (spanOf b (hiHalf n) (loHalf n) (half (loHalf m))).2]⟩),
   (.cpg, false, fun s a b n _ => ⟨loHalf n * classWidth (hiHalf n % 16), { kind := .cpg, dst := a, src := b, len := loHalf n, cls := hiHalf n % 16 }, [a, b],
      [s.lockEntry true a (loHalf n * classWidth (hiHalf n % 16)), s.lockEntry false b (64 * loHalf n)]⟩),
   (.cps, false, fun s a b n _ => ⟨loHalf n * classWidth (hiHalf n % 16), { kind := .cps, dst := a, src := b, len := loHalf n, cls := hiHalf n % 16 }, [a, b],
      [s.lockEntry false b (loHalf n * classWidth (hiHalf n % 16)), s.lockEntry false a (64 * loHalf n)]⟩),
   (.cpfill, false, fun s a b n _ => ⟨n.toNat, { kind := .cpfill, dst := a, pat := b, len := n.toNat, rows := 1 }, [a], [s.lockEntry true a n.toNat]⟩)]

/-- No operand is one that the copy family refuses: C, window 0b011, or a window of another package (R217, R428). -/
def CopyOperands (s : State) (ops : List Word) : Prop :=
  ∀ a ∈ ops, a.getLsbD 63 = true → winOf a < 2 ∧ pkgAt s a = s.sys.self

/-- Issue of the copies of a core: with operands that are not refused, a length above 0, no remote store outstanding, room in the queue and
range locks that no entry blocks, the copy joins its cluster's queue, its entries are registered, and d is its future; a length of 0 gives
0 at once; a window operand in C or 0b011 is refused with WHY 0x01 (R217 to R219, R223, R224, R282, R369, R428). -/
def CopyIssue : Prop :=
  ∀ row ∈ copyPlans, ∀ (o : Ops) (s : State) (c : Cur) (P : CopyPlan), s.Runs c ([o.a, o.b, o.c] ++ if row.2.1 then [o.c + 1] else []) → c.cx < 8192 →
    P = row.2.2 s ((s.ctx c.cx).readS o.a) ((s.ctx c.cx).readS o.b) ((s.ctx c.cx).readS o.c) ((s.ctx c.cx).readS (o.c + 1)) → P.bits < 2 ^ 56 →
    P.op.cls < 14 → (s.ctx c.cx).rcount = 0 → (s.cluster (c.cx / 512)).copies.length < 64 → (s.cluster (c.cx / 512)).lockFree P.locks = true →
    (CopyOperands s P.windows → P.bits ≠ 0 → ∃ t h, exec (row.1 o) s = .next t ∧ Issued s t c o.d 0x1 h ∧
      (t.cluster (c.cx / 512)).copies = (s.cluster (c.cx / 512)).copies ++ [{ P.op with handle := h, rights := s.rightsOf c.cx, scope := o.imm.toNat }] ∧
      (t.cluster (c.cx / 512)).locks = (s.cluster (c.cx / 512)).locks ++ P.locks.map (fun l => { l with op := h.toNat })) ∧
    (CopyOperands s P.windows → P.bits = 0 → ∃ t, exec (row.1 o) s = .next t ∧ WroteS s t c o.d 0 0 true) ∧
    ((∃ a ∈ P.windows, a.getLsbD 63 = true ∧ 2 ≤ winOf a) → ∃ t, exec (row.1 o) s = .next t ∧ Refused s t c o.d 0x1 0x01)

/-- MCFETCH and MCSEND on a memory core during full service: between windows or translated space and physical bits below the top of
memory; they take no range lock (R221, R223). -/
def MemoryCoreCopies : Prop :=
  ∀ (o : Ops) (s : State) (c : Cur) (n : Nat), s.Runs c [o.a, o.b, o.c] → 8192 ≤ c.cx → n = ((s.ctx c.cx).readS o.c).toNat → 0 < n → n < 2 ^ 56 →
    s.regs.full = true → (s.ctx c.cx).rcount = 0 → (s.mcore ((c.cx - 8192) / 8)).copies.length < 64 →
    CopyOperands s [(s.ctx c.cx).readS o.a] →
    (((s.ctx c.cx).readS o.b).toNat + n ≤ 8 * s.memTop → ∃ t h, exec (.mcsend o) s = .next t ∧ Issued s t c o.d 0x1 h ∧
      (t.mcore ((c.cx - 8192) / 8)).copies = (s.mcore ((c.cx - 8192) / 8)).copies ++ [({ handle := h, kind := .mcsend, rights := s.rightsOf c.cx, dst := (s.ctx c.cx).readS o.b, src := (s.ctx c.cx).readS o.a, len := n, rows := 1, scope := o.imm.toNat } : CopyOp)]) ∧
    (((s.ctx c.cx).readS o.b).toNat + n ≤ 8 * s.memTop → ∃ t h, exec (.mcfetch o) s = .next t ∧ Issued s t c o.d 0x1 h ∧
      (t.mcore ((c.cx - 8192) / 8)).copies = (s.mcore ((c.cx - 8192) / 8)).copies ++ [({ handle := h, kind := .mcfetch, rights := s.rightsOf c.cx, dst := (s.ctx c.cx).readS o.a, src := (s.ctx c.cx).readS o.b, len := n, rows := 1, scope := o.imm.toNat } : CopyOp)])

/-- MCAST from windows of this package, its destination set in a window too: the set is read at issue, and the copy that joins the queue
holds its cores; an empty set gives 0 at once (R124, R220). -/
def MulticastIssue : Prop :=
  ∀ (o : Ops) (s : State) (c : Cur) (n set : Nat) (a b v : Word), s.Runs c [o.a, o.b, o.c, o.c + 1] → c.cx < 8192 → a = (s.ctx c.cx).readS o.a →
    b = (s.ctx c.cx).readS o.b → v = (s.ctx c.cx).readS (o.c + 1) → n = ((s.ctx c.cx).readS o.c).toNat → 0 < n → n < 2 ^ 56 →
    CopyOperands s [a, b, v] → a.getLsbD 63 = true → a.getLsbD 37 = false → a.extractLsb' 23 13 = 0 → (ofsOf a).toNat + n ≤ windowSpan (winOf a) →
    v.getLsbD 63 = true → InWindows s c.cx v 1024 → s.poison = [] → (∀ r ∈ s.rstores, r.uid ≠ (s.ctx c.cx).uid) → ReadsAs s v 1024 set → (s.ctx c.cx).rcount = 0 →
    (s.cluster (c.cx / 512)).copies.length < 64 → (s.cluster (c.cx / 512)).lockFree [s.lockEntry false b n, s.lockEntry false v 1024] = true →
    (set ≠ 0 → ∃ t h p, exec (.mcast o) s = .next t ∧ Issued s t c o.d 0x1 h ∧ (t.cluster (c.cx / 512)).copies = (s.cluster (c.cx / 512)).copies ++ [p] ∧
      p.handle = h ∧ p.kind = .mcast ∧ p.dst = a ∧ p.src = b ∧ p.len = n ∧ p.dests = (List.range 1024).filter (fun k => set.testBit k)) ∧
    (set = 0 → ∃ t, exec (.mcast o) s = .next t ∧ WroteS s t c o.d 0 0 true)

/-- A resolved future fills the registers of running tasks that await it, and changes nothing else of a context (R171). -/
def Filled (s t : State) (h v : Word) (fail : Bool) : Prop :=
  ∀ cx, aget t.ctxs cx = (aget s.ctxs cx).map (fun x => { x with sregs := x.sregs.map (fun r => if r.full = false ∧ r.val = h then { val := v, full := true, fail := fail } else r) })

/-- No task of a core is suspended: a future that resolves is held in the register of a running task. -/
def NoneSuspended (s : State) : Prop := ∀ cl < 16, ∀ r ∈ (s.cluster cl).yard, r.2.place ≠ .suspended

/-- A cluster's copy engine starts its oldest waiting operation when fewer than eight run; an operation all of whose units are written, or one
that FCANCEL has stopped, resolves with the number of bits written, DEN and CXL, and its range locks are released (R201, R218, R223, R369). -/
def CopyEvents : Prop :=
  (∀ (s : State) (x : EvArg) (pre post : List CopyOp) (p : CopyOp), s.Happens x → x.i < 16 → (s.cluster x.i).copies = pre ++ p :: post →
    (∀ q ∈ pre, q.running = true) → pre.length + post.countP (·.running) < 8 → p.running = false → p.kind ≠ .mcast → p.handle = x.w →
    (∀ q ∈ pre ++ post, q.handle ≠ p.handle) →
    ∃ t, exec .copyStart s = .next t ∧ (t.cluster x.i).copies = pre ++ { p with running := true } :: post ∧ t.mem = s.mem ∧ t.ctxs = s.ctxs) ∧
  (∀ (s : State) (x : EvArg) (p : CopyOp), s.Happens x → x.i < 16 → (s.cluster x.i).copies.find? (fun q => q.handle == x.w) = some p → p.kind ≠ .mcast →
    p.failed = none → s.engSettled p.handle = true → p.rights.cx < 8192 → p.rights.cx / 512 = x.i → NoneSuspended s →
    ((p.running = true ∧ p.written.length = p.units) ∨ p.cancel = true) → ∀ cxl, cxl = (p.cancel && !(p.running && p.written.length == p.units)) →
    ∃ t, exec .copyResolve s = .next t ∧ t.mem = s.mem ∧
      Filled s t p.handle (BitVec.ofNat 64 ((if cxl then 2 ^ 63 else 0) + (if p.den then 2 ^ 62 else 0) + p.doneBits % 2 ^ 56)) false ∧
      (t.cluster x.i).copies = (s.cluster x.i).copies.filter (fun q => q.handle != p.handle) ∧
      (t.cluster x.i).locks = (s.cluster x.i).locks.filter (fun l => l.op != p.handle.toNat)) ∧
  (∀ (s : State) (x : EvArg) (p : CopyOp), s.Happens x → x.i < 16 → (s.cluster x.i).copies.find? (fun q => q.handle == x.w) = some p → p.kind = .mcast →
    p.running = true → p.failed = none → p.dests = [] → p.rights.cx < 8192 → p.rights.cx / 512 = x.i → NoneSuspended s →
    ∃ t, exec .mcastResolve s = .next t ∧ t.mem = s.mem ∧
      Filled s t p.handle (BitVec.ofNat 64 ((if p.den then 2 ^ 62 else 0) + p.len % 2 ^ 56)) false ∧
      (t.cluster x.i).copies = (s.cluster x.i).copies.filter (fun q => q.handle != p.handle))

/-- The bits that a unit of a CP in one block moves, between windows W and A of this package: the destination bits take the source's, no other
bit of memory changes but the full/empty bits of the granules that the copy completes (R76, R218, R219); a multicast's delivery at a core writes
its payload there (R124, R125). -/
def CopyMovesBits : Prop :=
  (∀ (s : State) (x : EvArg) (p : CopyOp), s.Happens x → x.i < 16 → (s.cluster x.i).copies = [p] → p.handle = x.w → p.kind = .cp → p.rows = 1 → 0 < p.len →
    p.dst.toNat % 1024 + p.len ≤ 1024 → p.running = true → p.cancel = false → p.failed = none → p.written = [] → p.undo = [] → x.k = 0 → s.poison = [] → s.ldfes = [] → s.rstores = [] →
    s.net.fwds = [] → InWindows s p.rights.cx p.dst p.len → InWindows s p.rights.cx p.src p.len → CopyOperands s [p.dst, p.src] → p.rights.cx < 8192 →
    ∃ t q, exec .copyUnitWrite s = .next t ∧ (∀ i < p.len, bitAt t (p.dst + BitVec.ofNat 64 i) = bitAt s (p.src + BitVec.ofNat 64 i)) ∧
      (∀ b j, b < feBase → (∀ i < p.len, placeByte (p.dst + BitVec.ofNat 64 i) ≠ (b, j)) → (memByte t.mem b).getLsbD j = (memByte s.mem b).getLsbD j) ∧
      (∀ i < p.len, t.granFull (granuleAt (p.dst + BitVec.ofNat 64 i)) = true) ∧
      (t.cluster x.i).copies = [q] ∧ q.written = [0] ∧ q.doneBits = p.doneBits + p.len ∧ t.ctxs = s.ctxs) ∧
  (∀ (s : State) (x : EvArg) (p : CopyOp), s.Happens x → x.i < 16 → (s.cluster x.i).copies = [p] → p.handle = x.w → p.kind = .mcast → p.running = true → p.failed = none →
    x.k ∈ p.dests → x.k < 1024 → s.poison = [] → s.rstores = [] → p.bad = [] → p.snap < 2 ^ p.len → 0 < p.len → InWindows s p.rights.cx p.dst p.len →
    p.dst.getLsbD 37 = false → p.dst.getLsbD 36 = true → winOf p.dst < 2 → x.k / 64 ∉ s.boot.left → p.rights.cx < 8192 →
    ∃ t q, exec .multicastDelivery s = .next t ∧
      (∀ i < p.len, bitAt t (((p.dst + BitVec.ofNat 64 i) &&& ~~~(BitVec.ofNat 64 (1023 * 2 ^ 38))) ||| BitVec.ofNat 64 (x.k * 2 ^ 38)) = p.snap.testBit i) ∧
      (t.cluster x.i).copies = [q] ∧ q.dests = p.dests.filter (· != x.k) ∧ t.ctxs = s.ctxs)

/-- PIN joins the list of pins, or with a length of 0 gives 0 at once; a PIN whose lines have all been processed resolves with the bits not
pinned; UNPIN of a length of 0 releases nothing, and UNPIN of global addresses, no stack being stopped, gives how many of its bits it
released (R84 to R86, R212, R213). -/
def Pins : Prop :=
  (∀ (o : Ops) (s : State) (c : Cur) (n : Nat), s.Runs c [o.a, o.b] → n = ((s.ctx c.cx).readS o.b).toNat → (s.ctx c.cx).rcount = 0 →
    (n ≠ 0 → (8192 ≤ c.cx ∨ (s.cluster (c.cx / 512)).locks.length ≤ 256) → ∃ t h, exec (.pin o) s = .next t ∧ Issued s t c o.d 0x7 h ∧
      t.pins = s.pins ++ [{ handle := h, rights := s.rightsOf c.cx, lo := (s.ctx c.cx).readS o.a, len := n }]) ∧
    (n = 0 → ∃ t, exec (.pin o) s = .next t ∧ WroteS s t c o.d 0 0 true)) ∧
  (∀ (o : Ops) (s : State) (c : Cur) (n : Nat), s.Runs c [o.a, o.b] → n = ((s.ctx c.cx).readS o.b).toNat →
    (n = 0 → ∃ t, exec (.unpin o) s = .next t ∧ WroteS s t c o.d 0 0 true) ∧
    (s.boot.stackStop = [] → ((s.ctx c.cx).readS o.a).toNat + n ≤ 2 ^ 62 → ∃ v t, exec (.unpin o) s = .next t ∧ v.toNat ≤ n ∧
      Did s t c true (fun x => x.writeS o.d v) ∧ (∀ k, k ≠ c.cx → aget t.ctxs k = aget s.ctxs k))) ∧
  (∀ (s : State) (x : EvArg) (p : PinOp), s.Happens x → s.pins = [p] → s.regs.full = true → p.handle = x.w → p.quota = false → p.cancel = false → p.len ≠ 0 → p.lo.getLsbD 63 = true →
    p.next < (p.lo.toNat % 1024 + p.len + 1023) / 1024 → (p.lo.toNat / 1024 + p.next) * 1024 < 2 ^ 64 →
    ∃ t, exec .pinLine s = .next t ∧ t.pins = [{ p with next := p.next + 1 }] ∧ t.caches = s.caches ∧ t.charges = s.charges ∧ t.mem = s.mem) ∧
  (∀ (s : State) (x : EvArg) (p : PinOp), s.Happens x → s.pins = [p] → p.handle = x.w → p.len ≠ 0 → p.cancel = false → p.next = (p.lo.toNat % 1024 + p.len + 1023) / 1024 →
    NoneSuspended s →
    ∃ t, exec .pinResolve s = .next t ∧ t.pins = [] ∧ t.mem = s.mem ∧
      Filled s t p.handle (BitVec.ofNat 64 ((if p.quota then 2 ^ 63 else 0) + p.notPin % 2 ^ 63)) false)

end Sys2Proof.Claims

namespace Sys2Proof.Claims

open Sys2Proof.Machine

/-! ## Vectors (R225 to R250) -/

/-- The mask register of a vector instruction, where it names one (R161, R229). -/
def maskSrc (o : Ops) : List (BitVec 6) := if o.mask = 0 then [] else [o.mask]

/-- Type and tile of vshape (R226). -/
def vtypeOf (x : Ctx) : Nat := x.csrs.vshape.toNat % 32
def rowsOf (x : Ctx) : Nat := x.csrs.vshape.toNat / 64 % 64 + 1
def colsOf (x : Ctx) : Nat := if x.csrs.vshape.toNat / 2 ^ 12 % 64 = 0 then 64 else x.csrs.vshape.toNat / 2 ^ 12 % 64

/-- Is a lane inside the tile, and is it active (R229)? -/
def inTile (x : Ctx) (i : Nat) : Bool := decide (i < rowsOf x * colsOf x)
def isActive (x : Ctx) (o : Ops) (i : Nat) : Bool := inTile x i && (o.mask == 0 || (x.readS o.mask).getLsbD i)

/-- Lane i of a register, and element j of a lane of elements of w bits (R227). -/
def laneAt (v : BitVec 4096) (i : Nat) : Word := v.extractLsb' (64 * i) 64
def elemAt (t : Nat) (l : Word) (j : Nat) : Nat := l.toNat / 2 ^ (typeWidth t * j) % 2 ^ typeWidth t

/-- A register whose active lanes satisfy P and whose other lanes are zero with ZM and as they were without (R229). -/
def LanesAre (x : Ctx) (o : Ops) (act : Nat → Bool) (v : BitVec 4096) (P : Nat → Word → Prop) : Prop :=
  ∀ i < 64, if act i then P i (laneAt v i) else laneAt v i = if o.zm then 0 else laneAt (x.readV o.d) i

/-- A lane that holds the elements f j, its padding zero (R227). -/
def HoldsElems (t : Nat) (f : Nat → Nat) (l : Word) : Prop :=
  (∀ j < typeLane t, elemAt t l j = f j) ∧ l.toNat < 2 ^ (typeWidth t * typeLane t)

/-- The integer types (R128, R227): those with sign, and the value of a code. -/
def integerTypes : List Nat := [7, 8, 9, 10, 11, 12, 13, 14, 15, 16, 17]
def unsignedTypes : List Nat := [12, 13, 14, 15]
def valueOf (t c : Nat) : Int := if t ∈ unsignedTypes then c else Int.bmod c (2 ^ typeWidth t)

/-- The bounds of an integer type, and an exact value under SAT (R128, R129). -/
def lowest (t : Nat) : Int := if t ∈ unsignedTypes then 0 else -(2 ^ (typeWidth t - 1) : Nat)
def highest (t : Nat) : Int := if t ∈ unsignedTypes then (2 ^ typeWidth t : Nat) - 1 else (2 ^ (typeWidth t - 1) : Nat) - 1
def clamped (t : Nat) (v : Int) : Int := max (lowest t) (min (highest t) v)

/-- The exact integer results of VADD, VSUB, VMUL, VFMA, VABS and VNEG (R232, R233). -/
def exactOps : List ((Ops → Instr) × (Int → Int → Int → Int)) :=
  [(.vadd, fun x y _ => x + y), (.vsub, fun x y _ => x - y), (.vmul, fun x y _ => x * y), (.vfma, fun x y z => x * y + z),
   (.vabs, fun x _ _ => |x|), (.vneg, fun x _ _ => -x)]

/-- Operations on integer elements that do not saturate: VMIN, VMAX, the shifts and VMULHN, each with the types it takes and the
code of its result (R232, R234, R246). -/
def codeOps : List ((Ops → Instr) × List Nat × (Nat → Nat → Nat → Nat)) :=
  [(.vmin, integerTypes, fun t x y => if valueOf t x ≤ valueOf t y then x else y),
   (.vmax, integerTypes, fun t x y => if valueOf t x ≤ valueOf t y then y else x),
   (.vshl, integerTypes, fun t x n => if n < typeWidth t then x * 2 ^ n % 2 ^ typeWidth t else 0),
   (.vshr, integerTypes, fun t x n => if n < typeWidth t then x / 2 ^ n else 0),
   (.vsra, integerTypes, fun t x n => (Int.bmod x (2 ^ typeWidth t) / 2 ^ min n (typeWidth t) % (2 ^ typeWidth t : Nat)).toNat),
   (.vmulhn, unsignedTypes, fun t x y => x * y / 2 ^ typeWidth t)]

/-- The floating operations on elements read as numbers, before the one rounding (R134, R138, R232, R233): with the rounding mode, and
whether SAT and the mode field apply. -/
def floatOps : List ((Ops → Instr) × Bool × (Mode → Fv → Fv → Fv → Fv × Flags)) :=
  [(.vadd, true, fun m x y _ => x.add m y), (.vsub, true, fun m x y _ => x.add m y.neg), (.vmul, true, fun _ x y _ => x.mul y),
   (.vfma, true, fun m x y z => x.fma m y z), (.vdiv, true, fun _ x y _ => x.div y),
   (.vabs, false, fun _ x _ _ => (x.abs, 0)), (.vneg, false, fun _ x _ _ => (x.neg, 0)),
   (.vmin, false, fun _ x y _ => (Fv.pick false x y, 0)), (.vmax, false, fun _ x y _ => (Fv.pick true x y, 0))]

/-- The compares of floating elements (R138, R235): over all elements of a lane or some, the relation, and whether a NaN raises NV. -/
def floatCompares : List ((Ops → Instr) × (List Bool → Bool) × (Fv → Fv → Bool) × Bool) :=
  [(.vcmpeq, fun l => l.all id, fun x y => x != .nan && y != .nan && x.same y, false),
   (.vcmpne, fun l => l.any id, fun x y => !(x != .nan && y != .nan && x.same y), false),
   (.vcmplt, fun l => l.all id, fun x y => x != .nan && y != .nan && x.lt y, true),
   (.vcmple, fun l => l.all id, fun x y => x != .nan && y != .nan && (x.lt y || x.same y), true)]

/-- The vector instructions that do not take every type, with the types of each (R231). -/
def typedOps : List ((Ops → Instr) × List Nat) :=
  ([.vadd, .vsub, .vmul, .vdiv, .vfma, .vmin, .vmax, .vabs, .vneg, .vcmpeq, .vcmpne, .vcmplt, .vcmple, .vredadd, .vredmax, .vredmin, .vcvt] :
    List (Ops → Instr)).map (fun i => (i, List.range 18)) ++
  ([.vshl, .vshr, .vsra, .vaor] : List (Ops → Instr)).map (fun i => (i, integerTypes)) ++
  [(.vaadd, 0 :: 1 :: integerTypes), (.vq, [0, 1, 2]), (.vdq, [0, 1, 2]), (.vmulhn, unsignedTypes), (.vexp2, [0])]

/-- The floating formats by type (R131, R227). -/
def formatOf (t : Nat) : Fmt := [fF32, fBF16, fF16, fE4M3, fE5M2, fE2M3, fE3M2].getD t fF32

/-- Controls of a floating operation. -/
def floatCtl (o : Ops) (full : Bool) : Ctl :=
  { mode := if full then modeOf o.rnd.toNat else .rne, sat := full && o.sat, fzo := o.fzo, fzi := o.fzi }

/-- Does some element of an active lane satisfy p? -/
def someElem (x : Ctx) (o : Ops) (t : Nat) (p : Nat → Nat → Bool) : Bool :=
  (List.range 64).any (fun i => isActive x o i && (List.range (typeLane t)).any (p i))

/-- The flags of every active element together. -/
def flagsOf (x : Ctx) (o : Ops) (t : Nat) (f : Nat → Nat → BitVec 6) : BitVec 6 :=
  (List.range 64).foldl (fun g i => if isActive x o i then (List.range (typeLane t)).foldl (fun g j => g ||| f i j) g else g) 0

/-- Lane movement and logic: the lane i that each writes (R232, R238, R239). -/
def laneOps : List ((Ops → Instr) × (Ctx → Ops → Nat → Word)) :=
  [(.vand, fun x o i => laneAt (x.readV o.a) i &&& laneAt (x.readV o.b) i), (.vor, fun x o i => laneAt (x.readV o.a) i ||| laneAt (x.readV o.b) i),
   (.vxor, fun x o i => laneAt (x.readV o.a) i ^^^ laneAt (x.readV o.b) i),
   (.vperm, fun x o i => laneAt (x.readV o.a) ((laneAt (x.readV o.b) i).toNat % 64)),
   (.vslide, fun x o i => if 0 ≤ (i : Int) + o.imm.toInt ∧ (i : Int) + o.imm.toInt < 64 then laneAt (x.readV o.a) ((i : Int) + o.imm.toInt).toNat else 0),
   (.vtrn, fun x o i => laneAt (x.readV o.a) (if o.f = 0 then i % rowsOf x * colsOf x + i / rowsOf x else i / colsOf x * colsOf x + (colsOf x - 1 - i % colsOf x)))]

/-- The compares of R235 on integer elements: whether a lane is set by all of its elements or by one. -/
def compareOps : List ((Ops → Instr) × (List (Int × Int) → Bool)) :=
  [(.vcmpeq, fun l => l.all (fun p => p.1 == p.2)), (.vcmpne, fun l => l.any (fun p => p.1 != p.2)),
   (.vcmplt, fun l => l.all (fun p => decide (p.1 < p.2))), (.vcmple, fun l => l.all (fun p => decide (p.1 ≤ p.2)))]

/-- The elements of the active lanes of a register, ascending. -/
def activeCodes (x : Ctx) (o : Ops) : List Nat :=
  ((List.range 64).filter (isActive x o)).flatMap (fun i => (List.range (typeLane (vtypeOf x))).map (elemAt (vtypeOf x) (laneAt (x.readV o.a) i)))

/-- A scalar from an element code of an integer type (R237). -/
def extended (t c : Nat) : Word := BitVec.ofInt 64 (valueOf t c)

/-- Address of lane i of the contiguous, strided and gathered accesses (R240, R241). -/
def laneAddress (x : Ctx) (o : Ops) : Nat → Nat → Word
  | 0, i => x.readS o.a + 4096 * o.imm + BitVec.ofNat 64 (64 * i)
  | 1, i => x.readS o.a + x.readS o.b * BitVec.ofNat 64 (i / colsOf x) + BitVec.ofNat 64 (64 * (i % colsOf x))
  | _, i => x.readS o.a + laneAt (x.readV o.b) i

/-- The vector loads and stores: the form of the address, and the width of a lane's access. -/
def vectorLoads : List ((Ops → Instr) × Nat × (Ctx → Nat)) := [(.vld, 0, fun _ => 64), (.vlds, 1, fun _ => 64), (.vgath, 2, fun x => typeWidth (vtypeOf x))]
def vectorStores : List ((Ops → Instr) × Nat × (Ctx → Nat)) := [(.vst, 0, fun _ => 64), (.vsts, 1, fun _ => 64), (.vscat, 2, fun x => typeWidth (vtypeOf x))]

/-- The scalar sources of an address form. -/
def addressSrcs (o : Ops) (form : Nat) : List (BitVec 6) := if form = 1 then [o.a, o.b] else [o.a]

/-- Integer arithmetic on elements: every active element takes the exact result modulo 2^w, or under SAT the nearest value of the type,
which raises OF where it differs; the other lanes are zeroed or left; scalars, memory and the rest stand (R129, R229, R232, R233). -/
def VectorIntegers : Prop :=
  (∀ row ∈ exactOps, ∀ (o : Ops) (s : State) (c : Cur) (x : Ctx) (t : Nat), s.Runs c (maskSrc o) → x = s.ctx c.cx → t = vtypeOf x → t ∈ integerTypes →
    ∀ E : Nat → Nat → Int, (∀ i j, E i j = row.2 (valueOf t (elemAt t (laneAt (x.readV o.a) i) j)) (valueOf t (elemAt t (laneAt (x.readV o.b) i) j))
      (valueOf t (elemAt t (laneAt (x.readV (o.e.setWidth 6)) i) j))) →
    ∃ v t', exec (row.1 o) s = .next t' ∧
      LanesAre x o (isActive x o) v (fun i => HoldsElems t (fun j => ((if o.sat then clamped t (E i j) else E i j) % (2 ^ typeWidth t : Nat)).toNat)) ∧
      WroteV s t' c o.d v (if o.sat && someElem x o t (fun i j => clamped t (E i j) != E i j) then flagOF else 0)) ∧
  (∀ row ∈ codeOps, ∀ (o : Ops) (s : State) (c : Cur) (x : Ctx) (t : Nat), s.Runs c (maskSrc o) → x = s.ctx c.cx → t = vtypeOf x → t ∈ row.2.1 →
    ∃ v t', exec (row.1 o) s = .next t' ∧
      LanesAre x o (isActive x o) v (fun i => HoldsElems t (fun j => row.2.2 t (elemAt t (laneAt (x.readV o.a) i) j) (elemAt t (laneAt (x.readV o.b) i) j))) ∧
      WroteV s t' c o.d v 0) ∧
  (∀ (o : Ops) (s : State) (c : Cur) (x : Ctx) (t : Nat), s.Runs c (maskSrc o) → x = s.ctx c.cx → t = vtypeOf x → t ∈ integerTypes → o.sat = false →
    ∃ v fl t', exec (.vdiv o) s = .next t' ∧ WroteV s t' c o.d v fl ∧
      LanesAre x o (isActive x o) v (fun i => HoldsElems t (fun j =>
        if elemAt t (laneAt (x.readV o.b) i) j = 0 then 2 ^ typeWidth t - 1
        else ((valueOf t (elemAt t (laneAt (x.readV o.a) i) j)).tdiv (valueOf t (elemAt t (laneAt (x.readV o.b) i) j)) % (2 ^ typeWidth t : Nat)).toNat)) ∧
      fl = if someElem x o t (fun i j => elemAt t (laneAt (x.readV o.b) i) j == 0) then flagDZ else 0)

/-- Floating arithmetic on elements: each active element is the exact result of the operation on the elements as read, rounded once to the
format, with its flags (R131 to R139, R232, R233), of VMIN and VMAX too, where only FZO raises any (R136, log 36); VEXP2 takes f32 (R150, R249). Of every vector instruction, a type
that it does not take is illegal, detail 7 (R231, R403). -/
def VectorFloats : Prop :=
  (∀ row ∈ floatOps, ∀ (o : Ops) (s : State) (c : Cur) (x : Ctx) (t : Nat), s.Runs c (maskSrc o) → x = s.ctx c.cx → t = vtypeOf x → t ≤ 6 →
    ∀ R : Nat → Nat → Fv × Flags, (∀ i j, R i j = row.2.2 (floatCtl o row.2.1).mode ((formatOf t).read o.fzi (elemAt t (laneAt (x.readV o.a) i) j))
      ((formatOf t).read o.fzi (elemAt t (laneAt (x.readV o.b) i) j)) ((formatOf t).read o.fzi (elemAt t (laneAt (x.readV (o.e.setWidth 6)) i) j))) →
    ∃ v t', exec (row.1 o) s = .next t' ∧
      LanesAre x o (isActive x o) v (fun i => HoldsElems t (fun j => ((formatOf t).give (floatCtl o row.2.1) (R i j).1).1 % 2 ^ typeWidth t)) ∧
      WroteV s t' c o.d v (flagsOf x o t (fun i j => (R i j).2 ||| ((formatOf t).give (floatCtl o row.2.1) (R i j).1).2))) ∧
  (∀ (o : Ops) (s : State) (c : Cur) (x : Ctx), s.Runs c (maskSrc o) → x = s.ctx c.cx → vtypeOf x = 0 →
    ∃ v t, exec (.vexp2 o) s = .next t ∧
      LanesAre x o (isActive x o) v (fun i => HoldsElems 0 (fun j => (exp2 o.fzi o.fzo (elemAt 0 (laneAt (x.readV o.a) i) j)).1 % 2 ^ 32)) ∧
      WroteV s t c o.d v (flagsOf x o 0 (fun i j => (exp2 o.fzi o.fzo (elemAt 0 (laneAt (x.readV o.a) i) j)).2))) ∧
  (∀ row ∈ typedOps, ∀ (o : Ops) (s : State) (c : Cur), s.Issues c → s.Handles c.cx → vtypeOf (s.ctx c.cx) ∉ row.2 →
    ∃ t, exec (row.1 o) s = .next t ∧ Trapped s t c.cx (illegalAt c 7) c.addr c.len)

/-- Movement of lanes and logic on them: each active lane takes the lane that its entry names; VSEL takes a lane of V[a] where the mask is set
and of V[b] elsewhere; VBCAST fills every element of a lane; VEXT and VINS move one lane whatever the mask (R232, R236, R238, R239). -/
def VectorMoves : Prop :=
  (∀ row ∈ laneOps, ∀ (o : Ops) (s : State) (c : Cur) (x : Ctx), s.Runs c (maskSrc o) → x = s.ctx c.cx →
    ∃ v t, exec (row.1 o) s = .next t ∧ LanesAre x o (isActive x o) v (fun i l => l = row.2 x o i) ∧ WroteV s t c o.d v 0) ∧
  (∀ (o : Ops) (s : State) (c : Cur) (x : Ctx), s.Runs c (maskSrc o) → x = s.ctx c.cx →
    ∃ v t, exec (.vsel o) s = .next t ∧ WroteV s t c o.d v 0 ∧
      LanesAre x o (inTile x) v (fun i l => l = if o.mask = 0 ∨ (x.readS o.mask).getLsbD i = true then laneAt (x.readV o.a) i else laneAt (x.readV o.b) i)) ∧
  (∀ (o : Ops) (s : State) (c : Cur) (x : Ctx), s.Runs c (o.a :: maskSrc o) → x = s.ctx c.cx →
    ∃ v t, exec (.vbcast o) s = .next t ∧ WroteV s t c o.d v 0 ∧
      LanesAre x o (isActive x o) v (fun _ => HoldsElems (vtypeOf x) (fun _ => (x.readS o.a).toNat % 2 ^ typeWidth (vtypeOf x)))) ∧
  (∀ (o : Ops) (s : State) (c : Cur), s.Runs c (o.b :: maskSrc o) → ∃ t, exec (.vext o) s = .next t ∧
    WroteS s t c o.d (laneAt ((s.ctx c.cx).readV o.a) (((s.ctx c.cx).readS o.b).toNat % 64)) 0 false) ∧
  (∀ (o : Ops) (s : State) (c : Cur) (x : Ctx), s.Runs c ([o.a, o.b] ++ maskSrc o) → x = s.ctx c.cx → ∃ v t, exec (.vins o) s = .next t ∧ WroteV s t c o.d v 0 ∧
    ∀ i < 64, laneAt v i = if i = (x.readS o.b).toNat % 64 then x.readS o.a else laneAt (x.readV o.d) i)

/-- Compares and reductions of integer and of floating elements, and those of whole lanes: the result goes to S[d] (R138, R149, R235, R237,
R248). -/
def VectorCompares : Prop :=
  (∀ row ∈ compareOps, ∀ (o : Ops) (s : State) (c : Cur) (x : Ctx) (t : Nat), s.Runs c (maskSrc o) → x = s.ctx c.cx → t = vtypeOf x → t ∈ integerTypes →
    ∃ v t', exec (row.1 o) s = .next t' ∧ WroteS s t' c o.d v 0 false ∧ ∀ i < 64, v.getLsbD i = (isActive x o i &&
      row.2 ((List.range (typeLane t)).map (fun j => (valueOf t (elemAt t (laneAt (x.readV o.a) i) j), valueOf t (elemAt t (laneAt (x.readV o.b) i) j)))))) ∧
  (∀ (o : Ops) (s : State) (c : Cur) (x : Ctx) (t : Nat), s.Runs c (maskSrc o) → x = s.ctx c.cx → t = vtypeOf x → t ∈ integerTypes → o.sat = false →
    (∃ t', exec (.vredadd o) s = .next t' ∧ WroteS s t' c o.d (extended t ((((activeCodes x o).map (valueOf t)).sum % (2 ^ typeWidth t : Nat)).toNat)) 0 false) ∧
    (activeCodes x o = [] → ∀ i ∈ [Instr.vredmax, Instr.vredmin], ∃ t', exec (i o) s = .next t' ∧ WroteS s t' c o.d 0 0 false) ∧
    (activeCodes x o ≠ [] → ∃ k ∈ activeCodes x o, (∀ m ∈ activeCodes x o, valueOf t m ≤ valueOf t k) ∧
      ∃ t', exec (.vredmax o) s = .next t' ∧ WroteS s t' c o.d (extended t k) 0 false) ∧
    (activeCodes x o ≠ [] → ∃ k ∈ activeCodes x o, (∀ m ∈ activeCodes x o, valueOf t k ≤ valueOf t m) ∧
      ∃ t', exec (.vredmin o) s = .next t' ∧ WroteS s t' c o.d (extended t k) 0 false)) ∧
  (∀ row ∈ floatCompares, ∀ (o : Ops) (s : State) (c : Cur) (x : Ctx) (t : Nat), s.Runs c (maskSrc o) → x = s.ctx c.cx → t = vtypeOf x → t ≤ 6 →
    ∀ X Y : Nat → Nat → Fv, (∀ i j, X i j = (formatOf t).read o.fzi (elemAt t (laneAt (x.readV o.a) i) j)) →
    (∀ i j, Y i j = (formatOf t).read o.fzi (elemAt t (laneAt (x.readV o.b) i) j)) →
    ∃ v t', exec (row.1 o) s = .next t' ∧ (∀ i < 64, v.getLsbD i = (isActive x o i && row.2.1 ((List.range (typeLane t)).map (fun j => row.2.2.1 (X i j) (Y i j))))) ∧
      WroteS s t' c o.d v (if row.2.2.2 && someElem x o t (fun i j => X i j == .nan || Y i j == .nan) then flagNV else 0) false) ∧
  (∀ (o : Ops) (s : State) (c : Cur) (x : Ctx) (t : Nat), s.Runs c (maskSrc o) → x = s.ctx c.cx → t = vtypeOf x → t ≤ 6 →
    (activeCodes x o = [] → ∀ i ∈ [Instr.vredadd, Instr.vredmax, Instr.vredmin], ∃ t', exec (i o) s = .next t' ∧ WroteS s t' c o.d 0 0 false) ∧
    (activeCodes x o ≠ [] → ∀ r, r = Fv.sum (modeOf o.rnd.toNat) ((activeCodes x o).map ((formatOf t).read o.fzi)) →
      ∀ g, g = (formatOf t).give { mode := modeOf o.rnd.toNat, fzo := o.fzo, fzi := o.fzi } r.1 → ∃ t', exec (.vredadd o) s = .next t' ∧
      WroteS s t' c o.d (BitVec.ofNat 64 (g.1 % 2 ^ typeWidth t)) (r.2 ||| g.2) false) ∧
    (∀ m ms, (activeCodes x o).map ((formatOf t).read o.fzi) = m :: ms → ∀ row ∈ [((Instr.vredmin : Ops → Instr), false), (Instr.vredmax, true)],
      ∀ g, g = (formatOf t).give (floatCtl o false) (ms.foldl (Fv.pick row.2) m) → ∃ t', exec (row.1 o) s = .next t' ∧
      WroteS s t' c o.d (BitVec.ofNat 64 (g.1 % 2 ^ typeWidth t)) g.2 false)) ∧
  (∀ (o : Ops) (s : State) (c : Cur) (x : Ctx), s.Runs c (maskSrc o) → x = s.ctx c.cx →
    (∃ v t, exec (.vredor o) s = .next t ∧ WroteS s t c o.d v 0 false ∧
      ∀ b < 64, (v.getLsbD b = true ↔ ∃ i < 64, isActive x o i = true ∧ (laneAt (x.readV o.a) i).getLsbD b = true)) ∧
    (∃ t, exec (.vpopc o) s = .next t ∧
      WroteS s t c o.d (BitVec.ofNat 64 (((List.range 64).filter (isActive x o)).map (fun i => onesBelow (laneAt (x.readV o.a) i) 64)).sum) 0 false))

/-- Vector loads and stores of windows of this package, and of the core's own for stores: each active lane reads, or writes, the bits at its
address; lanes are written in ascending order, so that where addresses meet the highest lane's bits stand (R230, R240, R241). -/
def VectorMemory : Prop :=
  (∀ row ∈ vectorLoads, ∀ (o : Ops) (s : State) (c : Cur) (x : Ctx), s.Runs c (addressSrcs o row.2.1 ++ maskSrc o) → x = s.ctx c.cx → 0 < row.2.2 x →
    (∀ i < 64, isActive x o i = true → InWindows s c.cx (laneAddress x o row.2.1 i) (row.2.2 x)) → Quiet s c.cx →
    ∃ v t, exec (row.1 o) s = .next t ∧ WroteV s t c o.d v 0 ∧
      LanesAre x o (isActive x o) v (fun i l => ReadsAs s (laneAddress x o row.2.1 i) (row.2.2 x) l.toNat)) ∧
  (∀ row ∈ vectorStores, ∀ (o : Ops) (s : State) (c : Cur) (x : Ctx), s.Runs c (addressSrcs o row.2.1 ++ maskSrc o) → x = s.ctx c.cx → 0 < row.2.2 x →
    (∀ i < 64, isActive x o i = true → InOwnWindows s c.cx (laneAddress x o row.2.1 i) (row.2.2 x) ∧ winOf (laneAddress x o row.2.1 i) ≠ 3) →
    Quiet s c.cx → x.rcount ≤ 512 →
    ∃ t, exec (row.1 o) s = .next t ∧ DidAt s t c false id ∧
      (∀ i < 64, isActive x o i = true → ∀ k < row.2.2 x,
        (∀ m < 64, i < m → isActive x o m = true → ∀ n < row.2.2 x,
          placeByte (laneAddress x o row.2.1 m + BitVec.ofNat 64 n) ≠ placeByte (laneAddress x o row.2.1 i + BitVec.ofNat 64 k)) →
        bitAt t (laneAddress x o row.2.1 i + BitVec.ofNat 64 k) = (laneAt (x.readV o.d) i).getLsbD k) ∧
      (∀ b j, (∀ i < 64, isActive x o i = true → ∀ k < row.2.2 x, placeByte (laneAddress x o row.2.1 i + BitVec.ofNat 64 k) ≠ (b, j)) →
        (memByte t.mem b).getLsbD j = (memByte s.mem b).getLsbD j))

/-- VAOR and VAADD on integer elements in windows of this package, with no two lanes on one word: each active lane ORs, or adds, its element
into the operand at its address, and no other bit of memory changes (R242). -/
def VectorAtomics : Prop :=
  ∀ row ∈ [((Instr.vaor : Ops → Instr), fun (_ : Nat) (old y : Nat) => old ||| y), (Instr.vaadd, fun w old y => (old + y) % 2 ^ w)],
    ∀ (o : Ops) (s : State) (c : Cur) (x : Ctx) (w : Nat), s.Runs c (o.a :: maskSrc o) → x = s.ctx c.cx → vtypeOf x ∈ integerTypes →
    w = typeWidth (vtypeOf x) → (o.imm = 0 ∨ x.rcount = 0) → Quiet s c.cx → s.net.fwds = [] →
    (∀ i < 64, isActive x o i = true → InWindows s c.cx (laneAddress x o 2 i) w ∧ (laneAddress x o 2 i).toNat % 64 + w ≤ 64 ∧ winOf (laneAddress x o 2 i) ≠ 3) →
    (∀ i < 64, ∀ m < 64, isActive x o i = true → isActive x o m = true → i ≠ m → (placeByte (laneAddress x o 2 i)).1 / 8 ≠ (placeByte (laneAddress x o 2 m)).1 / 8) →
    ∃ t, exec (row.1 o) s = .next t ∧ DidAt s t c true id ∧
      (∀ i < 64, isActive x o i = true → ∀ old, ReadsAs s (laneAddress x o 2 i) w old → ReadsAs t (laneAddress x o 2 i) w (row.2 w old ((laneAt (x.readV o.d) i).toNat % 2 ^ w))) ∧
      (∀ b j, (∀ i < 64, isActive x o i = true → ∀ k < w, placeByte (laneAddress x o 2 i + BitVec.ofNat 64 k) ≠ (b, j)) →
        (memByte t.mem b).getLsbD j = (memByte s.mem b).getLsbD j)

/-- Element k of a register of a type (R227). -/
def elemOf (t : Nat) (v : BitVec 4096) (k : Nat) : Nat := elemAt t (laneAt v (k / typeLane t)) (k % typeLane t)

/-- The value of an element of type t as one of type u, with its flags (R134 to R137, R243). -/
def converted (k : Ctl) (t u c : Nat) : Nat × Flags :=
  if t ≤ 6 then
    if u ≤ 6 then (formatOf u).give k ((formatOf t).read k.fzi c)
    else Fv.toInt k.mode (decide (u ∉ unsignedTypes)) (typeWidth u) ((formatOf t).read k.fzi c)
  else if u ≤ 6 then (formatOf u).give k (Fv.ofInt (valueOf t c))
  else (((if k.sat then clamped u (valueOf t c) else valueOf t c) % (2 ^ typeWidth u : Nat)).toNat,
    if k.sat && clamped u (valueOf t c) != valueOf t c then flagOF else 0)

/-- Element e of the destination of VCVT with part p, given the converted elements of the source and the destination's own (R243). -/
def partOf (p sn dn : Nat) (conv : Nat → Nat × Flags) (old : Nat → Nat) (e : Nat) : Nat × Flags :=
  if dn ≤ sn then (if p * dn + e < sn then conv (p * dn + e) else (0, 0))
  else if p * sn ≤ e ∧ e < (p + 1) * sn then conv (e - p * sn) else (old e, 0)

/-- VCVT from any floating or integer type to any, whole or by parts: each active element takes the converted value of its source element,
with the flags of the elements written; VSETS writes a valid shape, and 0 to S[d] for another (R226, R243, R247). -/
def VectorConversions : Prop :=
  (∀ (o : Ops) (s : State) (c : Cur) (x : Ctx) (t u : Nat), s.Runs c (maskSrc o) → x = s.ctx c.cx → t = vtypeOf x → t ≤ 17 → u ≤ 17 →
    u = o.f.toNat + 16 * (o.imm.toNat % 2) →
    ∀ F : Nat → Nat × Flags, (∀ e, F e = partOf (o.imm.toNat / 2) (64 * typeLane t) (64 * typeLane u)
      (fun k => converted (floatCtl o true) t u (elemOf t (x.readV o.a) k)) (elemOf u (x.readV o.d)) e) →
    ∃ v t', exec (.vcvt o) s = .next t' ∧
      LanesAre x o (isActive x o) v (fun i => HoldsElems u (fun j => (F (i * typeLane u + j)).1 % 2 ^ typeWidth u)) ∧
      WroteV s t' c o.d v (flagsOf x o u (fun i j => (F (i * typeLane u + j)).2))) ∧
  (∀ (o : Ops) (s : State) (c : Cur), s.Runs c ([o.a, o.b] ++ maskSrc o) → ∀ ty r k, ty = ((s.ctx c.cx).readS o.a).toNat % 32 → r = ((s.ctx c.cx).readS o.b).toNat / 256 % 256 →
    k = ((s.ctx c.cx).readS o.b).toNat % 256 →
    (ty ≤ 18 ∧ 1 ≤ r ∧ 1 ≤ k ∧ r * k ≤ 64 → ∃ t, exec (.vsets o) s = .next t ∧ SameElse s t c.cx ∧
      Did s t c true (fun x => ({ x with csrs := { x.csrs with vshape := BitVec.ofNat 64 (ty + 64 * (r - 1) + 4096 * (k % 64)) } } : Ctx).writeS o.d (BitVec.ofNat 64 (r * k)))) ∧
    (¬ (ty ≤ 18 ∧ 1 ≤ r ∧ 1 ≤ k ∧ r * k ≤ 64) → ∃ t, exec (.vsets o) s = .next t ∧ WroteS s t c o.d 0 0 true))

/-- VQ quantises V[a] by blocks of kb elements: the codes of a part go to V[d] and the scale bytes to V[d + 1], every other code and byte as it
was; VDQ gives each element the value of its code and scale (R141 to R143, R244, R245). -/
def VectorQuantisation : Prop :=
  ∀ (o : Ops) (s : State) (c : Cur) (x : Ctx) (t n kb : Nat), s.Runs c [] → x = s.ctx c.cx → t = vtypeOf x → t ≤ 2 → n = 64 * typeLane t → kb = 2 ^ o.f.toNat →
    (o.imm.toNat / 16 + 1) * n ≤ 1024 →
    (kb ≤ n → ∀ Q : Nat → Nat × List Nat × Flags, (∀ b, Q b = quantise (modeOf o.rnd.toNat) (if o.imm.toNat % 16 = 0 then [0, 1, 2, 3] else [0, 1, 2, 3].filter (fun T => o.imm.toNat.testBit T))
        ((List.range kb).map (fun j => (formatOf t).read o.fzi (elemAt t (laneAt (x.readV o.a) ((b * kb + j) / typeLane t)) ((b * kb + j) % typeLane t))))) →
      o.d.toNat % 32 ≠ (o.d + 1).toNat % 32 →
      ∃ r, exec (.vq o) s = .next r ∧ SameElse s r c.cx ∧ (r.ctx c.cx).sregs = x.sregs ∧ (r.ctx c.cx).pc = x.pcAfter c.addr c.len ∧
        (∀ e < 1024, elemAt 18 (laneAt ((r.ctx c.cx).readV o.d) (e / 16)) (e % 16) =
          if o.imm.toNat / 16 * n ≤ e ∧ e < (o.imm.toNat / 16 + 1) * n
          then (Q ((e - o.imm.toNat / 16 * n) / kb)).2.1.getD ((e - o.imm.toNat / 16 * n) % kb) 0 % 16 else elemAt 18 (laneAt (x.readV o.d) (e / 16)) (e % 16)) ∧
        (∀ b < 512, (((r.ctx c.cx).readV (o.d + 1)).extractLsb' (8 * b) 8).toNat =
          if o.imm.toNat / 16 * n / kb ≤ b ∧ b < o.imm.toNat / 16 * n / kb + n / kb then (Q (b - o.imm.toNat / 16 * n / kb)).1 % 256
          else ((x.readV (o.d + 1)).extractLsb' (8 * b) 8).toNat)) ∧
    (kb ≤ 1024 → ∃ v fl r, exec (.vdq o) s = .next r ∧ WroteV s r c o.d v fl ∧ ∀ e < n, elemAt t (laneAt v (e / typeLane t)) (e % typeLane t) =
      ((formatOf t).give { mode := modeOf o.rnd.toNat, fzo := o.fzo }
        (q4Fv (((x.readV (o.a + 1)).extractLsb' (8 * ((o.imm.toNat / 16 * n + e) / kb)) 8).toNat)
          (elemAt 18 (laneAt (x.readV o.a) ((o.imm.toNat / 16 * n + e) / 16)) ((o.imm.toNat / 16 * n + e) % 16)))).1 % 2 ^ typeWidth t)

end Sys2Proof.Claims

namespace Sys2Proof.Claims

open Sys2Proof.Machine

/-! ## Matrix work (R145, R148, R251 to R266) -/

/-- MMA (R253): the number of each format, and whether A and B are scaled. -/
def mmaForms : List ((Ops → Instr) × Nat × Bool × Bool) :=
  [(.mmaBf16, 0x0, false, false), (.mmaF16, 0x1, false, false), (.mmaF32, 0x2, false, false), (.mmaE4m3, 0x3, true, true),
   (.mmaE5m2, 0x4, true, true), (.mmaE4m3e5m2, 0x5, true, true), (.mmaI8, 0x6, false, false), (.mmaI8n8, 0x7, false, false),
   (.mmaE2m3, 0x8, true, true), (.mmaE3m2, 0x9, true, true), (.mmaQ4, 0xA, true, true), (.mmaQ4e4m3, 0xB, true, true),
   (.mmaBf16q4, 0xC, false, true), (.mmaI4, 0xD, false, false), (.mmaI3i8, 0xE, false, false)]

/-- SMMA (R263), numbered from 16. -/
def smmaForms : List ((Ops → Instr) × Nat × Bool × Bool) :=
  [(.smmaBf16, 16, false, false), (.smmaE4m3, 17, true, true), (.smmaQ4, 18, true, true)]

/-- The shape that mshape gives (R251): M, N, K, kb, nblk, and tile-tasks. -/
def shapeM (v : Word) : Nat := 128 * (v.toNat / 2 ^ 6 % 64 + 1)
def shapeN (v : Word) : Nat := 128 * (v.toNat / 2 ^ 12 % 64 + 1)
def shapeK (v : Word) : Nat := 16 * (v.toNat / 2 ^ 18 % 2 ^ 16 + 1)
def shapeKb (v : Word) : Nat := 2 ^ (v.toNat % 16 + 4)
def shapeBlocks (v : Word) : Nat := (shapeK v + shapeKb v - 1) / shapeKb v
def shapeTiles (v : Word) : Nat := (v.toNat / 2 ^ 6 % 64 + 1) * (v.toNat / 2 ^ 12 % 64 + 1)

/-- The map that a MAP field names for a task: slot 0 for every task, another slot for its owner (R256, R258). -/
def MapNamed (s : State) (cl uid slot : Nat) (m : MapSlot) : Prop :=
  (slot = 0 ∧ m = {}) ∨ (slot ≠ 0 ∧ aget (s.cluster cl).maps slot = some m ∧ m.owner = uid)

/-- Core of the cluster and C offset of element (row, col) of the output (R256). -/
def outPlace (v : Word) (m : MapSlot) (wout row col : Nat) : Nat × Nat :=
  let g := if m.g = 0 then (shapeM v + 63) / 64 else m.g
  let r := if m.rs = 0 then shapeN v * wout else m.rs
  ((m.cb + m.cs * (row / g)) % 64, m.ob + r * (row % g) + col * wout)

/-- No output element passes the C window (R256). -/
def OutFits (v : Word) (m : MapSlot) (wout : Nat) : Prop :=
  ∀ row < shapeM v, ∀ col < shapeN v, (outPlace v m wout row col).2 + wout ≤ 2 ^ 21

/-- An operand of R rows of w-bit elements is global, or a window operand that is not refused (R255). -/
def OperandOk (s : State) (cl : Nat) (base : Word) (R w : Nat) (scaled : Bool) (v : Word) : Prop :=
  base.getLsbD 63 = false ∨
  (InRange s base ∧ winOf base < 2 ∧ base.getLsbD 37 = false ∧ pkgAt s base = s.sys.self ∧ (coreAt base).toNat / 64 = cl ∧ (ofsOf base).toNat % 128 = 0 ∧
    ∀ r < R, ∀ j < shapeBlocks v, ∀ rl, rl = 128 * ((shapeKb v * w + (if scaled then 8 else 0) + 127) / 128) →
      (ofsOf base).toNat + (j / 64 * R + r) * rl + rl ≤ windowSpan (winOf base))

/-- The record of an instruction that joins the tile generator, from its operands: scale arrays are those of registers c and c + 1, but for
an operand in a window (R255). -/
def mmaRecord (s : State) (c : Cur) (o : Ops) (fmt : Nat) (sa sb : Bool) (m : MapSlot) : MmaOp :=
  let x := s.ctx c.cx
  { rights := s.rightsOf c.cx, fmt := fmt, a := x.readS o.a, b := x.readS o.b, sa := if sa && !(x.readS o.a).getLsbD 63 then x.readS o.c else 0,
    sb := if sb && (decide (16 ≤ fmt) || !(x.readS o.b).getLsbD 63) then x.readS (o.c + 1) else 0,
    mshape := x.csrs.mshape, map := m, scope := o.imm.toNat / 64, rnd := o.rnd.toNat, fzi := o.fzi, fzo := o.fzo, sat := o.sat, prio := x.csrs.base }

/-- The sources of an instruction of pages 12 and 13: the scale registers of a scaled format, but for an operand in a window (R255). -/
def mmaSources (x : Ctx) (o : Ops) (scaled sparse : Bool) : List (BitVec 6) :=
  [o.a, o.b] ++ (if scaled && !(x.readS o.a).getLsbD 63 then [o.c] else []) ++ (if scaled && (sparse || !(x.readS o.b).getLsbD 63) then [o.c + 1] else [])

/-- The w bits from a lie in windows W, A and C of a cluster (R67). -/
def InCluster (cl : Nat) (a : Word) (w : Nat) : Prop :=
  ∀ i < w, (coreAt (a + BitVec.ofNat 64 i)).toNat / 64 = cl ∧ winOf (a + BitVec.ofNat 64 i) ≠ 3

/-- An instruction joins the tile generator of its cluster: its record stands there, and its range-lock entries. -/
def Joined (s t : State) (c : Cur) (o : Ops) (p : MmaOp) (locks : List RangeLock) : Prop :=
  ∃ h, Issued s t c o.d 0x2 h ∧ (t.cluster (c.cx / 512)).gen = (s.cluster (c.cx / 512)).gen ++ [{ p with handle := h }] ∧
    (t.cluster (c.cx / 512)).locks = (s.cluster (c.cx / 512)).locks ++ locks.map (fun l => { l with op := h.toNat })

/-- Nothing makes an instruction of pages 12 and 13 wait at issue. -/
def Clear (s : State) (c : Cur) (locks : List RangeLock) : Prop :=
  c.cx < 8192 ∧ (s.ctx c.cx).rcount = 0 ∧ (s.cluster (c.cx / 512)).gen.length < 64 ∧ (s.cluster (c.cx / 512)).lockFree locks = true

/-- MMA of every format (R255, R256, R258, R261, R428): issue, and what refuses it. -/
def MatrixIssue : Prop :=
  ∀ row ∈ mmaForms, ∀ (o : Ops) (s : State) (c : Cur) (m : MapSlot) (p : MmaOp), s.Runs c (mmaSources (s.ctx c.cx) o (row.2.2.1 || row.2.2.2) false) → c.cx < 8192 →
    p = mmaRecord s c o row.2.1 row.2.2.1 row.2.2.2 m → ∀ okA okB : Prop,
    okA = OperandOk s (c.cx / 512) p.a (shapeM p.mshape) (pairOf p.fmt).a.width row.2.2.1 p.mshape →
    okB = OperandOk s (c.cx / 512) p.b (shapeN p.mshape) (pairOf p.fmt).b.width row.2.2.2 p.mshape →
    (MapNamed s (c.cx / 512) (s.ctx c.cx).uid (o.imm.toNat % 64) m →
      (okA → okB → OutFits p.mshape m p.wout → Clear s c (p.locks s) → ∃ t, exec (row.1 o) s = .next t ∧ Joined s t c o p (p.locks s)) ∧
      (¬ (okA ∧ okB) → (s.ctx c.cx).rcount = 0 → ∃ t, exec (row.1 o) s = .next t ∧ Refused s t c o.d 0x2 0x02) ∧
      (okA → okB → ¬ OutFits p.mshape m p.wout → (s.ctx c.cx).rcount = 0 → ∃ t, exec (row.1 o) s = .next t ∧ Refused s t c o.d 0x2 0x03)) ∧
    ((∀ m', ¬ MapNamed s (c.cx / 512) (s.ctx c.cx).uid (o.imm.toNat % 64) m') → (s.ctx c.cx).rcount = 0 → ∃ t, exec (row.1 o) s = .next t ∧ Refused s t c o.d 0x2 0x01)

/-- SMMA, its CSR record and its ROWP entries in windows of the issuing cluster (R67, R263, R264): it reads them at issue, and the record that joins the generator holds
the three words. -/
def SparseIssue : Prop :=
  ∀ row ∈ smmaForms, ∀ (o : Ops) (s : State) (c : Cur) (m : MapSlot) (p : MmaOp) (rowp coli vals first last : Nat),
    s.Runs c (mmaSources (s.ctx c.cx) o (row.2.2.1 || row.2.2.2) true) → p = { mmaRecord s c o row.2.1 row.2.2.1 row.2.2.2 m with rowp := BitVec.ofNat 64 rowp, coli := BitVec.ofNat 64 coli, vals := BitVec.ofNat 64 vals } →
    (∀ k v, (k, v) ∈ [(0, rowp), (64, coli), (128, vals)] → InWindows s c.cx (p.b + BitVec.ofNat 64 k) 64 ∧ InCluster (c.cx / 512) (p.b + BitVec.ofNat 64 k) 64 ∧ ReadsAs s (p.b + BitVec.ofNat 64 k) 64 v) →
    p.b.getLsbD 63 = true → p.rowp.getLsbD 63 = true → (p.rowp + BitVec.ofNat 64 (32 * shapeN p.mshape)).getLsbD 63 = true →
    InWindows s c.cx p.rowp 32 → InCluster (c.cx / 512) p.rowp 32 → ReadsAs s p.rowp 32 first →
    InWindows s c.cx (p.rowp + BitVec.ofNat 64 (32 * shapeN p.mshape)) 32 → InCluster (c.cx / 512) (p.rowp + BitVec.ofNat 64 (32 * shapeN p.mshape)) 32 →
    ReadsAs s (p.rowp + BitVec.ofNat 64 (32 * shapeN p.mshape)) 32 last → s.poison = [] → s.rstores = [] →
    MapNamed s (c.cx / 512) (s.ctx c.cx).uid (o.imm.toNat % 64) m →
    OperandOk s (c.cx / 512) p.a (shapeM p.mshape) (pairOf p.fmt).a.width row.2.2.1 p.mshape → OutFits p.mshape m p.wout →
    Clear s c (p.locks s ++ p.csrLocks s first last) →
    ∃ t, exec (row.1 o) s = .next t ∧ Joined s t c o p (p.locks s ++ p.csrLocks s first last)

/-- MZERO joins the generator without a range lock (R265); MSHAPE writes a valid mshape and the number of tile-tasks, or leaves it and
gives 0 (R252). -/
def ShapeAndZero : Prop :=
  (∀ (o : Ops) (s : State) (c : Cur) (m : MapSlot) (p : MmaOp), s.Runs c [o.a] →
    p = { mmaRecord s c o 32 false false m with b := 0, sa := 0, sb := 0 } →
    MapNamed s (c.cx / 512) (s.ctx c.cx).uid (o.imm.toNat % 64) m → OutFits p.mshape m (if p.mshape.getLsbD 5 then 16 else 32) → Clear s c [] →
    ∃ t, exec (.mzero o) s = .next t ∧ Joined s t c o p []) ∧
  (∀ (o : Ops) (s : State) (c : Cur) (v : Word), s.Runs c [o.a] → c.cx < 8192 → v = (s.ctx c.cx).readS o.a →
    ∃ t, exec (.mshape o) s = .next t ∧ SameElse s t c.cx ∧
      Did s t c true (fun x => if v.toNat % 16 ≤ 6 then ({ x with csrs := { x.csrs with mshape := v } } : Ctx).writeS o.d (BitVec.ofNat 64 (shapeTiles v)) else x.writeS o.d 0))

/-- MMAP takes the lowest free slot for the issuing task, or answers 0 where none is free; it frees a slot of the task, and answers all ones
for another (R257). -/
def MapSlots : Prop :=
  ∀ (o : Ops) (s : State) (c : Cur) (a b : Word) (cl : Nat) (maps : Assoc MapSlot), s.Runs c [o.a, o.b] → c.cx < 8192 → a = (s.ctx c.cx).readS o.a → b = (s.ctx c.cx).readS o.b →
    cl = c.cx / 512 → maps = (s.cluster cl).maps →
    (a.getLsbD 63 = false → ∀ k, 1 ≤ k → k ≤ 63 → aget maps k = none → (∀ j, 1 ≤ j → j < k → (aget maps j).isSome = true) →
      ∃ t m, exec (.mmapAllocate o) s = .next t ∧ Did s t c true (fun x => x.writeS o.d (BitVec.ofNat 64 k)) ∧
        m = { cb := a.toNat % 64, cs := a.toNat / 2 ^ 6 % 64, g := a.toNat / 2 ^ 12 % 256, ob := 128 * (b.toNat % 2 ^ 14), rs := 128 * (b.toNat / 2 ^ 14 % 2 ^ 14), owner := (s.ctx c.cx).uid } ∧
        SameElse (s.modCluster cl (fun C => { C with maps := aset C.maps k m })) t c.cx) ∧
    (a.getLsbD 63 = false → (∀ j, 1 ≤ j → j ≤ 63 → (aget maps j).isSome = true) → ∃ t, exec (.mmapAllocate o) s = .next t ∧ WroteS s t c o.d 0 0 true) ∧
    (a.getLsbD 63 = true → ∀ m, aget maps (b.toNat % 64) = some m → m.owner = (s.ctx c.cx).uid →
      ∃ t, exec (.mmapFree o) s = .next t ∧ Did s t c true (fun x => x.writeS o.d 0) ∧
        SameElse (s.modCluster cl (fun C => { C with maps := adel C.maps (b.toNat % 64) })) t c.cx) ∧
    (a.getLsbD 63 = true → (∀ m, aget maps (b.toNat % 64) = some m → m.owner ≠ (s.ctx c.cx).uid) →
      ∃ t, exec (.mmapFree o) s = .next t ∧ WroteS s t c o.d (-1) 0 true)

/-- The bit of C of core k of a cluster at an in-core offset. -/
def cBit (s : State) (core off : Nat) : Bool := (memByte s.mem (windowKey core 2 (off / 8 * 8))).getLsbD (off % 8)

/-- A tile-task's rows: the generator places tile-tasks in yard records, the columns of tiles fastest, when more than 32 records are free and no other source has taken one in the cycle; a
free engine, the lowest, takes one that is ready; each row segment of an MZERO holds the low bits of its operand in every element and its granules
are full (R256, R258, R260, R265, R365). -/
def TileTasks : Prop :=
  (∀ (s : State) (x : EvArg) (p : MmaOp) (k : Nat), s.Happens x → (s.cluster x.i).gen = [p] → p.cancel = false → p.failed = none → p.placed < shapeTiles p.mshape →
    (s.cluster x.i).took.1 ≠ s.cycle → 32 < (s.cluster x.i).freeRecs → k < 1024 → aget (s.cluster x.i).yard k = none → (∀ j < k, (aget (s.cluster x.i).yard j).isSome = true) →
    ∃ t, exec .tilePlace s = .next t ∧ (t.cluster x.i).gen = [{ p with placed := p.placed + 1 }] ∧ t.mem = s.mem ∧ t.ctxs = s.ctxs ∧
      (t.cluster x.i).tiles = (s.cluster x.i).tiles ++ [{ handle := p.handle, tm := p.placed / (shapeN p.mshape / 128), tn := p.placed % (shapeN p.mshape / 128), yr := k, ord := (s.cluster x.i).nextOrd }] ∧
      (t.cluster x.i).yard = aset (s.cluster x.i).yard k { uid := p.handle.toNat, kind := .tile, base := p.prio, place := .tile, since := s.cycle }) ∧
  (∀ (s : State) (x : EvArg) (p : MmaOp) (u : Tile) (e : Fin 4), s.Happens x → (s.cluster x.i).gen = [p] → (s.cluster x.i).tiles = [u] → u.handle = p.handle → p.cancel = false → p.failed = none →
    (p.fmt = 32 ∨ (p.a.getLsbD 63 = false ∧ (p.b.getLsbD 63 = false ∨ 16 ≤ p.fmt))) → (s.cluster x.i).engines[e] = none →
    (∀ f : Fin 4, f < e → (s.cluster x.i).engines[f] ≠ none) → (∀ (f : Fin 4) v, (s.cluster x.i).engines[f] = some v → u.ord ≤ v.ord) →
    ∃ t, exec .tileTaskDispatch s = .next t ∧ (t.cluster x.i).engines[e] = some u ∧ (∀ f, f ≠ e → (t.cluster x.i).engines[f] = (s.cluster x.i).engines[f]) ∧
      (t.cluster x.i).tiles = [] ∧ (t.cluster x.i).gen = [p] ∧ t.mem = s.mem ∧ t.ctxs = s.ctxs) ∧
  (∀ (s : State) (x : EvArg) (p : MmaOp) (u : Tile) (e : Fin 4) (w row : Nat), s.Happens x → x.i < 16 → x.k = e.val → (s.cluster x.i).gen = [p] → (s.cluster x.i).engines[e] = some u → u.handle = p.handle →
    u.stop = false → u.row < 128 → p.fmt = 32 → w = (if p.mshape.getLsbD 5 then 16 else 32) → row = 128 * u.tm + u.row → row < shapeM p.mshape → 128 * u.tn + 127 < shapeN p.mshape → p.rights.cx / 512 = x.i →
    p.rights.cx < 8192 → p.map.ob % 128 = 0 → p.map.rs % 128 = 0 → OutFits p.mshape p.map w → s.poison = [] → s.ldfes = [] → s.rstores = [] → x.i ∉ s.boot.left →
    (∀ m < shapeM p.mshape, m ≠ row → ∀ n < shapeN p.mshape, ∀ n' < shapeN p.mshape, (outPlace p.mshape p.map w m n).1 ≠ (outPlace p.mshape p.map w row n').1 ∨
      (outPlace p.mshape p.map w m n).2 ≠ (outPlace p.mshape p.map w row n').2) →
    ∃ t, exec .rowSegmentWrite s = .next t ∧ t.ctxs = s.ctxs ∧ (t.cluster x.i).engines[e] = some { u with row := u.row + 1 } ∧
      (∀ n < 128, ∀ i < w, ∀ q, q = outPlace p.mshape p.map w row (128 * u.tn + n) → cBit t (64 * x.i + q.1) (q.2 + i) = p.a.getLsbD i ∧
        t.granFull (granuleId (64 * x.i + q.1) 2 (q.2 + i)) = true) ∧
      (∀ core < 1024, ∀ off < 2 ^ 21, (∀ n < 128, ∀ i < w, ∀ q, q = outPlace p.mshape p.map w row (128 * u.tn + n) → (core, off) ≠ (64 * x.i + q.1, q.2 + i)) → cBit t core off = cBit s core off))

/-- The end of an instruction's last tile-task resolves its future with the completion word; the record of the tile-task is free (R259). -/
def TileTaskEnds : Prop :=
  ∀ (s : State) (x : EvArg) (p : MmaOp) (u : Tile) (e : Fin 4), s.Happens x → x.i < 16 → x.k = e.val → (s.cluster x.i).gen = [p] → (s.cluster x.i).tiles = [] → (s.cluster x.i).engines[e] = some u →
    (∀ f, f ≠ e → (s.cluster x.i).engines[f] = none) → u.handle = p.handle → u.stop = false → u.row = 128 → p.cancel = false → p.failed = none → p.tainted = false → p.placed = shapeTiles p.mshape →
    p.rights.cx / 512 = x.i → p.rights.cx < 8192 → NoneSuspended s → (s.cluster x.i).streams.closure = [] →
    (s.cluster x.i).streams.herdq = [] → ∃ t, exec .tileTaskEnd s = .next t ∧ t.mem = s.mem ∧ (t.cluster x.i).gen = [] ∧ aget (t.cluster x.i).yard u.yr = none ∧ (t.cluster x.i).engines[e] = none ∧
      (t.cluster x.i).locks = (s.cluster x.i).locks.filter (fun l => l.op != p.handle.toNat) ∧
      Filled s t p.handle (BitVec.ofNat 64 ((if p.den then 2 ^ 62 else 0) + p.flg.toNat * 2 ^ 48 + (p.ran + 1) % 2 ^ 13)) false

/-- An element of MMA.I8 without saturation: the prior value and the sum of the products, modulo 2^32 (R145, R148, R258). -/
def IntegerElements : Prop :=
  ∀ (p : MmaOp) (f g : Nat → Nat) (prior : Nat), p.fmt = 0x6 → p.sat = false → p.mshape.toNat % 16 ≤ 6 → prior < 2 ^ 32 →
    (p.element { els := (List.range (shapeK p.mshape)).map (fun k => (k, f k)) } { els := (List.range (shapeK p.mshape)).map (fun k => (k, g k)) } prior).1 =
      (((prior : Int) + ((List.range (shapeK p.mshape)).map (fun k => (BitVec.ofNat 8 (f k)).toInt * (BitVec.ofNat 8 (g k)).toInt)).sum) % 2 ^ 32).toNat

end Sys2Proof.Claims

namespace Sys2Proof.Claims

open Sys2Proof.Machine

/-! ## Streams (R295 to R317) -/

/-- The sources of an instruction of formats RRR and RRF. -/
def srcTwo (o : Ops) : List (BitVec 6) := [o.a, o.b]
def srcOne (o : Ops) : List (BitVec 6) := [o.a]

/-- Page 14 without SMIG (R312): major opcode, kind of handle, sources. -/
def streamForms : List ((Ops → Instr) × Nat × Nat × (Ops → List (BitVec 6))) :=
  [(.snew, 0x0, 0x4, srcTwo), (.sfork, 0x1, 0x4, srcTwo), (.sprune, 0x2, 0x4, srcOne), (.sjgrp, 0x3, 0x6, srcTwo), (.sjoin, 0x4, 0x6, srcTwo),
   (.sstep, 0x5, 0x4, srcTwo), (.saqp, 0x6, 0x4, srcOne), (.saqw, 0x7, 0x4, srcTwo), (.shz, 0x8, 0x4, srcOne), (.shzd, 0x9, 0x4, srcOne),
   (.smapFresh, 0xB, 0x4, srcTwo), (.smapShare, 0xB, 0x4, srcTwo), (.smapUnmap, 0xB, 0x4, srcTwo), (.smapFrame, 0xB, 0x4, srcTwo), (.send, 0xC, 0x4, srcOne)]

/-- An engine instruction joins the queue of its cluster's stream processor. -/
def StreamQueued (s t : State) (c : Cur) (o : Ops) (kind : Nat) (op : EngOp) : Prop :=
  ∃ h, Issued s t c o.d kind h ∧
    (t.cluster (c.cx / 512)).streams.queue = (s.cluster (c.cx / 512)).streams.queue ++ [{ op with handle := h, rights := s.rightsOf c.cx }]

/-- The stream processor's queue takes the instruction now. -/
def StreamRoom (s : State) (c : Cur) : Prop :=
  c.cx < 8192 ∧ (s.ctx c.cx).rcount = 0 ∧ (s.cluster (c.cx / 512)).streams.queue.length < 64 ∧ (s.cluster (c.cx / 512)).locks.length ≤ 256

/-- Issue of page 14 (R282, R312, R315, R369): the instruction waits in the stream processor's queue with its operands. -/
def StreamIssue : Prop :=
  ∀ row ∈ streamForms, ∀ (o : Ops) (s : State) (c : Cur) (x y : Word), s.Runs c (row.2.2.2 o) → StreamRoom s c → x = (s.ctx c.cx).readS o.a →
    y = (s.ctx c.cx).readS o.b → (row.2.1 = 3 → (s.die ((y.toNat / 64) % 4)).groups.length < 4096) →
    ∃ t, exec (row.1 o) s = .next t ∧ StreamQueued s t c o row.2.2.1 { op := row.2.1, a := x, b := y }

/-- The stream with this id is live in a cluster, in this slot (R295). -/
def Live (s : State) (cl slot : Nat) (u : StreamCtx) : Prop :=
  u.id ≠ 0 ∧ u.id.toNat % 4096 = slot ∧ aget (s.cluster cl).streams.ctxs slot = some u ∧ u.state ≠ .free

/-- No stream of the cluster has this id. -/
def NotLive (s : State) (cl : Nat) (id : BitVec 32) : Prop := ∀ u, ¬ (u.id = id ∧ Live s cl (id.toNat % 4096) u)

/-- SMIG of an IDLE stream to another package of the system, with no earlier operation on it: it is queued, and the stream is MIGRATING from
then on; of a stream that is not live, or not IDLE, or to this package, it is queued and will answer so (R311, R317). -/
def MigrationIssue : Prop :=
  ∀ (o : Ops) (s : State) (c : Cur) (x y : Word) (cl pkg slot : Nat) (id : BitVec 32), s.Runs c [o.a, o.b] → StreamRoom s c → cl = c.cx / 512 →
    x = (s.ctx c.cx).readS o.a → y = (s.ctx c.cx).readS o.b → x ≠ 0 → x.toNat < 2 ^ 32 → id = x.setWidth 32 → slot = id.toNat % 4096 → pkg = y.toNat % 4096 →
    (∀ q ∈ (s.cluster cl).streams.queue, id ∉ q.streams) → (∀ q ∈ (s.cluster cl).streams.cows, q.sid ≠ id) → s.rstores = [] →
    (∀ u, u.id = id → Live s cl slot u → u.state = .idle → pkg ≠ s.sys.self → s.knows pkg = true →
      ∃ t, exec (.smig o) s = .next t ∧ StreamQueued s t c o 0x4 { op := 0xA, a := x, b := y, posts := 0 } ∧
        aget (t.cluster cl).streams.ctxs slot = some { u with state := .migrating }) ∧
    (NotLive s cl id → ∃ t, exec (.smig o) s = .next t ∧ StreamQueued s t c o 0x4 { op := 0xA, a := x, b := y, posts := 1 } ∧
      (t.cluster cl).streams.ctxs = (s.cluster cl).streams.ctxs) ∧
    (∀ u, u.id = id → Live s cl slot u → u.state ≠ .idle →
      ∃ t, exec (.smig o) s = .next t ∧ StreamQueued s t c o 0x4 { op := 0xA, a := x, b := y, posts := 2 } ∧ (t.cluster cl).streams.ctxs = (s.cluster cl).streams.ctxs) ∧
    (∀ u, u.id = id → Live s cl slot u → u.state = .idle → (pkg = s.sys.self ∨ s.knows pkg = false) →
      ∃ t, exec (.smig o) s = .next t ∧ StreamQueued s t c o 0x4 { op := 0xA, a := x, b := y, posts := 3 } ∧ (t.cluster cl).streams.ctxs = (s.cluster cl).streams.ctxs)

/-- The stream processor's turn on its only operation, with no group open and no copy-on-write walk in progress. -/
def OnlyOp (s : State) (x : EvArg) (op : EngOp) : Prop :=
  s.Happens x ∧ x.i < 16 ∧ (s.cluster x.i).streams.queue = [op] ∧ (s.cluster x.i).streams.open_ = [] ∧ (s.cluster x.i).streams.cows = [] ∧ op.handle = x.w ∧ op.rights.cx < 8192 ∧ op.rights.cx / 512 = x.i ∧ NoneSuspended s

/-- The operation leaves the queue and its future takes v; f says what becomes of the stream contexts. -/
def Answered (s t : State) (x : EvArg) (op : EngOp) (v : Word) (f : StreamProc → StreamProc) : Prop :=
  Filled s t op.handle v false ∧ (t.cluster x.i).streams = { f (s.cluster x.i).streams with queue := [] }

/-- The operations that name a live stream first, and answer all ones where it is not live (R312, R313, R316). -/
def needLive : List Nat := [0x1, 0x2, 0x4, 0x5, 0x6, 0x7, 0x8, 0x9, 0xC]

/-- What the operations of page 14 answer, and what they make of the stream contexts (R295, R297, R304, R307, R312 to R315, R317). -/
def StreamAnswers : Prop :=
  (∀ (s : State) (x : EvArg) (op : EngOp), OnlyOp s x op → op.op ∈ needLive → op.a ≠ 0 → op.a.toNat < 2 ^ 32 → NotLive s x.i (op.a.setWidth 32) →
    ∃ t, exec .streamOpResolve s = .next t ∧ Answered s t x op (-1) id ∧ t.mem = s.mem) ∧
  (∀ (s : State) (x : EvArg) (op : EngOp) (u : StreamCtx) (slot : Nat), OnlyOp s x op → op.a = u.id.setWidth 64 → Live s x.i slot u →
    (op.op = 0x8 → ∃ t, exec .streamOpResolve s = .next t ∧ Answered s t x op (u.hz.setWidth 64) (fun p => { p with ctxs := aset p.ctxs slot u }) ∧ t.mem = s.mem) ∧
    (op.op = 0x9 → ∀ hz, hz = BitVec.ofNat 32 (u.hz.toNat - 1) → ∃ t, exec .streamOpResolve s = .next t ∧
      Answered s t x op (hz.setWidth 64) (fun p => { p with ctxs := aset p.ctxs slot { u with hz := hz } }) ∧ t.mem = s.mem) ∧
    (op.op = 0x6 → (u.aqn = 0 ∨ u.qtail = u.qhead) → ∃ t, exec .streamOpResolve s = .next t ∧ Answered s t x op (-1) id ∧ t.mem = s.mem) ∧
    (op.op = 0x7 → op.b = -1 → ∃ t, exec .streamOpResolve s = .next t ∧ Answered s t x op 2 id ∧ t.mem = s.mem) ∧
    (op.op = 0x7 → op.b ≠ -1 → (u.aqn = 0 ∨ (u.qtail - u.qhead).toNat = 2 ^ u.aqn.toNat) →
      ∃ t, exec .streamOpResolve s = .next t ∧ Answered s t x op 1 id ∧ t.mem = s.mem) ∧
    (op.op = 0x5 → (u.state = .arrived ∨ u.state = .migrating) → ∃ t, exec .streamOpResolve s = .next t ∧ Answered s t x op 1 id ∧ t.mem = s.mem) ∧
    (op.op = 0xC → u.state ≠ .herded → ∃ t, exec .streamOpResolve s = .next t ∧ Answered s t x op 1 id ∧ t.mem = s.mem) ∧
    (op.op = 0xC → u.state = .herded → (s.cluster x.i).events.boundTo u.id = [] → (s.cluster x.i).streams.closure = [] → (s.cluster x.i).streams.herdq = [] → ∃ t, exec .streamOpResolve s = .next t ∧
      Answered s t x op 0 (fun p => { p with ctxs := aset p.ctxs slot { u with state := .idle, herd := none } }) ∧ t.mem = s.mem) ∧
    (op.op = 0x2 → u.state = .migrating → ∃ t, exec .streamOpResolve s = .next t ∧ Answered s t x op 1 id ∧ t.mem = s.mem) ∧
    (op.op = 0x1 → u.state = .migrating → ∃ t, exec .streamOpResolve s = .next t ∧ Answered s t x op (-1) id ∧ t.mem = s.mem) ∧
    (op.op = 0x4 → u.jg = 0 → ∃ t, exec .streamOpResolve s = .next t ∧ Answered s t x op 1 id ∧ t.mem = s.mem)) ∧
  (∀ (s : State) (x : EvArg) (op : EngOp), OnlyOp s x op → op.op = 0xA → ∀ v, (op.posts, v) ∈ [(1, (-1 : Word)), (2, 0x8000000000000000), (3, 0xC000000000000000)] →
    ∃ t, exec .streamOpResolve s = .next t ∧ Answered s t x op v id ∧ t.mem = s.mem)

/-- Nothing stands in the way of what the stream processor reads and writes: no damage, no store in flight, no page that moves or has moved, no
memory core stopped. -/
def Undisturbed (s : State) : Prop :=
  s.poison = [] ∧ s.rstores = [] ∧ s.moves = [] ∧ s.boot.stackStop = [] ∧ s.regs.hotbTbl = false

/-- Byte offset of action q of a stream in its space (R307). -/
def actionOff (u : StreamCtx) (q : BitVec 32) : Nat := u.qb.toNat / 8 + 8 * (q.toNat % 2 ^ u.aqn.toNat)

/-- The tree entries of a stream for a page: its root entry, and its leaf entry (R91). -/
def rootAt (u : StreamCtx) (page : Nat) : Nat := u.root + 8 * (page / 512)
def leafAt (s : State) (u : StreamCtx) (page : Nat) : Nat := leafFrame (s.phys (rootAt u page)) + 8 * (page % 512)

/-- The stream's tree down to a page's leaf node is its own (R302). -/
def OwnTree (s : State) (u : StreamCtx) (page : Nat) : Prop :=
  u.root % 8 = 0 ∧ s.refCount u.root ≤ 1 ∧ (s.phys (rootAt u page)).getLsbD 0 = true ∧ s.refCount (leafFrame (s.phys (rootAt u page))) ≤ 1

/-- Action q of the stream lies at this byte key, in a page of its own with tag 0 that it may read and write (R91, R105, R307). -/
def ActionAt (s : State) (op : EngOp) (u : StreamCtx) (q : BitVec 32) (key : Nat) : Prop :=
  u.qb.toNat % 64 = 0 ∧ u.qb.toNat + 64 * 2 ^ u.aqn.toNat ≤ 2 ^ 37 ∧ OwnTree s u (actionOff u q / 2 ^ 16) ∧
    (s.phys (leafAt s u (actionOff u q / 2 ^ 16))).toNat % 8 = 7 ∧ (s.phys (leafAt s u (actionOff u q / 2 ^ 16))).toNat / 2 ^ 44 = 0 ∧
    s.refCount (pageFrame (s.phys (leafAt s u (actionOff u q / 2 ^ 16)))) ≤ 1 ∧
    key = pageFrame (s.phys (leafAt s u (actionOff u q / 2 ^ 16))) + actionOff u q % 2 ^ 16 ∧ key < s.memTop ∧ s.lineTag (op.agent u.id) key 0 = 0

/-- SAQP gives the action at the head of the stream's queue, SAQW writes one at the tail; SSTEP of a stream that may move makes it ARRIVED at a
valid layer, in a new group where none is open, and answers 3 for an invalid one (R304, R305, R307, R308, R314). -/
def StreamSteps : Prop :=
  ∀ (s : State) (x : EvArg) (op : EngOp) (u : StreamCtx) (slot : Nat), OnlyOp s x op → op.a = u.id.setWidth 64 → Live s x.i slot u → u.state ≠ .migrating →
    (Undisturbed s → ∀ key, op.op = 0x6 → u.aqn ≠ 0 → u.qtail ≠ u.qhead → ActionAt s op u u.qhead key → ∃ t, exec .streamOpResolve s = .next t ∧
      Answered s t x op (s.phys key) (fun p => { p with ctxs := aset p.ctxs slot { u with qhead := u.qhead + 1 } }) ∧ t.mem = s.mem) ∧
    (Undisturbed s → ∀ key, op.op = 0x7 → op.b ≠ -1 → u.aqn ≠ 0 → (u.qtail - u.qhead).toNat ≠ 2 ^ u.aqn.toNat → ActionAt s op u u.qtail key →
      ∃ t, exec .streamOpResolve s = .next t ∧ t.phys key = op.b ∧ SameOutside s t key 8 ∧
        Answered s t x op 0 (fun p => { p with ctxs := aset p.ctxs slot { u with qtail := u.qtail + 1 } })) ∧
    (op.op = 0x5 → u.state ≠ .arrived → s.layer x.i (op.b.toNat / 2 ^ 16 % 2 ^ 16) (op.b.toNat % 2 ^ 16) = .invalid →
      ∃ t, exec .streamOpResolve s = .next t ∧ Answered s t x op 3 id ∧ t.mem = s.mem) ∧
    (∀ entry args size stack v, op.op = 0x5 → u.state ≠ .arrived → s.layer x.i (op.b.toNat / 2 ^ 16 % 2 ^ 16) (op.b.toNat % 2 ^ 16) = .valid entry args size stack → 2 ≤ size →
      (s.cluster x.i).streams.arrivedAt ≠ s.cycle → (s.cluster x.i).streams.closure = [] → (s.cluster x.i).streams.herdq = [] →
      v = { u with p := op.b.extractLsb' 16 16, l := op.b.extractLsb' 0 16, state := .arrived, herd := none } →
      ∃ t, exec .streamOpResolve s = .next t ∧ t.mem = s.mem ∧ Answered s t x op 0 (fun p => { p with
        ctxs := aset p.ctxs slot v, arrivedAt := s.cycle, arrivals := [(v.p, v.l, v.ident, v.id)]
        open_ := [{ num := s.nextUid, p := v.p, l := v.l, ident := v.ident, first := s.cycle, size := size, entry := entry, args := args, stack := stack, members := [v.id] }] }))

/-- The page, of tag 0, that SMAP shares or takes as a frame: a live stream's of the cluster, or one of count above 0 (R316). -/
def MapSource (s : State) (x : EvArg) (op : EngOp) (p : Nat) : Prop :=
  (op.a.toNat / 2 ^ 30 % 4 = 1 ∧ ∃ v slot, Live s x.i slot v ∧ v.id = op.b.extractLsb' 32 32 ∧ (s.phys (rootAt v (op.b.toNat % 2 ^ 18))).getLsbD 0 = true ∧
    (s.phys (leafAt s v (op.b.toNat % 2 ^ 18))).getLsbD 0 = true ∧ (s.phys (leafAt s v (op.b.toNat % 2 ^ 18))).toNat / 2 ^ 44 = 0 ∧
    p = pageFrame (s.phys (leafAt s v (op.b.toNat % 2 ^ 18)))) ∨
  (op.a.toNat / 2 ^ 30 % 4 = 3 ∧ p = op.b.toNat / 2 ^ 16 % 2 ^ 24 * 2 ^ 16 ∧ s.refCount p ≠ 0 ∧ s.refTag p = 0)

/-- The leaf entry that SMAP makes of a page of tag 0 (R91, R316). -/
def mappedLeaf (op : EngOp) (p : Nat) : Word :=
  BitVec.ofNat 64 (p + (if op.a.getLsbD 25 then 4 else 0) + (if op.a.getLsbD 24 then 2 else 0) + 1)

/-- SMAP of a live stream (R316): 3 while it migrates; Share of a stream that is not live, and Frame of a page of count 0, answer 1. Where the
stream's tree is its own: Unmap of a page that is mapped clears its leaf entry and drops one reference, of one whose root entry is invalid changes
nothing; Fresh maps a page popped and zeroed, with count 1; Share and Frame map the page they name and raise its count. -/
def PageMaps : Prop :=
  ∀ (s : State) (x : EvArg) (op : EngOp) (u : StreamCtx) (slot page : Nat), OnlyOp s x op → op.op = 0xB → op.a.extractLsb' 32 32 = u.id → Live s x.i slot u → page = op.a.toNat % 2 ^ 18 →
    (u.state = .migrating → ∃ t, exec .streamOpResolve s = .next t ∧ Answered s t x op 3 id ∧ t.mem = s.mem) ∧
    (u.state ≠ .migrating → s.poison = [] → s.rstores = [] →
      (op.a.toNat / 2 ^ 30 % 4 = 1 → NotLive s x.i (op.b.extractLsb' 32 32) → ∃ t, exec .streamOpResolve s = .next t ∧ Answered s t x op 1 id ∧ t.mem = s.mem) ∧
      (op.a.toNat / 2 ^ 30 % 4 = 3 → s.refCount (op.b.toNat / 2 ^ 16 % 2 ^ 24 * 2 ^ 16) = 0 → ∃ t, exec .streamOpResolve s = .next t ∧ Answered s t x op 1 id ∧ t.mem = s.mem) ∧
      (op.a.toNat / 2 ^ 30 % 4 = 2 → s.refCount u.root ≤ 1 → (s.phys (rootAt u page)).getLsbD 0 = false →
        ∃ t, exec .streamOpResolve s = .next t ∧ Answered s t x op 0 id ∧ t.mem = s.mem) ∧
      (OwnTree s u page → ∀ p l, l = leafAt s u page →
        (op.a.toNat / 2 ^ 30 % 4 = 2 → (s.phys l).getLsbD 0 = true → p = pageFrame (s.phys l) → p ∉ s.frozen → 2 ≤ s.refCount p → s.refAddr p ≠ l →
          ∃ t, exec .streamOpResolve s = .next t ∧ Answered s t x op 0 id ∧ t.phys l = 0 ∧ t.refCount p + 1 = s.refCount p) ∧
        (op.a.toNat / 2 ^ 30 % 4 = 0 → op.b.toNat % 2 ^ 20 = 0 → ∀ s1 s2, s.popFrame x.i true = some (p, s1) → s2 = (s1.zeroFrame p 65536).setRef p 0 1 →
          s2.phys (rootAt u page) = s.phys (rootAt u page) → (s2.phys l).getLsbD 0 = false →
          ∃ t, exec .streamOpResolve s = .next t ∧ Answered s t x op 0 id ∧ t.phys l = mappedLeaf op p ∧ SameOutside s2 t l 8) ∧
        (MapSource s x op p → (s.phys l).getLsbD 0 = false → p ∉ s.frozen → s.refCount p + 2 < 2 ^ 32 → s.refAddr p ≠ l → s.refAddr p ≠ rootAt u page →
          ∃ t, exec .streamOpResolve s = .next t ∧ Answered s t x op 0 id ∧ t.phys l = mappedLeaf op p ∧ t.refCount p = s.refCount p + 1 ∧
            (∀ b, (b < l ∨ l + 8 ≤ b) → (b < s.refAddr p ∨ s.refAddr p + 8 ≤ b) → memByte t.mem b = memByte s.mem b))))

/-- The context in a slot is the lowest that is FREE, and none arrives there (R313). -/
def FreeSlot (s : State) (cl k : Nat) : Prop :=
  let free (j : Nat) : Prop := ∀ u, aget (s.cluster cl).streams.ctxs j = some u → u.state = .free
  k < 4096 ∧ free k ∧ (∀ j < k, ¬ free j) ∧ (s.cluster cl).streams.inn = []

/-- The next generation of a slot, and the id that it makes (R295). -/
def nextId (s : State) (cl k : Nat) : BitVec 16 × BitVec 32 :=
  let g := ((aget (s.cluster cl).streams.ctxs k).getD {}).gen
  let n : Nat := if g = 0xFFFF then 1 else g.toNat + 1
  (BitVec.ofNat 16 n, BitVec.ofNat 32 (n * 2 ^ 16 + cl * 2 ^ 12 + k))

/-- SFORK takes one reference of the parent's root and copies every field of its context but ID, STATE and JG; SNEW pops a node for the root
and makes an IDLE context of its operands; SPRUNE frees the context and drops one reference (R299, R302, R313). -/
def StreamsComeAndGo : Prop :=
  (∀ (s : State) (x : EvArg) (op : EngOp) (u : StreamCtx) (slot k : Nat), OnlyOp s x op → op.op = 0x1 → op.a = u.id.setWidth 64 → Live s x.i slot u → u.state ≠ .migrating →
    FreeSlot s x.i k → s.poison = [] → s.rstores = [] → u.root ∉ s.frozen → s.refCount u.root + 2 < 2 ^ 32 → s.refAddr u.root < windowBase →
    ∃ t, exec .streamOpResolve s = .next t ∧ t.refCount u.root = s.refCount u.root + 1 ∧ SameOutside s t (s.refAddr u.root) 8 ∧
      Answered s t x op ((nextId s x.i k).2.setWidth 64) (fun p => { p with ctxs := aset p.ctxs k { u with id := (nextId s x.i k).2, gen := (nextId s x.i k).1, state := .idle, herd := none, jg := if op.b = 0 then u.jg else op.b } })) ∧
  (∀ (s : State) (x : EvArg) (op : EngOp) (k root : Nat) (s' : State), OnlyOp s x op → op.op = 0x0 → FreeSlot s x.i k → s.popFrame x.i false = some (root, s') →
    ∃ t u, exec .streamOpResolve s = .next t ∧ Answered s t x op ((nextId s x.i k).2.setWidth 64) (fun p => { p with ctxs := aset p.ctxs k u }) ∧ u.id = (nextId s x.i k).2 ∧
      u.ident = op.rights.ident ∧ u.state = .idle ∧ u.hz.toNat = op.a.toNat / 2 ^ 32 ∧ u.prio.toNat = op.a.toNat / 2 ^ 28 % 4 ∧ u.root = root ∧ u.jg = 0 ∧ u.qhead = 0 ∧ u.qtail = 0 ∧
      u.p = 0 ∧ u.l = 0 ∧ (if op.b.toNat % 64 = 0 ∧ op.b.toNat < 2 ^ 37 then u.aqn.toNat = op.a.toNat / 2 ^ 24 % 16 ∧ (u.aqn ≠ 0 → u.qb.toNat = op.b.toNat) else u.aqn = 0) ∧
      t.refCount root = 1) ∧
  (∀ (s : State) (x : EvArg) (op : EngOp) (u : StreamCtx) (slot : Nat), OnlyOp s x op → op.op = 0x2 → op.a = u.id.setWidth 64 → Live s x.i slot u → u.state ≠ .migrating →
    u.jg = 0 → (s.cluster x.i).jobsOn u.id = false → s.poison = [] → s.rstores = [] → u.root ∉ s.frozen → 2 ≤ s.refCount u.root →
    s.refAddr u.root < windowBase →
    ∃ t, exec .streamOpResolve s = .next t ∧ t.refCount u.root + 1 = s.refCount u.root ∧ SameOutside s t (s.refAddr u.root) 8 ∧
      Answered s t x op 0 (fun p => { p with ctxs := aset p.ctxs slot { gen := u.gen } }))

/-- The join group of an address (R309). -/
def GroupAt (s : State) (key : Word) (g : JoinGroup) : Prop := (s.die (key.toNat / 64 % 4)).groups.find? (fun h => h.key == key) = some g

/-- SJGRP makes a group, or answers all ones for a bad policy; SJOIN records a return, or answers 2 for a second one; a group whose returns and
withdrawals are all in gives the completion word; when no stream is left to skim it is freed and SJGRP resolves (R309, R310, R315). -/
def JoinGroups : Prop :=
  (∀ (s : State) (x : EvArg) (op : EngOp) (d : Nat), OnlyOp s x op → op.op = 0x3 → d = op.b.toNat / 64 % 4 → op.b.toNat % 64 = 0 → (∀ g, ¬ GroupAt s op.b g) →
    (s.die d).joinUp = true → (s.die d).groups.length < 4096 → op.a.toNat / 2 ^ 28 = 0 → op.a.getLsbD 11 = false → op.a.toNat / 2 ^ 12 % 2 ^ 16 ≠ 0 → op.a.toNat % 256 ≠ 0 →
    op.a.toNat / 2 ^ 8 % 4 ≠ 3 →
    ∃ t, exec .streamOpResolve s = .next t ∧ (t.die d).groups = (s.die d).groups ++ [{ key := op.b, handle := op.handle, rights := op.rights, policy := op.a }] ∧
      (t.cluster x.i).streams.queue = [] ∧ t.ctxs = s.ctxs ∧ t.mem = s.mem) ∧
  (∀ (s : State) (x : EvArg) (op : EngOp), OnlyOp s x op → op.op = 0x3 → (op.b.toNat % 64 ≠ 0 ∨ op.a.toNat / 2 ^ 12 % 2 ^ 16 = 0 ∨ op.a.toNat % 256 = 0 ∨ op.a.toNat / 2 ^ 8 % 4 = 3 ∨ op.a.getLsbD 11 = true ∨
      (∃ g, GroupAt s op.b g)) → ∃ t, exec .streamOpResolve s = .next t ∧ Answered s t x op (-1) id ∧ t.dies = s.dies ∧ t.mem = s.mem) ∧
  (∀ (s : State) (x : EvArg) (op : EngOp) (u : StreamCtx) (slot : Nat) (g : JoinGroup), OnlyOp s x op → op.op = 0x4 → op.a = u.id.setWidth 64 → Live s x.i slot u → u.jg ≠ 0 → GroupAt s u.jg g →
    g.returns.length + g.wdr ≠ g.policy.toNat / 2 ^ 12 % 2 ^ 16 →
    (u.id ∉ g.returns.map (·.id) → u.id ∉ g.gone → ∃ t, exec .streamOpResolve s = .next t ∧ Answered s t x op 0 id ∧ t.mem = s.mem ∧
      GroupAt t u.jg { g with returns := g.returns ++ [{ id := u.id, score := op.b.setWidth 32 }] }) ∧
    ((u.id ∈ g.returns.map (·.id) ∨ u.id ∈ g.gone) → ∃ t, exec .streamOpResolve s = .next t ∧ Answered s t x op 2 id ∧ t.mem = s.mem ∧ GroupAt t u.jg g)) ∧
  (∀ (s : State) (x : EvArg) (g : JoinGroup), s.Happens x → GroupAt s x.w g → g.word = none → s.boot.stackStop = [] → s.moves = [] → s.rstores = [] → g.returns.length + g.wdr = g.policy.toNat / 2 ^ 12 % 2 ^ 16 → g.policy.toNat / 2 ^ 8 % 4 = 0 → (g.returns.map (·.id)).Nodup →
    ∃ t g', exec .joinResolve s = .next t ∧ GroupAt t x.w g' ∧ g'.skims.length + min (g.policy.toNat % 256) g.returns.length = g.returns.length ∧
      g'.word = some (BitVec.ofNat 64 (g.wdr * 2 ^ 32 + g.returns.length * 2 ^ 16 + min (g.policy.toNat % 256) g.returns.length))) ∧
  (∀ (s : State) (x : EvArg) (g : JoinGroup) (word : Word), s.Happens x → GroupAt s x.w g → g.word = some word → g.skims = [] → s.rstores = [] → NoneSuspended s →
    ∃ t, exec .joinResolve s = .next t ∧ (∀ g', ¬ GroupAt t x.w g') ∧ Filled s t g.handle word false ∧ t.mem = s.mem)

/-- A copy-on-write walk for a stream that is no longer live ends; one whose root, leaf and page are the stream's own copies nothing (R302). A
herd group closes 4,096 cycles after its first arrival: its members are HERDED, and a herd task takes the lowest free slot and record (R305, R306). -/
def WalksAndHerds : Prop :=
  (∀ (s : State) (x : EvArg) (q : CowReq), s.Happens x → x.i < 16 → x.j = 0 → (s.cluster x.i).streams.cows = [q] → NotLive s x.i q.sid →
    ∃ t, exec .cowWalk s = .next t ∧ (t.cluster x.i).streams = { (s.cluster x.i).streams with cows := [] } ∧ t.mem = s.mem ∧ t.ctxs = s.ctxs) ∧
  (∀ (s : State) (x : EvArg) (q : CowReq) (u : StreamCtx) (slot : Nat), s.Happens x → x.i < 16 → x.j = 0 → (s.cluster x.i).streams.cows = [q] → (s.cluster x.i).streams.queue = [] → q.sid = u.id → Live s x.i slot u →
    u.state ≠ .migrating → s.poison = [] → s.rstores = [] → s.refCount u.root ≤ 1 → (∀ a l, a = u.root + 8 * (q.off / 2 ^ 25 % 512) → l = leafFrame (s.phys a) + 8 * (q.off / 2 ^ 16 % 512) →
      ((s.phys a).getLsbD 0 = true → s.refCount (leafFrame (s.phys a)) ≤ 1 ∧ ((s.phys l).getLsbD 0 = true → s.refCount (pageFrame (s.phys l)) ≤ 1))) →
    ∃ t, exec .cowWalk s = .next t ∧ (t.cluster x.i).streams = { (s.cluster x.i).streams with cows := [] } ∧ t.mem = s.mem ∧ t.ctxs = s.ctxs) ∧
  (∀ (s : State) (x : EvArg) (g : Group) (u : StreamCtx) (slot k yr : Nat), s.Happens x → x.i < 16 → (s.cluster x.i).streams.open_ = [g] → g.first + 4096 ≤ s.cycle → (s.cluster x.i).drained = false →
    (s.cluster x.i).streams.closure = [] → (s.cluster x.i).streams.herdq = [] → 0 < (s.cluster x.i).freeRecs → (s.cluster x.i).took.1 ≠ s.cycle → g.members = [u.id] → (s.cluster x.i).streams.ctxs = [(slot, u)] → Live s x.i slot u → u.state = .arrived →
    k < 4096 → aget (s.cluster x.i).streams.slots k = none → (∀ j < k, (aget (s.cluster x.i).streams.slots j).isSome = true) →
    yr < 1024 → aget (s.cluster x.i).yard yr = none → (∀ j < yr, (aget (s.cluster x.i).yard j).isSome = true) →
    ∃ t r z, exec .herdCloseTimeout s = .next t ∧ (t.cluster x.i).streams.open_ = [] ∧ (t.cluster x.i).streams.closure = [] ∧
      aget (t.cluster x.i).streams.ctxs slot = some { u with state := .herded, herd := some g.num } ∧ aget (t.cluster x.i).streams.slots k = some { g with prio := u.prio } ∧ (t.cluster x.i).streams.herdq = [] ∧
      aget (t.cluster x.i).yard yr = some r ∧ r.kind = .herd ∧ r.base = u.prio ∧ r.slot = some k ∧ r.place = .fresh z ∧ z.pc = g.entry ∧ z.readS 61 = g.args ∧ z.csrs.sid = u.id.setWidth 64 ∧
      z.csrs.wid = BitVec.ofNat 64 k ∧ z.csrs.wfmt = 12 ∧ z.csrs.ident = g.ident ∧ z.csrs.twt = 0 ∧ z.csrs.kst = 0)

end Sys2Proof.Claims

namespace Sys2Proof.Claims

open Sys2Proof.Machine

/-! ## The event unit (R319 to R337, R424, R436) -/

/-- An engine instruction joins the queue of the event unit of cluster k with its operands. -/
def EventQueued (s t : State) (c : Cur) (o : Ops) (k : Nat) (op : EngOp) : Prop :=
  ∃ h, Issued s t c o.d 0x5 h ∧ (t.cluster k).events.queue = (s.cluster k).events.queue ++ [{ op with handle := h, rights := s.rightsOf c.cx }]

/-- The event unit of cluster k takes the instruction now. -/
def EventRoom (s : State) (c : Cur) (k : Nat) : Prop :=
  c.cx < 8192 ∧ (s.ctx c.cx).rcount = 0 ∧ (s.cluster k).events.queue.length < 64 ∧ (s.cluster (c.cx / 512)).locks.length ≤ 256

/-- Issue of page 15 (R322, R323, R333, R335, R369): each goes to the event unit of the cluster in the
population id; a post counts its events for the context, and carries the count before it. -/
def EventIssue : Prop :=
  ∀ (o : Ops) (s : State) (c : Cur) (x y : Word) (n : Nat), x = (s.ctx c.cx).readS o.a → y = (s.ctx c.cx).readS o.b → n = (aget s.posts c.cx).getD 0 →
    (s.Runs c [o.a, o.b] → EventRoom s c (x.toNat / 2 ^ 8 % 16) → ∃ t, exec (.epopl o) s = .next t ∧ EventQueued s t c o (x.toNat / 2 ^ 8 % 16) { op := 0, a := x, b := y } ∧ t.posts = s.posts) ∧
    (s.Runs c [o.a, o.b] → EventRoom s c (x.toNat / 2 ^ 8 % 16) → ∃ t, exec (.erun o) s = .next t ∧ EventQueued s t c o (x.toNat / 2 ^ 8 % 16) { op := 3, a := x, b := y } ∧ t.posts = s.posts) ∧
    (s.Runs c [o.a] → EventRoom s c (x.toNat / 2 ^ 8 % 16) →
      (∃ t, exec (.etick o) s = .next t ∧ EventQueued s t c o (x.toNat / 2 ^ 8 % 16) { op := 4, a := x } ∧ t.posts = s.posts) ∧
      (∃ t, exec (.edrain o) s = .next t ∧ EventQueued s t c o (x.toNat / 2 ^ 8 % 16) { op := 5, a := x } ∧ t.posts = s.posts)) ∧
    (s.Runs c [o.a, o.b] → EventRoom s c (x.toNat / 2 ^ 60) → ∃ t, exec (.epost o) s = .next t ∧
      EventQueued s t c o (x.toNat / 2 ^ 60) { op := 1, a := x, b := y, posts := n } ∧ t.posts = aset s.posts c.cx ((n + 1) % 2 ^ 50)) ∧
    (s.Runs c [o.a] → EventRoom s c (x.toNat / 2 ^ 60) → ∃ t, exec (.epostv o) s = .next t ∧
      EventQueued s t c o (x.toNat / 2 ^ 60) { op := 2, a := x, vec := (s.ctx c.cx).readV o.b, posts := n } ∧
      t.posts = aset s.posts c.cx ((n + min 64 (x.toNat / 2 ^ 32 % 128)) % 2 ^ 50))

/-- The event unit's turn on its only operation. -/
def OnlyEventOp (s : State) (x : EvArg) (op : EngOp) : Prop :=
  s.Happens x ∧ x.i < 16 ∧ x.k = 0 ∧ (s.cluster x.i).events.queue = [op] ∧ op.handle = x.w ∧ (s.cluster x.i).drained = false ∧ NoneSuspended s

/-- The operation leaves the queue, its future takes v, and the event unit is otherwise as f makes it. -/
def EventAnswered (s t : State) (x : EvArg) (op : EngOp) (v : Word) (f : EventUnit → EventUnit) : Prop :=
  Filled s t op.handle v false ∧ (t.cluster x.i).events = { f (s.cluster x.i).events with queue := [] } ∧ t.mem = s.mem

/-- Clamp to 32 bits (R324). -/
def clamp32 (i : Int) : Int := max (-(2 ^ 31)) (min i (2 ^ 31 - 1))

/-- The event that a post makes (R323, R328, R330). -/
def postedEvent (op : EngOp) (tick : Nat) (late : Bool) : Ev :=
  { pop := op.a.toNat / 2 ^ 52, neu := op.a.toNat / 2 ^ 28 % 2 ^ 24, pay := op.b.extractLsb' 32 32, tick := tick, late := late, wgt := 2 ^ 20,
    key := BitVec.ofNat 64 (2 ^ 63 + op.rights.cx % 8192 * 2 ^ 50 + op.posts % 2 ^ 50) }

/-- What the operations of page 15 answer (R322, R330, R333, R336, R337): the status of a post, the tick, a pending or ended run, and all
ones for a population that is not loaded. -/
def EventAnswers : Prop :=
  (∀ (s : State) (x : EvArg) (op : EngOp) (e : EventUnit), OnlyEventOp s x op → e = (s.cluster x.i).events →
    (op.op = 4 → aget e.pops (op.a.toNat % 256) = none → ∃ t, exec .eventOpResolve s = .next t ∧ EventAnswered s t x op (-1) id) ∧
    (op.op = 4 → (aget e.pops (op.a.toNat % 256)).isSome = true → ∃ t, exec .eventOpResolve s = .next t ∧
      EventAnswered s t x op (BitVec.ofNat 64 (e.pops.length * 2 ^ 40 + (if e.runs = [] then 0 else 2 ^ 32) + e.tick % 2 ^ 32)) id) ∧
    (op.op = 5 → aget e.pops (op.a.toNat % 256) = none → ∃ t, exec .eventOpResolve s = .next t ∧ EventAnswered s t x op (-1) id) ∧
    (op.op = 5 → (aget e.pops (op.a.toNat % 256)).isSome = true → e.unloads = [] → ∃ t, exec .eventOpResolve s = .next t ∧ t.ctxs = s.ctxs ∧ t.mem = s.mem ∧
      (t.cluster x.i).events = { e with queue := [], unloads := [{ slot := op.a.toNat % 256, handles := [op.handle], began := e.runs.all (fun r => r.dead || decide (r.till < e.tick)) || e.stalled || e.failed }] }) ∧
    (op.op = 3 → e.failed = false → (aget e.pops (op.a.toNat % 256) = none ∨ 2 ^ 32 - 256 ≤ op.b.toNat % 2 ^ 32) →
      ∃ t, exec .eventOpResolve s = .next t ∧ EventAnswered s t x op (-1) id) ∧
    (op.op = 3 → e.failed = false → (aget e.pops (op.a.toNat % 256)).isSome = true → op.b.toNat % 2 ^ 32 < 2 ^ 32 - 256 → op.b.toNat % 2 ^ 32 < e.tick →
      ∃ t, exec .eventOpResolve s = .next t ∧ EventAnswered s t x op (BitVec.ofNat 64 (op.b.toNat % 2 ^ 32)) id) ∧
    (op.op = 3 → e.failed = false → (aget e.pops (op.a.toNat % 256)).isSome = true → op.b.toNat % 2 ^ 32 < 2 ^ 32 - 256 → e.tick ≤ op.b.toNat % 2 ^ 32 →
      ∃ t, exec .eventOpResolve s = .next t ∧ t.ctxs = s.ctxs ∧ t.mem = s.mem ∧ (t.cluster x.i).events = { e with queue := [], runs := e.runs ++
        [{ handle := op.handle, cx := op.rights.cx, ident := op.rights.ident, pop := op.a.toNat % 2 ^ 12, till := op.b.toNat % 2 ^ 32 }] }) ∧
    (op.op = 0 → ((aget e.pops (op.a.toNat % 256)).isSome = true ∨ (op.rights.cx < 8192 ∧ op.rights.cx / 512 ≠ x.i) ∨ e.failed = true) → ∃ t, exec .eventOpResolve s = .next t ∧ EventAnswered s t x op 1 id)) ∧
  (∀ (s : State) (x : EvArg) (op : EngOp) (e : EventUnit) (u neu : Nat), OnlyEventOp s x op → op.op = 1 → e = (s.cluster x.i).events → e.failed = false → u = op.b.toNat % 2 ^ 32 →
    neu = op.a.toNat / 2 ^ 28 % 2 ^ 24 →
    ((∀ p, aget e.pops (op.a.toNat / 2 ^ 52 % 256) = some p → p.n ≤ neu) → ∃ t, exec .eventOpResolve s = .next t ∧ EventAnswered s t x op 2 id) ∧
    (∀ p q w, aget e.pops (op.a.toNat / 2 ^ 52 % 256) = some p → neu < p.n → q = p.cb + neu / p.npc → 1 ≤ p.npc → w = max u e.tick →
      (e.tick + 255 < u → ∃ t, exec .eventOpResolve s = .next t ∧ EventAnswered s t x op 3 id) ∧
      (u ≤ e.tick + 255 → e.spillOf q = [] → (e.queueOf q).length < 4096 → (e.keyOf w).1.toNat + 2 ^ 20 < 2 ^ 64 → ∃ t, exec .eventOpResolve s = .next t ∧
        EventAnswered s t x op (if u < e.tick then 1 else 0) (fun e => { e with
          keys := aset e.keys (w % 256) ((e.keyOf w).1 + 2 ^ 20, (e.keyOf w).2), spillWait := adel e.spillWait q, queues := aset e.queues q (insertEv (postedEvent op w (u < e.tick)) (e.queueOf q)) }))))

/-- Byte key of the record of neuron j of a population of cluster k (R319, R321). -/
def neuronKey (p : Pop) (k j : Nat) : Nat := windowKey (64 * k + p.cb + j / p.npc) 2 (128 * (p.ob + j % p.npc))

/-- The fields of a neuron record. -/
def recV (w0 : Word) : Int := (w0.extractLsb' 0 32).toInt
def recTheta (w0 : Word) : Int := (w0.extractLsb' 32 32).toInt

/-- Integration (R324 to R326, R328): the event at the head of a core's queue leaves it and gives its weight back; its neuron catches up on its leak on
the first event of the tick, adds the payload with a clamp, and its record goes full. Without a pending run that covers the tick the domain holds (R329). -/
def Integration : Prop :=
  (∀ (s : State) (x : EvArg) (e : EventUnit) (ev : Ev) (rest : List Ev) (p : Pop) (k tl : Nat) (v : Int) (touch : Bool), s.Happens x → x.i < 16 → e = (s.cluster x.i).events →
    e.queueOf x.j = ev :: rest → ev.tick = e.tick → e.tick < 2 ^ 32 → e.runs.any (fun r => e.tick ≤ r.till) = true → e.unloads.any (·.began) = false → s.ldfes = [] → e.failed = false → aget e.pops (ev.pop % 256) = some p → 1 ≤ p.npc → p.npc ≤ 16384 → p.cb + ev.neu / p.npc < 64 →
    128 * (p.ob + p.npc) ≤ 2 ^ 21 → s.poison = [] → k = neuronKey p x.i ev.neu → touch = (s.phys (k + 8)).getLsbD 32 → tl = (s.phys (k + 8)).toNat % 2 ^ 32 →
    v = (if touch ∨ p.lk = 0 then recV (s.phys k) else Nat.repeat (fun u : Int => u - u / 2 ^ p.lk) (e.tick - tl) (recV (s.phys k))) →
    ∃ t, exec .eventIntegrate s = .next t ∧ recV (t.phys k) = clamp32 (v + ev.pay.toInt) ∧ recTheta (t.phys k) = recTheta (s.phys k) ∧
      t.phys (k + 8) = BitVec.ofNat 64 (3 * 2 ^ 32 + if touch then tl else max tl e.tick) ∧ t.granFull (granuleId (64 * x.i + p.cb + ev.neu / p.npc) 2 (128 * (p.ob + ev.neu % p.npc))) = true ∧
      (∀ b, b < feBase → b < k ∨ k + 16 ≤ b → memByte t.mem b = memByte s.mem b) ∧ t.ctxs = s.ctxs ∧ (t.cluster x.i).events.queueOf x.j = rest ∧
      (t.cluster x.i).events.keyOf ev.tick = ((e.keyOf ev.tick).1, (e.keyOf ev.tick).2 + BitVec.ofNat 64 ev.wgt) ∧
      (t.cluster x.i).events.late = (e.late || ev.late) ∧ (t.cluster x.i).events.sat = (e.sat || decide (v + ev.pay.toInt ≠ clamp32 (v + ev.pay.toInt)))) ∧
  (∀ (s : State) (x : EvArg), s.Happens x → x.i < 16 → (s.cluster x.i).events.runs.any (fun r => (s.cluster x.i).events.tick ≤ r.till) = false → exec .eventIntegrate s = .next s)

/-- The end of a tick (R327, R329, R336): with all its weight back, a tick in which no neuron was touched only rises; a touched neuron at its
threshold fires, its value falls by the threshold or to zero, and a run that ends there resolves with its word. -/
def Ticks : Prop :=
  (∀ (s : State) (x : EvArg) (e : EventUnit) (r : Run) (sp : Nat × Pop), s.Happens x → x.i < 16 → e = (s.cluster x.i).events → e.pops = [sp] → e.failed = false → e.runs = [r] → r.dead = false → e.tick ≤ r.till →
    e.unloads = [] → (e.keyOf e.tick).1 = (e.keyOf e.tick).2 → e.spillWait = [] → s.rstores = [] → NoneSuspended s → (∀ j < sp.2.n, (s.neuron sp.2 x.i j).touch = false) → ∀ r' : Run,
    r' = { r with sat := r.sat || e.sat, den := r.den || e.den, late := r.late || e.late } →
    ∃ t, exec .tickEnd s = .next t ∧ t.mem = s.mem ∧ (t.cluster x.i).events.tick = e.tick + 1 ∧
      (r.till ≤ e.tick → (t.cluster x.i).events.runs = [] ∧ Filled s t r.handle (BitVec.ofNat 64 ((if r'.sat then 2 ^ 63 else 0) + (if r'.den then 2 ^ 62 else 0) + (if r'.late then 2 ^ 61 else 0) +
        min r.fires (2 ^ 29 - 1) * 2 ^ 32 + r.till % 2 ^ 32)) false) ∧
      (e.tick < r.till → (t.cluster x.i).events.runs = [r'] ∧ t.ctxs = s.ctxs)) ∧
  (∀ (s : State) (x : EvArg) (e : EventUnit) (r : Run) (slot k off : Nat) (p : Pop), s.Happens x → x.i < 16 → e = (s.cluster x.i).events → e.pops = [(slot, p)] → e.failed = false → e.runs = [r] → r.dead = false → e.tick < r.till →
    e.unloads = [] → (e.keyOf e.tick).1 = (e.keyOf e.tick).2 → e.spillWait = [] → s.poison = [] → s.rstores = [] → s.ldfes = [] → p.n = 1 → 1 ≤ p.npc → p.cb < 64 → 128 * (p.ob + p.npc) ≤ 2 ^ 21 → p.flb = 0 → k = neuronKey p x.i 0 →
    (s.phys (k + 8)).getLsbD 32 = true → recTheta (s.phys k) ≤ recV (s.phys k) → p.fox.getLsbD 63 = true → winOf p.fox = 1 → InWindows s 0 p.fox 64 → (∀ i < 64, (coreAt (p.fox + BitVec.ofNat 64 i)).toNat / 64 = x.i) →
    ReadsAs s p.fox 64 (off * 2 ^ 32 + off) →
    ∃ t, exec .tickEnd s = .next t ∧ (t.phys (k + 8)).getLsbD 32 = false ∧ recV (t.phys k) = (if p.rm = 0 then clamp32 (recV (s.phys k) - recTheta (s.phys k)) else 0) ∧
      recTheta (t.phys k) = recTheta (s.phys k) ∧ (t.cluster x.i).events.tick = e.tick + 1 ∧ (∃ r', (t.cluster x.i).events.runs = [r'] ∧ r'.fires = r.fires + 1) ∧ t.ctxs = s.ctxs)

/-- A record of the error log ring (R424). -/
def Logged (s t : State) (cause ukind unit ident : Nat) (addr info : Word) : Prop :=
  t.log.next = (s.log.next + 1) % 2 ^ 32 ∧ aget t.log.recs (s.log.next % 4096) =
    some [BitVec.ofNat 64 (s.log.next * 2 ^ 32 + cause * 2 ^ 24 + ukind * 2 ^ 20 + unit), BitVec.ofNat 64 (ident * 2 ^ 40 + s.cycle % 2 ^ 40), addr, info]

/-- The record of n words of a ring at a virtual address lies at this byte key, in a page of this package that is mapped for writing and marked
accessed and dirty (R90, R371). -/
def RingAt (s : State) (a : Word) (n key : Nat) : Prop :=
  Undisturbed s ∧ a.toNat % (64 * n) = 0 ∧ ∃ place leaf level, s.globalWalk a = .leaf place leaf level ∧ leaf.getLsbD 6 = true ∧ leaf.getLsbD 7 = true ∧
    (leafEntry a leaf level).wr = true ∧ (leafEntry a leaf level).own = s.sys.self ∧
    key = (leafEntry a leaf level).frame + a.toNat / 8 % 2 ^ (leafEntry a leaf level).size ∧ key + 8 * n ≤ s.memTop

/-- The event of a 256-bit ring record (R331). -/
def Recorded (s : State) (key : Nat) (ev : Ev) : Prop :=
  ev.pop = (s.phys (key + 8)).toNat / 2 ^ 52 ∧ ev.neu = (s.phys (key + 8)).toNat / 2 ^ 28 % 2 ^ 24 ∧ ev.pay.toNat = ((s.phys (key + 8)).toNat * 2 ^ 64 + (s.phys key).toNat) / 2 ^ 60 % 2 ^ 32 ∧
    ev.tick = (s.phys key).toNat / 2 ^ 28 % 2 ^ 32 ∧ ev.wgt = (s.phys key).toNat % 2 ^ 28 ∧ ev.key = s.phys (key + 16)

/-- The least spilled event of a core returns from its ring to the core's queue when that has room, as its record there has it, and the ring's head
count rises (R331, R371); a domain whose spill has waited 2^20 cycles without an integration or a
fire is stalled, with a record 0x29 (R436). -/
def CellarAndStall : Prop :=
  (∀ (s : State) (x : EvArg) (e : EventUnit) (ev : Ev) (rest : List Ev) (desc key : Nat), s.Happens x → x.i < 16 → e = (s.cluster x.i).events → e.spillOf x.j = ev :: rest → (e.queueOf x.j).length < 4096 →
    e.failed = false → desc = (s.cluster x.i).celb.toNat * 2 ^ 12 + 32 * (1 + x.j) → ev.place = (s.phys (desc + 16)).toNat % 2 ^ 32 → (∀ r ∈ rest, r.place ≠ ev.place) →
    RingAt s (s.ringAddr desc ev.place 32) 4 key →
    ∃ t ev', exec .eventCellarRefill s = .next t ∧ Recorded s key ev' ∧ ev'.late = ev.late ∧ (t.cluster x.i).events.queueOf x.j = insertEv ev' (e.queueOf x.j) ∧
      (t.cluster x.i).events.spillOf x.j = rest ∧ (t.phys (desc + 16)).toNat = (ev.place + 1) % 2 ^ 32 ∧ SameOutside s t (desc + 16) 8 ∧ t.ctxs = s.ctxs) ∧
  (∀ (s : State) (x : EvArg) (e : EventUnit) (slot q since : Nat) (p : Pop), s.Happens x → x.i < 16 → e = (s.cluster x.i).events → e.pops = [(slot, p)] → slot < 256 → e.stalled = false → e.spillWait = [(q, since)] →
    max since e.last + 2 ^ 20 ≤ s.cycle →
    ∃ t, exec .domainStall s = .next t ∧ (t.cluster x.i).events.stalled = true ∧ Logged s t 0x29 10 x.i 0 0 (BitVec.ofNat 64 (256 * x.i + slot)) ∧ t.mem = s.mem)

end Sys2Proof.Claims

namespace Sys2Proof.Claims

open Sys2Proof.Machine

/-! ## The attention sequencer (R340 to R355) -/

/-- The word of a job that is refused at issue: STAT = 0b11 (R353). -/
def jobRefusedWord : Word := 0x3000000000000000

/-- Page 16 on a core (R345, R351 to R354): ALOAD joins the mason's queue; AGO does with a valid record, read at issue as an engine reads, and is refused for
an address that is not a multiple of 64 or lies in a window; ASTAT reports; ASTOP takes a queued job of the issuer's identity away, answers 2 for another
identity's, 1 for none, and of a running one resolves once it has stopped. -/
def MasonInstructions : Prop :=
  (∀ (o : Ops) (s : State) (c : Cur) (y : Word), s.Runs c [o.a, o.b] → c.cx < 8192 → (s.ctx c.cx).rcount = 0 → (s.cluster (c.cx / 512)).mason.queue.length < 16 → (s.cluster (c.cx / 512)).locks.length ≤ 256 →
    y = (s.ctx c.cx).readS o.b → ∃ t h, exec (.aload o) s = .next t ∧ Issued s t c o.d 0x3 h ∧ (t.cluster (c.cx / 512)).mason.queue = (s.cluster (c.cx / 512)).mason.queue ++
      [{ handle := h, rights := s.rightsOf c.cx, load := true, src := (s.ctx c.cx).readS o.a, first := y.toNat / 2 ^ 16 % 2 ^ 11, count := y.toNat % 2 ^ 12 }]) ∧
  (∀ (o : Ops) (s : State) (c : Cur) (a b : Word), s.Runs c [o.a, o.b] → c.cx < 8192 → (s.ctx c.cx).rcount = 0 → (s.cluster (c.cx / 512)).mason.queue.length < 16 → a = (s.ctx c.cx).readS o.a → b = (s.ctx c.cx).readS o.b →
    ((a.getLsbD 63 = true ∨ a.toNat % 64 ≠ 0) → ∃ t, exec (.ago o) s = .next t ∧ WroteS s t c o.d jobRefusedWord 0 true) ∧
    (a.getLsbD 63 = false → a.toNat % 64 = 0 → ∀ s' seen r (j : Job) m u slot, s.engRead (engineAgent (s.rightsOf c.cx)) 8 [] a 512 = (s', seen, r) → r.hold = false → r.fault = none → r.poison = false →
      j = { rights := s.rightsOf c.cx, first := b.toNat % 2 ^ 11, res := b.getLsbD 16, den := r.den, map := m, params := (List.range 8).map (fun i => BitVec.ofNat 64 (s'.engVal (engineAgent (s.rightsOf c.cx)) r.parts / 2 ^ (64 * i))) } →
      MapNamed s' (c.cx / 512) (s.ctx c.cx).uid ((j.word 5).toNat / 2 ^ 58) m → Live s' (c.cx / 512) slot u → u.id = j.stream → s'.ctxs = s.ctxs → s'.clusters = s.clusters → j.valid s' (c.cx / 512) = true →
      ∀ locks, locks = (if (j.word 1).toNat / 2 ^ 62 = 0 then [s'.lockEntry false (j.word 1) (j.rows * j.dim * j.width)] else []) → (s.cluster (c.cx / 512)).lockFree locks = true →
      ∃ t h, exec (.ago o) s = .next t ∧ Issued s' t c o.d 0x3 h ∧ (t.cluster (c.cx / 512)).mason.queue = (s.cluster (c.cx / 512)).mason.queue ++ [{ j with handle := h }])) ∧
  (∀ (o : Ops) (s : State) (c : Cur) (h : Word) (m : Mason), s.Runs c [o.a] → c.cx < 8192 → (s.ctx c.cx).rcount = 0 → h = (s.ctx c.cx).readS o.a → m = (s.cluster (c.cx / 512)).mason →
    (h = 0 → m.queue.length < 2 ^ 16 → ∃ t, exec (.astat o) s = .next t ∧
      WroteS s t c o.d (BitVec.ofNat 64 (m.queue.countP (fun j => !j.begun) * 2 ^ 48 + if m.run.isSome || m.queue.any (·.begun) then 2 ^ 47 else 0)) 0 true) ∧
    (h ≠ 0 → m.run = none → (∀ j ∈ m.queue, j.handle ≠ h) → (∃ t, exec (.astat o) s = .next t ∧ WroteS s t c o.d 0 0 true) ∧ (∃ t, exec (.astop o) s = .next t ∧ WroteS s t c o.d 1 0 true)) ∧
    (∀ j, m.queue.find? (fun q => q.handle == h) = some j → m.run = none → h ≠ 0 → j.first < 2048 → ∃ t, exec (.astat o) s = .next t ∧
      WroteS s t c o.d (BitVec.ofNat 64 (if j.begun then 2 * 2 ^ 62 else 2 ^ 62 + j.first * 2 ^ 32)) 0 true) ∧
    (∀ r, m.run = some r → r.job.handle = h → h ≠ 0 → 0 ≤ r.upc → r.upc < 2048 → r.pgs < 2 ^ 32 →
      ∃ t, exec (.astat o) s = .next t ∧ WroteS s t c o.d (BitVec.ofNat 64 (2 * 2 ^ 62 + r.upc.toNat * 2 ^ 32 + r.pgs)) 0 true) ∧
    (∀ j, m.queue = [j] → j.handle = h → j.load = false → j.rights.ident ≠ (s.ctx c.cx).csrs.ident → ∃ t, exec (.astop o) s = .next t ∧ WroteS s t c o.d 2 0 true) ∧
    (∀ j, m.queue = [j] → j.handle = h → j.load = false → j.rights.ident = (s.ctx c.cx).csrs.ident → o.d ≠ 0 → ((s.ctx c.cx).sreg o.d).full = true →
      ∃ t, exec (.astop o) s = .next t ∧ (t.ctx c.cx).sreg o.d = { val := 0 } ∧ (t.cluster (c.cx / 512)).mason.queue = []) ∧
    (∀ r, m.queue = [] → m.run = some r → r.job.handle = h → r.job.load = false → r.job.rights.ident = (s.ctx c.cx).csrs.ident → (s.cluster (c.cx / 512)).locks.length ≤ 256 →
      ∃ t g, exec (.astop o) s = .next t ∧ Issued s t c o.d 0x3 g ∧ (t.cluster (c.cx / 512)).mason.run = some { r with job := { r.job with cancel := true }, stops := r.stops ++ [g] }))

/-- The start of a job (R340, R342, R352): the oldest job of the queue runs from its entry word; an ALOAD of a window writes its words to the control store; one
of no words answers 1. -/
def JobsStart : Prop :=
  (∀ (s : State) (x : EvArg) (j : Job) (rest : List Job), s.Happens x → x.i < 16 → (s.cluster x.i).mason.queue = j :: rest → (∀ q ∈ j :: rest, q.stop = false ∧ q.cancel = false) → (s.cluster x.i).mason.run = none → j.load = false →
    ∃ t, exec .masonJobStart s = .next t ∧ t.mem = s.mem ∧ t.ctxs = s.ctxs ∧
      (t.cluster x.i).mason = { (s.cluster x.i).mason with queue := rest, run := some { job := j, upc := j.first, rows := List.replicate j.rows {}, den := j.den } }) ∧
  (∀ (s : State) (x : EvArg) (j : Job), s.Happens x → x.i < 16 → (s.cluster x.i).mason.queue = [j] → j.stop = false → j.cancel = false → (s.cluster x.i).mason.run = none → j.load = true → NoneSuspended s →
    j.rights.cx < 8192 → j.rights.cx / 512 = x.i →
    (j.count = 0 → ∃ t, exec .masonJobStart s = .next t ∧ Filled s t j.handle 1 false ∧ (t.cluster x.i).mason = { (s.cluster x.i).mason with queue := [] } ∧ t.mem = s.mem) ∧
    (0 < j.count → j.first + j.count ≤ 2048 → j.src.toNat % 64 = 0 → j.src.getLsbD 63 = true → winOf j.src = 1 ∨ winOf j.src = 2 → InWindows s j.rights.cx j.src (64 * j.count) →
      (∀ i < 64 * j.count, (coreAt (j.src + BitVec.ofNat 64 i)).toNat / 64 = x.i ∧ winOf (j.src + BitVec.ofNat 64 i) = winOf j.src) → s.poison = [] → s.rstores = [] →
      ∃ t, exec .masonJobStart s = .next t ∧ Filled s t j.handle 0 false ∧ (t.cluster x.i).mason.queue = [] ∧ t.mem = s.mem ∧
        (∀ k < j.count, ∃ v, ReadsAs s (j.src + BitVec.ofNat 64 (64 * k)) 64 v ∧ (aget (t.cluster x.i).mason.store (j.first + k)).getD 0 = BitVec.ofNat 64 v) ∧
        (∀ k, k < j.first ∨ j.first + j.count ≤ k → aget (t.cluster x.i).mason.store k = aget (s.cluster x.i).mason.store k)))

/-- The turn is that of the mason of cluster cl, which runs the job r; the job holds no answer of another package. -/
def MasonTurns (s : State) (cl : Nat) (r : JobRun) : Prop :=
  s.cur = .mason cl ∧ cl < 16 ∧ (s.cluster cl).mason.run = some r ∧ ∀ f ∈ s.net.fwds, f.uid ≠ r.job.handle.toNat

/-- The job holds no yard record of a tile-task, as between its micro-operations. -/
def MasonRuns (s : State) (cl : Nat) (r : JobRun) : Prop := MasonTurns s cl r ∧ r.tile = none

/-- The next state has the job r, and all else as before. -/
def JobAt (s : State) (cl : Nat) (r : JobRun) : State := s.modMason cl (fun m => { m with run := some r })

/-- A mason register: g0 reads as zero, and discards what is written to it (R343). -/
def greg (r : JobRun) (k : BitVec 4) : Word := if k = 0 then 0 else r.g[k.toNat]'k.isLt
def gput (r : JobRun) (k : BitVec 4) (v : Word) : JobRun := if k = 0 then r else { r with g := r.g.set k.toNat v }

/-- Control and registers (R343, R348): MSET, MADD, MLOOP, MBR, and MWAIT where there is nothing to wait for; each changes the job's registers and its next word
alone. MEND ends the job with its word (R353). -/
def MicroControl : Prop :=
  (∀ (m : Micro) (s : State) (cl : Nat) (r : JobRun), MasonRuns s cl r →
    (m.z = 0 → exec (.mset m) s = .next (JobAt s cl (gput { r with upc := r.upc + 1 } m.x (m.imm.signExtend 64)))) ∧
    (m.z ≠ 0 → m.imm.toNat < 8 → exec (.mset m) s = .next (JobAt s cl (gput { r with upc := r.upc + 1 } m.x (r.job.params.getD m.imm.toNat 0)))) ∧
    exec (.madd m) s = .next (JobAt s cl (gput { r with upc := r.upc + 1 } m.x (greg r m.y + greg r m.z + m.imm.signExtend 64))) ∧
    (∀ v, v = greg r m.x - 1 → exec (.mloop m) s = .next (JobAt s cl (gput { r with upc := if v = 0 then r.upc + 1 else r.upc + m.imm.toInt } m.x v))) ∧
    (∀ cond : Bool, (m.y, cond) ∈ [(0, true), (1, decide (greg r m.x = 0)), (2, decide (greg r m.x ≠ 0)), (3, (greg r m.x).getLsbD 63)] →
      exec (.mbr m) s = .next (JobAt s cl { r with upc := if cond then r.upc + m.imm.toInt else r.upc + 1 })) ∧
    (m.imm = 0 → s.rstores = [] → exec (.mwait m) s = .next (JobAt s cl { r with upc := r.upc + 1 })) ∧
    (m.imm ≠ 0 → ∀ a, a = greg r m.y → InRange s a → pkgAt s a = s.sys.self → (coreAt a).toNat / 64 = cl → winOf a ≤ 2 →
      (s.granFull (granuleAt a) = true → exec (.mwait m) s = .next (JobAt s cl { r with upc := r.upc + 1 })) ∧
      (s.granFull (granuleAt a) = false → exec (.mwait m) s = .next s))) ∧
  (∀ (s : State) (cl : Nat) (r : JobRun), MasonRuns s cl r → s.rstores = [] → r.stops = [] → NoneSuspended s → r.job.rights.cx < 8192 → r.job.rights.cx / 512 = cl →
    ∃ t, exec .mend s = .next t ∧ (t.cluster cl).mason = { (s.cluster cl).mason with run := none } ∧ t.mem = s.mem ∧ (t.cluster cl).locks = (s.cluster cl).locks.filter (fun l => l.op != r.job.handle.toNat) ∧
      Filled s t r.job.handle (BitVec.ofNat 64 ((if r.den then 2 ^ 62 else 0) + r.flg.toNat * 2 ^ 48 + r.pgs % 2 ^ 32)) false)

/-- With no page open, the page micro-operations read nothing and change nothing; MPAGE past the last page opens none and writes 0; MCHK without a checkpoint
area commits the open page as one step, and without an open page commits nothing (R348, R349). -/
def MicroPages : Prop :=
  (∀ i ∈ ([.mqk, .mmask, .mmax, .mexp, .msum, .mscl, .mpv] : List Instr), ∀ (s : State) (cl : Nat) (r : JobRun), MasonRuns s cl r → r.isOpen = false → exec i s = .next (JobAt s cl { r with upc := r.upc + 1 })) ∧
  (∀ (m : Micro) (s : State) (cl : Nat) (r : JobRun), MasonRuns s cl r → r.job.pages ≤ r.p → exec (.mpage m) s = .next (JobAt s cl (gput { r with upc := r.upc + 1, isOpen := false } m.x 0))) ∧
  (∀ (s : State) (cl : Nat) (r : JobRun), MasonRuns s cl r → r.job.cka = 0 →
    (r.isOpen = true → exec .mchk s = .next (JobAt s cl { r with upc := r.upc + 1, rows := r.rows.map (fun x => { x with m := x.m', l := x.l' }), buf := 1 - r.buf, p := r.p + 1, pgs := r.pgs + 1, isOpen := false })) ∧
    (r.isOpen = false → exec .mchk s = .next (JobAt s cl { r with upc := r.upc + 1 }))) ∧
  (∀ (m : Micro) (s : State) (cl slot : Nat) (r : JobRun) (u : StreamCtx) (k v : TlbEntry), MasonRuns s cl r → r.p < r.job.pages → Live s cl slot u → r.job.stream = u.id → u.state ≠ .migrating →
    s.walkStream cl u.id (0x4000000000000000 + BitVec.ofNat 64 (r.keyPage * 2 ^ 19)) .load = .found k → s.walkStream cl u.id (0x4000000000000000 + BitVec.ofNat 64 (r.valPage * 2 ^ 19)) .load = .found v →
    k.frame < s.memTop → v.frame < s.memTop → k.tag = 0 → v.tag = 0 →
    exec (.mpage m) s = .next (JobAt s cl (gput { r with upc := r.upc + 1, isOpen := true, masked := false, kfrm := k.frame, vfrm := v.frame, ktag := 0, vtag := 0, kfail := none, vfail := none, rows := r.rows.map (fun x => { x with m' := x.m, s := 0 }) } m.x (BitVec.ofNat 64 (min r.job.pageTokens (r.job.sl - r.p * r.job.pageTokens))))))

/-- An f32 code of a C area. -/
def codeAt (s : State) (core off : Nat) : Nat := memBytes s.mem 4 (windowKey core 2 off)

/-- The areas of the only row of a job (R347): its core, and whether they lie in C apart from one another. -/
def rowCore (cl : Nat) (j : Job) : Nat := cl * 64 + j.map.cb % 64
structure OneRow (s : State) (cl : Nat) (r : JobRun) (x : RowState) : Prop where
  only : r.rows = [x] ∧ r.job.rows = 1 ∧ r.buf < 2 ∧ 32 ∣ r.job.dim
  fits : r.job.outAt 0 + r.job.dim * r.job.wout ≤ 2 ^ 21 ∧ (∀ b < 2, r.job.bufAt b 0 + 32 * r.job.dim ≤ 2 ^ 21) ∧ r.job.scoreAt 0 + 32 * r.job.pageTokens ≤ 2 ^ 21 ∧ r.job.outAt 0 % 128 = 0
  clean : s.poison = [] ∧ s.ldfes = []

/-- The codes of n elements from an offset of C are those of f, and every other byte of memory is as before. -/
def CodesAre (s t : State) (core off w n : Nat) (f : Nat → Nat) : Prop :=
  (∀ i < n, memBytes t.mem (w / 8) (windowKey core 2 off + i * (w / 8)) = f i % 2 ^ w) ∧
  (∀ b, b < feBase → (b < windowKey core 2 off ∨ windowKey core 2 off + n * (w / 8) ≤ b) → memByte t.mem b = memByte s.mem b)

/-- The fold on a job of one row (R150, R348): what each micro-operation of the open page, MNORM, MOUT and a fresh MSINK make of the areas and the row. The scores and the buffers
are f32; MMASK puts −∞ at every token that is not allowed; MMAX, MSUM and MSCL move the pending state. -/
def MicroFold : Prop :=
  ∀ (s : State) (cl q n : Nat) (r : JobRun) (x : RowState) (sc ob : Nat → Nat), MasonRuns s cl r → OneRow s cl r x → q = rowCore cl r.job → n = r.job.pageTokens →
    sc = (fun k => codeAt s q (r.job.scoreAt 0 + 32 * k)) → ob = (fun k => codeAt s q (r.job.bufAt r.buf 0 + 32 * k)) →
    (r.isOpen = true → ∃ t, exec .mmask s = .next t ∧ (t.cluster cl).mason.run = some { r with upc := r.upc + 1 } ∧ t.ctxs = s.ctxs ∧
      CodesAre s t q (r.job.scoreAt 0) 32 n (fun k => if r.masked = false ∧ r.p * n + k < r.job.sl ∧
        (r.job.mode = 1 → r.p * n + k ≤ (r.job.word 4).toNat / 2 ^ 32) ∧ (2 ≤ r.job.mode → (r.job.word 4).toNat / 2 ^ 32 < r.p * n + k + (r.job.word 4).toNat % 2 ^ 32 ∧ r.p * n + k ≤ (r.job.word 4).toNat / 2 ^ 32)
        then sc k else 0xFF800000)) ∧
    (r.isOpen = true → (∀ k < n, sc k = 0xFF800000) → exec .mmax s = .next (JobAt s cl { r with upc := r.upc + 1 })) ∧
    (r.isOpen = true → (∃ k < n, sc k ≠ 0xFF800000) → ∀ top, top = mul32 r.job.scale (((List.range n).map sc).foldl max32 0xFF800000) →
      exec .mmax s = .next (JobAt s cl { r with upc := r.upc + 1, rows := [{ x with m' := BitVec.ofNat 32 (max32 x.m'.toNat top.1) }], flg := r.flg ||| top.2 })) ∧
    (r.isOpen = true → ∃ t g, exec .mexp s = .next t ∧ (t.cluster cl).mason.run = some { r with upc := r.upc + 1, flg := r.flg ||| g } ∧ t.ctxs = s.ctxs ∧
      CodesAre s t q (r.job.scoreAt 0) 32 n (fun k => (exp2 false false (sub32 (mul32 r.job.scale (sc k)).1 x.m'.toNat).1).1)) ∧
    (r.isOpen = true → ∀ z, z = give32 (Fv.sum .rne ((List.range n).map (fun k => rd32 (sc k)))) →
      exec .msum s = .next (JobAt s cl { r with upc := r.upc + 1, rows := [{ x with s := BitVec.ofNat 32 z.1 }], flg := r.flg ||| z.2 })) ∧
    (r.isOpen = true → ∀ a, a = (exp2 false false (sub32 x.m.toNat x.m'.toNat).1).1 → ∃ t g, exec .mscl s = .next t ∧ t.ctxs = s.ctxs ∧
      (t.cluster cl).mason.run = some { r with upc := r.upc + 1, rows := [{ x with l' := BitVec.ofNat 32 (give32 (Fv.fma .rne (rd32 a) (rd32 x.l.toNat) (rd32 x.s.toNat))).1 }], flg := r.flg ||| g } ∧
      CodesAre s t q (r.job.bufAt (1 - r.buf) 0) 32 r.job.dim (fun k => (mul32 a (ob k)).1)) ∧
    (∃ t g, exec .mnorm s = .next t ∧ (t.cluster cl).mason.run = some { r with upc := r.upc + 1, flg := r.flg ||| g } ∧ t.ctxs = s.ctxs ∧
      CodesAre s t q (r.job.bufAt r.buf 0) 32 r.job.dim (fun k => (give32 (Fv.div (rd32 (ob k)) (rd32 x.l.toNat))).1)) ∧
    (s.rstores = [] → ∃ t g, exec .mout s = .next t ∧ (t.cluster cl).mason.run = some { r with upc := r.upc + 1, flg := r.flg ||| g } ∧ t.ctxs = s.ctxs ∧
      CodesAre s t q (r.job.outAt 0) r.job.wout r.job.dim (fun k => if r.job.wout = 16 then (convert fF32 fBF16 {} (ob k)).1 else ob k) ∧
      (∀ i < r.job.dim * r.job.wout, t.granFull (granuleId q 2 (r.job.outAt 0 + i)) = true)) ∧
    (∀ m : Micro, r.job.res = false → ∃ t, exec (.msink m) s = .next t ∧ t.ctxs = s.ctxs ∧
      (t.cluster cl).mason.run = some (gput { r with upc := r.upc + 1, rows := [{ x with m := (r.job.word 3).extractLsb' 32 32, l := 0x3F800000 }], buf := 0, p := 0, pgs := 0 } m.x 0) ∧
      CodesAre s t q (r.job.bufAt 0 0) 32 r.job.dim (fun _ => 0))

/-- MQK and MPV on a job of one row whose pages are not denied and hold no tag (R341, R346, R348, R364): a tile-task of class H takes a yard record first; then a
score is the sum of products of Q and the key, and an element of the working buffer gains the sum of products of the rounded scores and the values, both in groups of 32. -/
def MicroProducts : Prop :=
  (∀ i ∈ ([.mqk, .mpv] : List Instr), ∀ (s : State) (cl k : Nat) (r : JobRun), MasonRuns s cl r → r.isOpen = true → (s.cluster cl).took.1 ≠ s.cycle → 0 < (s.cluster cl).freeRecs →
    k < 1024 → aget (s.cluster cl).yard k = none → (∀ j < k, (aget (s.cluster cl).yard j).isSome = true) →
    ∃ t, exec i s = .next t ∧ (t.cluster cl).mason.run = some { r with tile := some k } ∧ t.mem = s.mem ∧ t.ctxs = s.ctxs ∧
      aget (t.cluster cl).yard k = some { uid := r.job.handle.toNat, kind := .tile, base := 3, place := .tile, since := s.cycle }) ∧
  (∀ (s : State) (cl q n d k : Nat) (r : JobRun) (x : RowState) (key val : Nat → Nat → Fv), MasonTurns s cl r → r.tile = some k → OneRow s cl r x → q = rowCore cl r.job → n = r.job.pageTokens → d = r.job.dim →
    r.isOpen = true → r.masked = false → r.kfail = none → r.vfail = none → s.rstores = [] → s.boot.stackStop = [] → s.caches.l2 = [] → s.caches.l1 = [] → (∀ e p, s.frameOf e p = none) →
    (s.cluster cl).streams.closure = [] → (s.cluster cl).streams.herdq = [] → r.ktag = 0 → r.vtag = 0 → r.kfrm % 65536 = 0 → r.vfrm % 65536 = 0 →
    key = (fun t i => r.job.fmt.read false (memBytes s.mem (r.job.width / 8) (r.kfrm + (t * d + i) * (r.job.width / 8)))) →
    val = (fun t i => r.job.fmt.read false (memBytes s.mem (r.job.width / 8) (r.vfrm + (t * d + i) * (r.job.width / 8)))) →
    ((r.job.word 1).getLsbD 63 = true → winOf (r.job.word 1) = 1 → InWindows s r.job.rights.cx (r.job.word 1) (d * r.job.width) → (coreAt (r.job.word 1)).toNat / 64 = cl → (r.job.word 1).getLsbD 37 = false →
      ∀ v, ReadsAs s (r.job.word 1) (d * r.job.width) v →
      ∃ t g, exec .mqk s = .next t ∧ t.ctxs = s.ctxs ∧ (t.cluster cl).mason.run = some { r with upc := r.upc + 1, flg := g, tile := none } ∧
        CodesAre s t q (r.job.scoreAt 0) 32 n (fun k => (dotGroups (d / 32) ((List.range d).map (fun i => (r.job.fmt.read false (v / 2 ^ (r.job.width * i)), key k i))) 0 0).1)) ∧
    (∃ t g, exec .mpv s = .next t ∧ t.ctxs = s.ctxs ∧ (t.cluster cl).mason.run = some { r with upc := r.upc + 1, flg := g, tile := none } ∧
      CodesAre s t q (r.job.bufAt (1 - r.buf) 0) 32 d (fun i => (dotGroups (n / 32) ((List.range n).map (fun k =>
        (fBF16.read false (convert fF32 fBF16 {} (codeAt s q (r.job.scoreAt 0 + 32 * k))).1, val k i))) (codeAt s q (r.job.bufAt (1 - r.buf) 0 + 32 * i)) 0).1)))

end Sys2Proof.Claims

namespace Sys2Proof.Claims

open Sys2Proof.Machine

/-! ## Page 17 (R99, R100, R107 to R109, R381, R382, R404 to R407, R425) -/

/-- The instruction at c issues in supervisor mode. -/
def State.Rules (s : State) (c : Cur) (srcs : List (BitVec 6)) : Prop := s.Runs c srcs ∧ (s.ctx c.cx).super = true

/-- The state without the TLB entries, or the tag-check entries, of which p holds. -/
def withoutTlb (s : State) (p : TlbEntry → Bool) : State :=
  { s with caches := { s.caches with tlbs := s.caches.tlbs.map (fun (t : Nat × List TlbEntry) => (t.1, t.2.filter (fun e => !p e))) } }
def withoutTags (s : State) (p : TagEntry → Bool) : State := { s with clusters := s.clusters.map (fun c => { c with tagCache := c.tagCache.filter (fun e => !p e) }) }

/-- Does a TLB entry map the page of a global bit address? -/
def mapsPage (e : TlbEntry) (x : Word) : Bool := !e.stream && e.key == x.toNat / 8 % 2 ^ 57 / 2 ^ e.size

/-- TLBINV (R107): each form drops its entries in every TLB, or every tag-check cache, of the package, and nothing else; with no access at another package it completes at once. -/
def TranslationsDrop : Prop :=
  ∀ (o : Ops) (s : State) (c : Cur) (x : Word), State.Rules s c [o.a] → s.rstores = [] → s.net.fwds = [] → x = (s.ctx c.cx).readS o.a →
    ∀ i s', (i, s') ∈ [(Instr.tlbinvGpage o, withoutTlb s (fun e => mapsPage e x)), (.tlbinvGall, withoutTlb s (fun e => !e.stream)),
        (.tlbinvSid o, withoutTlb s (fun e => e.stream && e.sid == x.toNat)), (.tlbinvSall, withoutTlb s (fun e => e.stream)),
        (.tlbinvIdent o, withoutTags s (fun e => e.ident == x.extractLsb' 0 24)), (.tlbinvIall, withoutTags s (fun _ => true)),
        (.tlbinvAll, withoutTags (withoutTlb s (fun _ => true)) (fun _ => true))] →
      ∃ t, exec i s = .next t ∧ WentOn s t c true ∧ SameElse s' t c.cx

/-- IDSET writes the identity and its clearance base, and answers the old identity (R108); PCNT reads an event counter of its core, 0 past the eighth, and clears it where it
is told to (R407); ELOGR reads the next SEQ or a word of the record with a SEQ, all ones where the ring does not hold it (R425). -/
def IdentitiesAndCounters : Prop :=
  (∀ (o : Ops) (s : State) (c : Cur) (n : BitVec 24), State.Rules s c [o.a] → s.poison = [] → n = ((s.ctx c.cx).readS o.a).extractLsb' 0 24 →
    ∃ t, exec (.idset o) s = .next t ∧ SameElse s t c.cx ∧
      Did s t c true (fun x => ({ x with cbase := s.clearance n, csrs := { x.csrs with ident := n } } : Ctx).writeS o.d ((s.ctx c.cx).csrs.ident.setWidth 64))) ∧
  (∀ (o : Ops) (s : State) (c : Cur) (n : Nat), State.Rules s c [o.a] → n = ((s.ctx c.cx).readS o.a).toNat →
    ∃ t v, exec (.pcnt o) s = .next t ∧ WroteS s t c o.d v 0 true ∧ v = (if n < 8 then (aget s.perf (c.cx / 8 * 8 + n)).getD 0 else 0) ∧
      (o.f = 1 → n < 8 → aget t.perf (c.cx / 8 * 8 + n) = if n = 0 then some 1 else none)) ∧
  (∀ (o : Ops) (s : State) (c : Cur) (seq : Nat) (b : Word), State.Rules s c [o.a, o.b] → seq = ((s.ctx c.cx).readS o.a).toNat → b = (s.ctx c.cx).readS o.b →
    (b.getLsbD 8 = true → ∃ t, exec (.elogr o) s = .next t ∧ WroteS s t c o.d (BitVec.ofNat 64 s.log.next) 0 true) ∧
    (b.getLsbD 8 = false → ∀ ws, aget s.log.recs (seq % 4096) = some ws → seq < 2 ^ 32 → (ws.headD 0).toNat / 2 ^ 32 = seq →
      ∃ t, exec (.elogr o) s = .next t ∧ WroteS s t c o.d (ws.getD (b.toNat % 4) 0) 0 true) ∧
    (b.getLsbD 8 = false → (∀ ws, aget s.log.recs (seq % 4096) = some ws → (ws.headD 0).toNat / 2 ^ 32 ≠ seq) → ∃ t, exec (.elogr o) s = .next t ∧ WroteS s t c o.d (-1) 0 true))

/-- The context that a ctxid names to context cx: contexts of memory cores stand from 8,192 on (log 18). -/
def ctxOfId (cx v : Nat) : Nat := if 8192 ≤ cx then 8192 + v else v

/-- Is context n one of the cluster, or the memory core, of context cx? -/
def OfMyUnit (cx n : Nat) : Prop := if 8192 ≤ cx then 8192 ≤ n ∧ (n - 8192) / 8 = (cx - 8192) / 8 else n < 8192 ∧ n / 512 = cx / 512

/-- CTXSAVE suspends the task of another context of the unit, held where S[b] says so, and answers its yard record; it answers 2^62 for a context that is free and 2^63 for one it
cannot name (R404). CTXLOAD releases a held task and kills a suspended one, with its statuses (R405). -/
def SuspendedTasks : Prop :=
  (∀ (o : Ops) (s : State) (c : Cur) (n : Nat), State.Rules s c [o.a, o.b] → n = ctxOfId c.cx ((s.ctx c.cx).readS o.a).toNat →
    ((¬ OfMyUnit c.cx n ∨ n = c.cx) → ∃ t, exec (.ctxsave o) s = .next t ∧ WroteS s t c o.d 0x8000000000000000 0 true) ∧
    (OfMyUnit c.cx n → n ≠ c.cx → s.holds n = false → ∃ t, exec (.ctxsave o) s = .next t ∧ WroteS s t c o.d 0x4000000000000000 0 true) ∧
    (OfMyUnit c.cx n → n ≠ c.cx → s.holds n = true → n < 8192 → s.net.fwds = [] → s.ldfes = [] → s.boot.stackStop = [] → ((s.ctx c.cx).readS o.b).getLsbD 0 = false → ∀ r, aget (s.cluster (n / 512)).yard (s.ctx n).yr = some r →
      ∃ t r', exec (.ctxsave o) s = .next t ∧ Did s t c true (fun x => x.writeS o.d (BitVec.ofNat 64 (s.ctx n).yr)) ∧ aget t.ctxs n = none ∧ (∀ k, k ≠ n → k ≠ c.cx → aget t.ctxs k = aget s.ctxs k) ∧
        aget (t.cluster (n / 512)).yard (s.ctx n).yr = some r' ∧ r'.place = .suspended ∧ r'.held = r.held ∧ r'.base = (s.ctx n).csrs.base) ∧
    (OfMyUnit c.cx n → n ≠ c.cx → s.holds n = true → n < 8192 → s.net.fwds = [] → s.ldfes = [] → s.boot.stackStop = [] → ((s.ctx c.cx).readS o.b).getLsbD 0 = true → ∀ r, aget (s.cluster (n / 512)).yard (s.ctx n).yr = some r →
      ∃ t r', exec (.ctxsave o) s = .next t ∧ (t.ctx c.cx).readS o.d = (if o.d = 0 then 0 else BitVec.ofNat 64 (s.ctx n).yr) ∧ aget t.ctxs n = none ∧
        aget (t.cluster (n / 512)).yard (s.ctx n).yr = some r' ∧ r'.place = .suspended ∧ r'.held = true ∧ r'.base = (s.ctx n).csrs.base ∧
        Logged s t 0x09 0 n (s.ctx n).csrs.ident.toNat (s.ctx n).csrs.trapval (s.ctx n).csrs.trappc)) ∧
  (∀ i ∈ ([.ctxloadRelease, .ctxloadKill] : List (Ops → Instr)), ∀ (o : Ops) (s : State) (c : Cur) (n : Nat) (act : Word), State.Rules s c [o.a, o.b] → c.cx < 8192 → n = ((s.ctx c.cx).readS o.a).toNat → act = (s.ctx c.cx).readS o.b →
    ((1024 < n ∨ aget (s.cluster (c.cx / 512)).yard n = none) → ∃ t, exec (i o) s = .next t ∧ WroteS s t c o.d 1 0 true) ∧
    (∀ r, n ≤ 1024 → aget (s.cluster (c.cx / 512)).yard n = some r → r.place ≠ .tile →
      (act = 0 → r.held = true → r.dying = false → ∃ t, exec (i o) s = .next t ∧ Did s t c true (fun x => x.writeS o.d 0) ∧
        SameElse (s.modCluster (c.cx / 512) (fun C => { C with yard := aset C.yard n { r with held := false, since := s.cycle } })) t c.cx) ∧
      (act = 0 → r.held = false → ∃ t, exec (i o) s = .next t ∧ WroteS s t c o.d 2 0 true) ∧
      (act = 1 → ∀ cx, r.place = .running cx → ∃ t, exec (i o) s = .next t ∧ WroteS s t c o.d 2 0 true) ∧
      (act = 1 → r.place = .suspended → r.uid ≠ (s.ctx c.cx).uid → s.rstores = [] → s.boot.stackStop = [] → (s.cluster (c.cx / 512)).streams.closure = [] → (s.cluster (c.cx / 512)).streams.herdq = [] → (s.readSave ((s.cluster (c.cx / 512)).saveArea n) r.kind).rcount = 0 →
        ∃ t, exec (i o) s = .next t ∧ aget (t.cluster (c.cx / 512)).yard n = none ∧ ((t.ctx c.cx).readS o.d = 0)) ∧
      (2 ≤ act.toNat → ∃ t, exec (i o) s = .next t ∧ WroteS s t c o.d 3 0 true)))

/-- PGMOV joins the list of moves with its page and its new place; a line of a move within the package is copied to the new frame, and no other byte of memory changes; a
move with a status resolves with it (R100, R109). -/
def PageMoves : Prop :=
  (∀ (o : Ops) (s : State) (c : Cur) (b : Word), State.Rules s c [o.a, o.b] → (s.ctx c.cx).rcount = 0 → (8192 ≤ c.cx ∨ (s.cluster (c.cx / 512)).locks.length ≤ 256) → b = (s.ctx c.cx).readS o.b →
    ∃ t h, exec (.pgmov o) s = .next t ∧ Issued s t c o.d 0x8 h ∧ t.moves = s.moves ++ [{ handle := h, rights := s.rightsOf c.cx, va := (s.ctx c.cx).readS o.a >>> 19 <<< 19, dpkg := b.toNat / 2 ^ 40 % 2 ^ 12, dframe := b.toNat / 2 ^ 16 % 2 ^ 24 }]) ∧
  (∀ (s : State) (x : EvArg) (m : MoveOp), s.Happens x → x.i = 0 → s.moves = [m] → m.status = none → m.req = none → m.begun = true → m.flying = none → s.boot.stackStop = [] → m.next < 512 → m.dpkg = s.sys.self → m.frame ≠ m.dframe → s.rstores = [] → s.poison = [] →
    ∃ t, exec .pgmovLineMove s = .next t ∧ t.moves = [{ m with next := m.next + 1 }] ∧ t.ctxs = s.ctxs ∧
      (∀ k < 128, memByte t.mem (m.dframe * 2 ^ 16 + 128 * m.next + k) = memByte s.mem (m.frame * 2 ^ 16 + 128 * m.next + k)) ∧ SameOutside s t (m.dframe * 2 ^ 16 + 128 * m.next) 128) ∧
  (∀ (s : State) (x : EvArg) (m : MoveOp) (st : Nat), s.Happens x → x.i = 0 → s.moves = [m] → m.status = some st → st ≠ 0 → m.asker = none → NoneSuspended s →
    ∃ t, exec .pgmovResolve s = .next t ∧ t.moves = [] ∧ Filled s t m.handle (BitVec.ofNat 64 st) false ∧ t.mem = s.mem)

/-- CLDRAIN (R381, R382): its statuses 3, 4, 2, 1 and 5 in that order; a cluster with nothing running is drained at once, a drained one resumes, and a wipe zeroes its windows and
fills its granules; a drain that waits completes once nothing runs. -/
def Drains : Prop :=
  (∀ i ∈ ([.cldrainDrain, .cldrainResume, .cldrainWipe] : List (Ops → Instr)), ∀ (o : Ops) (s : State) (c : Cur) (a act : Word) (cl : Nat), State.Rules s c [o.a, o.b] → a = (s.ctx c.cx).readS o.a →
    act = (s.ctx c.cx).readS o.b → cl = a.toNat % 16 → (s.ctx c.cx).wait = none →
    ((16 ≤ a.toNat ∨ 2 < act.toNat) → ∃ t, exec (i o) s = .next t ∧ WroteS s t c o.d 3 0 true) ∧
    (a.toNat < 16 → act.toNat ≤ 2 → (s.cluster cl).inService = false → ∃ t, exec (i o) s = .next t ∧ WroteS s t c o.d 4 0 true) ∧
    (a.toNat < 16 → act.toNat ≤ 2 → (s.cluster cl).inService = true → c.cx < 8192 → c.cx / 512 = cl → ∃ t, exec (i o) s = .next t ∧ WroteS s t c o.d 2 0 true) ∧
    (a.toNat < 16 → (s.cluster cl).inService = true → (8192 ≤ c.cx ∨ c.cx / 512 ≠ cl) →
      (act = 0 → (s.cluster cl).drained = true → (s.cluster cl).draining = false → ∃ t, exec (i o) s = .next t ∧ WroteS s t c o.d 1 0 true) ∧
      (act = 0 → (s.cluster cl).drained = false → (s.cluster cl).draining = false → (∀ k < 512, s.holds (512 * cl + k) = false) → s.enginesIdle cl = true → ∃ t, exec (i o) s = .next t ∧ Did s t c true (fun x => x.writeS o.d 0) ∧
        SameElse (s.modCluster cl (fun C => { C with drained := true, draining := false, drainedAt := s.cycle })) t c.cx) ∧
      (act = 1 → (s.cluster cl).drained = false → ∃ t, exec (i o) s = .next t ∧ WroteS s t c o.d 1 0 true) ∧
      (act = 1 → (s.cluster cl).drained = true → (∀ k < 512, s.holds (512 * cl + k) = false) → (s.cluster cl).streams.open_ = [] → (s.cluster cl).streams.closure = [] → (s.cluster cl).streams.herdq = [] → ∃ t, exec (i o) s = .next t ∧ Did s t c true (fun x => x.writeS o.d 0) ∧
        SameElse (s.modCluster cl (fun C => { C with drained := false, draining := false })) t c.cx) ∧
      (act = 2 → (s.cluster cl).drained = false → ∃ t, exec (i o) s = .next t ∧ WroteS s t c o.d 5 0 true) ∧
      (act = 2 → (s.cluster cl).drained = true → (s.cluster cl).draining = false → (s.cluster cl).yard = [] → (s.cluster cl).events.pops = [] → (s.cluster cl).streams.ctxs = [] → s.ldfes = [] →
        ∃ t, exec (i o) s = .next t ∧ Did s t c true (fun x => x.writeS o.d 0) ∧ (∀ b, windowBase + cl * 2 ^ 26 ≤ b → b < windowBase + (cl + 1) * 2 ^ 26 → memByte t.mem b = 0) ∧
          (∀ g, cl * 2 ^ 22 ≤ g → g < (cl + 1) * 2 ^ 22 → t.granFull g = true) ∧ (∀ b, b < windowBase + cl * 2 ^ 26 → memByte t.mem b = memByte s.mem b) ∧ (∀ k, k ≠ c.cx → aget t.ctxs k = aget s.ctxs k)))) ∧
  (∀ (s : State) (x : EvArg), s.Happens x → x.i < 16 → (s.cluster x.i).draining = true → (∀ k < 512, s.holds (512 * x.i + k) = false) → s.enginesIdle x.i = true →
    ∃ t, exec .cldrainComplete s = .next t ∧ t = s.modCluster x.i (fun C => { C with draining := false }))

end Sys2Proof.Claims

namespace Sys2Proof.Claims

open Sys2Proof.Machine

/-! ## Command chains (R358 to R362) -/

/-- The host writes CHCFG and CHDB through a Porva port: EN rises with the base and size given and HEAD, TAIL and the completion point at 0, an unusable size leaving the old one; EN falls alone; a tail
within the ring is taken, and one that breaks the bound stops the chain, with a record 0x11 (R358, R360); so does enabling where service has begun with no cluster (R444). -/
def ChainRegisters : Prop :=
  ∀ (s : State) (x : EvArg) (ch : CmdChain), s.Happens x → s.boot.ports ≠ [] → s.alive = true → ch = s.chain x.i →
    (ch.en = false → x.w.getLsbD 0 = true → (∃ k < 16, (s.cluster k).inService = true) → exec .chainEnable s = .next (s.modChain x.i (fun c => { c with en := true, base := x.w.extractLsb' 12 28, head := 0, tail := 0, start := c.read, point := 0, stopped := false, lsz := if 1 ≤ x.w.toNat / 4 % 32 ∧ x.w.toNat / 4 % 32 ≤ 20 then x.w.extractLsb' 2 5 else c.lsz }))) ∧
    (ch.en = false → x.w.getLsbD 0 = true → s.serving = true → (∀ k < 16, (s.cluster k).inService = false) → ∃ t, exec .chainEnable s = .next t ∧ (t.chain x.i).en = true ∧ (t.chain x.i).stopped = true ∧ (t.chain x.i).head = 0 ∧
      Logged s t 0x11 13 0 0 (BitVec.ofNat 64 (x.w.toNat / 2 ^ 12 % 2 ^ 28 * 2 ^ 12)) (BitVec.ofNat 64 (x.i % 16))) ∧
    (ch.en = true → x.w.getLsbD 0 = false → exec .chainStop s = .next (s.modChain x.i (fun c => { c with en := false }))) ∧
    ((ch.en = false ∨ (x.w.setWidth 32 - ch.head).toNat ≤ 2 ^ ch.lsz.toNat) → exec .doorbell s = .next (s.modChain x.i (fun c => { c with tail := x.w.setWidth 32 }))) ∧
    (ch.en = true → ch.stopped = false → 2 ^ ch.lsz.toNat < (x.w.setWidth 32 - ch.head).toNat → ∃ t, exec .doorbell s = .next t ∧ (t.chain x.i).stopped = true ∧
      Logged s t 0x11 13 0 0 (BitVec.ofNat 64 (ch.base.toNat * 2 ^ 12 + 64 * (ch.head.toNat % 2 ^ ch.lsz.toNat))) (BitVec.ofNat 64 (x.i % 16)))

/-- The record at the head of chain i, which the chain may read in its turn: OP, TGT and SEQ of word 0, and word 1 (R359, R360). -/
structure AtHead (s : State) (i op tgt seq : Nat) (w1 : Word) : Prop where
  runs : (s.chain i).en = true ∧ (s.chain i).stopped = false ∧ (s.chain i).held = false ∧ (s.chain i).tail ≠ (s.chain i).head
  small : op ≤ 2 ∧ tgt < 32 ∧ seq < 2 ^ 32 ∧ (op = 1 → tgt < 16 ∨ tgt = 31)
  words : memWords s.mem 8 ((s.chain i).base.toNat * 2 ^ 12 + 64 * ((s.chain i).head.toNat % 2 ^ (s.chain i).lsz.toNat)) = [BitVec.ofNat 64 (op * 2 ^ 56 + tgt * 2 ^ 48 + seq), w1, 0, 0, 0, 0, 0, 0]
  ring : (s.chain i).recs = [] ∧ (s.chain i).start ≤ (s.chain i).read
  turn : s.chainTurn = some (i % 16) ∧ s.boot.stackStop = []

/-- With nothing of the chain incomplete: NOP completes when read, and its SEQ is written to the completion word; LAUNCH joins the dispatcher's queue of its cluster; WAIT holds the chain, and is released and
completes when every earlier record has (R359 to R362). -/
def Commands : Prop :=
  (∀ (s : State) (x : EvArg) (ch : CmdChain) (seq tgt : Nat) (w1 : Word), s.Happens x → ch = s.chain x.i →
    (AtHead s x.i 0 tgt seq w1 → ∃ t, exec .commandNop s = .next t ∧
      t.chain x.i = { ch with head := ch.head + 1, read := ch.read + 1, recs := [], point := ch.point + 1, cseq := BitVec.ofNat 32 seq } ∧ t.phys (ch.wb.toNat * 8) = BitVec.ofNat 64 seq ∧ SameOutside s t (ch.wb.toNat * 8) 8 ∧ t.ctxs = s.ctxs) ∧
    (AtHead s x.i 1 tgt seq w1 → tgt < 16 → (s.cluster tgt).inService = true → (s.cluster tgt).disp.length < 8 → ∃ t la, exec .commandLaunch s = .next t ∧
      t.chain x.i = { ch with head := ch.head + 1, read := ch.read + 1, recs := [(ch.read, BitVec.ofNat 32 seq, false)] } ∧ (t.cluster tgt).disp = (s.cluster tgt).disp ++ [s.nextUid] ∧
      aget t.launches s.nextUid = some la ∧ la.hdr = w1.toNat ∧ la.cl = tgt ∧ la.chain = x.i % 16 ∧ la.recNo = ch.read ∧ t.mem = s.mem ∧ t.ctxs = s.ctxs) ∧
    (AtHead s x.i 2 tgt seq w1 → ∃ t, exec .commandWait s = .next t ∧ t.mem = s.mem ∧ t.ctxs = s.ctxs ∧
      t.chain x.i = { ch with head := ch.head + 1, read := ch.read + 1, recs := [(ch.read, BitVec.ofNat 32 seq, false)], held := true }) ∧
    (∀ k (q : BitVec 32), ch.held = true → ch.recs = [(k, q, false)] → ch.start ≤ k → ∃ t, exec .waitRelease s = .next t ∧
      t.chain x.i = { ch with held := false, recs := [], point := ch.point + 1, cseq := q } ∧ t.phys (ch.wb.toNat * 8) = q.setWidth 64 ∧ SameOutside s t (ch.wb.toNat * 8) 8 ∧ t.ctxs = s.ctxs))

/-! ## The dispatcher (R38 to R42, R47, R363) -/

/-- The dispatcher takes a launch whose header is well formed, with its extents, and creates its tasks one by one in yard records, with the starting state of R42; a malformed header ends its launch, with a record 0x10. -/
def Dispatching : Prop :=
  (∀ (s : State) (x : EvArg) (l : Nat) (rest : List Nat) (la : Launch), s.Happens x → x.i < 16 → (s.cluster x.i).cur = none → (s.cluster x.i).disp = l :: rest → (s.cluster x.i).inService = true → (s.cluster x.i).drained = false → s.serving = true →
    ((aget s.launches l).getD {}).words = [] → ((aget s.launches l).getD {}).counts = none → s.boot.stackStop = [] →
    la = { (aget s.launches l).getD {} with words := memWords s.mem 8 (((aget s.launches l).getD {}).hdr / 8), cl := x.i } →
    (s.headerOk la = true → la.ice = false → la.kmode = 0 → ∀ ext : List Nat, ext = (List.range 6).map (fun j => if la.fw j = 0 then 1 else la.maxExt j) → ext.foldl (· * ·) 1 ≠ 0 →
      ∃ t, exec .dispatcherTakeLaunch s = .next t ∧ (t.cluster x.i).cur = some l ∧ (t.cluster x.i).disp = rest ∧ t.mem = s.mem ∧ t.ctxs = s.ctxs ∧
        aget t.launches l = some { la with counts := some 0, ext := ext, total := ext.foldl (· * ·) 1, next := some [0, 0, 0, 0, 0, 0] }) ∧
    (s.headerOk la = false → la.done = false → ∃ t la', exec .dispatcherTakeLaunch s = .next t ∧ (t.cluster x.i).disp = rest ∧ (t.cluster x.i).cur = none ∧ aget t.launches l = some la' ∧ la'.done = true ∧
      Logged s t 0x10 13 x.i la.ident.toNat (BitVec.ofNat 64 la.hdr) (BitVec.ofNat 64 la.chain))) ∧
  (∀ (s : State) (x : EvArg) (l yr : Nat) (la : Launch) (coords : List Nat), s.Happens x → x.i < 16 → (s.cluster x.i).cur = some l → aget s.launches l = some la → la.next = some coords → la.kst = none → coords.length = 6 → la.ext.length = 6 →
    256 < (s.cluster x.i).freeRecs → yr < 1024 → aget (s.cluster x.i).yard yr = none → (∀ j < yr, (aget (s.cluster x.i).yard j).isSome = true) → (∃ k, coords.getD k 0 + 1 < la.ext.getD k 0) →
    s.poisoned (s.regs.iddb.toNat * 2 ^ 27 + 8 * la.ident.toNat) = false →
    ∃ t r z la', exec .taskCreate s = .next t ∧ t.mem = s.mem ∧ t.ctxs = s.ctxs ∧ aget (t.cluster x.i).yard yr = some r ∧ r.kind = .launched ∧ r.base = la.prio ∧ r.launch = some l ∧ r.uid = s.nextUid ∧ r.place = .fresh z ∧
      z.pc = la.word 0 ∧ z.readS 61 = la.word 1 ∧ z.csrs.wid = BitVec.ofNat 64 (((List.range 6).map (fun k => coords.getD k 0 * 2 ^ ((List.range k).map la.fw).sum)).sum) ∧ z.csrs.wfmt = (la.word 3) &&& 0x3FFFFFFFFFF ∧
      z.csrs.ident = la.ident ∧ z.csrs.base = la.prio ∧ z.csrs.kst = 0 ∧ z.csrs.twt = 0 ∧ aget t.launches l = some la' ∧ la'.created = la.created + 1 ∧ (t.cluster x.i).cur = some l)

/-! ## The yard and its contexts (R42, R44, R58, R117, R200, R281, R364 to R367, R371) -/

/-- The yard gives the lowest free context of a group to the task it serves, in its starting state; a resumed task issues once its stores are acknowledged; a context's effective priority rises with its wait; a yielded task
is eligible after its pause; a spilled record returns to the yard, and the ring's head count rises. -/
def YardEvents : Prop :=
  (∀ (s : State) (x : EvArg) (k m cx : Nat) (r : YRec) (z : Ctx), s.Happens x → x.i < 16 → (s.cluster x.i).inService = true → (s.cluster x.i).drained = false → (s.cluster x.i).yard = [(k, r)] → r.place = .fresh z →
    r.held = false → r.dying = false → r.elig ≤ s.cycle → s.boot.stackStop = [] → m < 128 → cx = x.i * 512 + x.j % 4 * 128 + m → s.holds cx = false → (∀ n < m, s.holds (x.i * 512 + x.j % 4 * 128 + n) = true) →
    ∃ t, exec .yardGive s = .next t ∧ t.mem = s.mem ∧ (∀ n, n ≠ cx → aget t.ctxs n = aget s.ctxs n) ∧
      (t.cluster x.i).yard = [(k, { r with place := .running cx, age := r.age + (s.cycle - r.since), waitq := 0 })] ∧
      aget t.ctxs cx = some { (if r.stack = 0 then z else z.writeS 62 (BitVec.ofNat 64 (8 * ((s.cluster x.i).stkaBase.toNat * 2 ^ 16 + (cx % 512 + 1) * (s.cluster x.i).stkaSlot.toNat * 4096)))) with yr := k, uid := r.uid, since := s.cycle, taken := s.cycle }) ∧
  (∀ (s : State) (x : EvArg) (z : Ctx), s.Happens x → aget s.ctxs x.i = some z →
    (z.drain = true → z.rcount = 0 → exec .resumeCounterDrain s = .next (s.modCtx x.i (fun c => { c with drain := false, since := s.cycle }))) ∧
    (z.ready = true → ∀ e, e = min 3 (z.csrs.base.toNat + (s.cycle - max z.since z.turned) / 4096) → z.csrs.eff.toNat < e →
      exec .priorityAge s = .next (s.modCtx x.i (fun c => { c with csrs := { c.csrs with eff := BitVec.ofNat 2 e } })))) ∧
  (∀ (s : State) (x : EvArg) (r : YRec), s.Happens x → x.i < 16 → aget (s.cluster x.i).yard x.j = some r → r.elig ≠ 0 → r.elig ≤ s.cycle →
    exec .yieldEligible s = .next (s.modCluster x.i (fun C => { C with yard := aset C.yard x.j { r with elig := 0 } }))) ∧
  (∀ (s : State) (x : EvArg) (k yr desc head key : Nat) (r : YRec), s.Happens x → x.i < 16 → (s.cluster x.i).cellar = [(k, r)] → desc = (s.cluster x.i).celb.toNat * 2 ^ 12 → head = (s.phys (desc + 16)).toNat % 2 ^ 32 →
    RingAt s (s.ringAddr desc head 128) 16 key → (s.cluster x.i).took.1 ≠ s.cycle → 64 < (s.cluster x.i).freeRecs → yr < 1024 → aget (s.cluster x.i).yard yr = none →
    (∀ j < yr, (aget (s.cluster x.i).yard j).isSome = true) → ∃ t, exec .cellarRefill s = .next t ∧ t.ctxs = s.ctxs ∧ (t.cluster x.i).cellar = [] ∧
      (t.phys (desc + 16)).toNat = (head + 1) % 2 ^ 32 ∧ SameOutside s t (desc + 16) 8 ∧ (t.cluster x.i).yard = aset (s.cluster x.i).yard yr { r with since := s.cycle, elig := s.cycle })

/-- Pre-emption gives the victim's context to the task that the yard serves, and the victim returns to the yard, saved; a split of a range leaves the lower half with the victim and gives the upper half to a thief, whose context starts at the
range's entry; with no victim a request is refused and changes nothing (R44, R45, R52, R55, R367). -/
def PreemptionsAndSplits : Prop :=
  (∀ (s : State) (x : EvArg) (cx yr : Nat) (r : YRec) (z : Ctx), s.Happens x → x.i < 16 → (s.cluster x.i).inService = true → (s.cluster x.i).drained = false → (∀ k < 512, s.holds (x.i * 512 + k) = true) →
    (s.cluster x.i).lastPreempt + 256 ≤ s.cycle → s.victim x.i x.j = some cx → bestWaiting s.cycle (s.cluster x.i).yard = some (yr, r) → aget (s.cluster x.i).yard yr = some r → r.place = .fresh z → r.stack = 0 → s.net.fwds = [] → s.ldfes = [] → s.boot.stackStop = [] →
    cx / 512 = x.i → (s.ctx cx).yr ≠ yr → ∃ t v, exec .preempt s = .next t ∧ aget t.ctxs cx = some { z with yr := yr, uid := r.uid, since := s.cycle, taken := s.cycle } ∧
      aget (t.cluster x.i).yard (s.ctx cx).yr = some v ∧ v.place = .suspended ∧ v.base = (s.ctx cx).csrs.base ∧ (t.cluster x.i).lastPreempt = s.cycle ∧ (∀ k, k ≠ cx → aget t.ctxs k = aget s.ctxs k)) ∧
  (∀ (s : State) (x : EvArg) (cx vr vcx yr : Nat) (r : YRec) (v : Ctx) (g : RangeRec) (mid : Word), s.Happens x → x.i < 16 → (s.cluster x.i).inService = true → (s.cluster x.i).drained = false → bestWaiting s.cycle (s.cluster x.i).yard = none →
    x.j < 64 → cx = x.i * 512 + x.j * 8 → s.holds cx = false → s.splitVictim x.i = some (vr, r, v) → (s.cluster x.i).took.1 ≠ s.cycle → (∀ p, aget s.splits x.i = some p → p.1 ≠ s.cycle) → 64 < (s.cluster x.i).freeRecs → aget (s.cluster x.i).yard yr = none → (∀ j < yr, (aget (s.cluster x.i).yard j).isSome = true) → yr < 1024 →
    r.place = .running vcx → aget s.ctxs vcx = some v → v.range = some g → v.csrs.kst = 0 → g.cur.toNat + 2 ≤ g.hi.toNat → r.stack = 0 → mid = BitVec.ofNat 64 (g.cur.toNat + (g.hi.toNat - g.cur.toNat) / 2) →
    ∃ t z, exec .workRequest s = .next t ∧ (t.ctx vcx).range = some { g with hi := mid } ∧ (t.ctx vcx).csrs = v.csrs ∧ aget t.ctxs cx = some z ∧ z.range = some { g with cur := mid } ∧ z.pc = g.entry ∧ z.readS 1 = g.arg ∧ z.readS 61 = g.s61 ∧
      z.csrs.wid = g.wid ∧ z.csrs.ident = v.csrs.ident ∧ z.csrs.kst = 0 ∧ t.mem = s.mem ∧ (∀ k, k ≠ cx → k ≠ vcx → aget t.ctxs k = aget s.ctxs k)) ∧
  (∀ (s : State) (x : EvArg), s.Happens x → x.i < 16 → (s.cluster x.i).inService = true → (s.cluster x.i).drained = false → bestWaiting s.cycle (s.cluster x.i).yard = none → s.holds (x.i * 512 + x.j % 64 * 8) = false →
    s.splitVictim x.i = none → exec .workRequest s = .next s)

/-- A queue notes what it waits on, and sends its token after 1,024 cycles of one wait; the token goes on along the waits, is dropped where one has ended, and on its return grants the corbel entry of the queue that the sender waits on (R373, R374). -/
def PlumbTokens : Prop :=
  (∀ (s : State) (x : EvArg) (d what : Nat) (w : QueueWait), s.Happens x → x.i < 16 → s.waitsOn x.i x.j = some (d, what) →
    ((s.cluster x.i).waits = [] → exec .plumbTokenSend s = .next (s.modCluster x.i (fun c => { c with waits := [{ src := x.j, dst := d, what := what, since := s.cycle }] }))) ∧
    ((s.cluster x.i).waits = [w] → w.src = x.j → w.dst = d → w.what = what → w.since + 1024 ≤ s.cycle → (s.cluster x.i).tokens = [] → (s.cluster x.i).grants = [] →
      exec .plumbTokenSend s = .next (s.modCluster x.i (fun c => { c with tokens := [{ cl := x.i, src := x.j, at_ := d }], waits := [{ w with since := s.cycle }] })))) ∧
  (∀ (s : State) (x : EvArg) (k : Token), s.Happens x → x.i < 16 → (s.cluster x.i).tokens = [k] → k.src = x.j →
    (s.waitsOn x.i k.at_ = none → exec .plumbTokenForward s = .next (s.modCluster x.i (fun c => { c with tokens := [] }))) ∧
    (∀ d what, s.waitsOn x.i k.at_ = some (d, what) → d ≠ x.j → k.hops < 15 → exec .plumbTokenForward s = .next (s.modCluster x.i (fun c => { c with tokens := [{ k with at_ := d, hops := k.hops + 1 }] }))) ∧
    (∀ what e, s.waitsOn x.i k.at_ = some (x.j, what) → s.waitsOn x.i x.j = some (4, e) → (s.cluster x.i).grants = [] → aget (s.cluster x.i).yard 1024 = none →
      exec .plumbTokenForward s = .next (s.modCluster x.i (fun c => { c with tokens := [], grants := [x.j] }))))

/-! ## Waits that end (R46, R117, R193, R280, R402, R408) -/

/-- A remote store is performed at its place and lowers its task's counter; the watchdog traps a counted wait of 2^32 cycles; a KWAIT whose weight is all back completes; a WAITI or SLEEP whose time has passed completes. -/
def WaitsEnd : Prop :=
  (∀ (s : State) (x : EvArg) (r : RStore) (z : Ctx), s.Happens x → x.i = 0 → s.rstores = [r] → r.req = none → r.done = false → r.fill = [] → r.more = none → s.boot.stackStop = [] → s.poison = [] → s.ldfes = [] → s.ctxs = [(r.cx, z)] → z.uid = r.uid → (∀ y ∈ s.yardOf r.cx, y.2.dying = false) →
    ∃ t, exec .remoteStoreAck s = .next t ∧ t.phys r.key = (s.phys r.key &&& ~~~r.mask) ||| (r.val &&& r.mask) ∧ SameOutside s t r.key 8 ∧ t.rstores = [] ∧ t.ctxs = [(r.cx, { z with rcount := z.rcount - 1 })]) ∧
  (∀ (s : State) (x : EvArg) (z : Ctx) (w : WaitRec) (k : Nat), s.Happens x → aget s.ctxs x.i = some z → z.wait = some w → z.carry = none → (w.kind, k) ∈ [(WaitKind.source, 0), (.granule, 1), (.barv, 2), (.kwait, 3), (.fwait, 4), (.kset, 5)] →
    z.ready = false → (8192 ≤ x.i ∨ (s.cluster (x.i / 512)).drained = false) → s.net.fwds = [] → 2 ^ 32 ≤ w.base + (s.cycle - w.since) → s.Handles x.i → ∃ t, exec .watchdog s = .next t ∧ Trapped s t x.i { cause := 0x0B, detail := k, val := w.what } w.pc w.len) ∧
  (∀ (s : State) (x : EvArg) (z : Ctx) (w : WaitRec) (c : Cur), s.Happens x → aget s.ctxs x.i = some z → z.wait = some w → z.NoStep → c = { cx := x.i, addr := w.pc, len := w.len } →
    (w.kind = .kwait → ∀ K, aget s.keystones z.csrs.kst.toNat = some K → K.returned = K.issued → ∃ t, exec .kwaitComplete s = .next t ∧ aget t.keystones z.csrs.kst.toNat = none ∧ t.mem = s.mem ∧
      Did s t c true (fun y => ({ y with csrs := { y.csrs with kst := K.pkst, twt := K.pwt } } : Ctx).writeS z.kdst 0)) ∧
    (∀ n, z.pause = .waiti (some n) → n ≤ s.cycle → ∃ t, exec .waitiTimeout s = .next t ∧ Did s t c true (fun y => { y with pause := .none }) ∧ SameElse s t x.i) ∧
    (∀ n, z.pause = .sleep n → n ≤ s.cycle → ∃ t, exec .sleepEnd s = .next t ∧ Did s t c true (fun y => { y with pause := .none }) ∧ SameElse s t x.i))

end Sys2Proof.Claims

namespace Sys2Proof.Claims

open Sys2Proof.Machine

/-! ## Resets, boot, images (R376 to R381, R444) -/

/-- The package has power and its boot has not halted (R376). -/
def Powered (s : State) : Prop := s.boot.stage ≠ .off ∧ s.boot.stage ≠ .halted

/-- The package serves accesses: its wipe has ended, too (R381). -/
def Alive (s : State) : Prop := Powered s ∧ s.boot.wiping = false

/-- The links of the fabrics within the dies that have left service, from 30 on, and the memory cores among what they serve, from 1,070 on (R442). -/
def brokenLinks (s : State) : List (Nat × Lane) := (s.net.lanes.filter (fun l => l.2.out && decide (30 ≤ l.1))).map (fun l => (l.1, { out := true }))
def brokenCores (s : State) : List Nat := (brokenLinks s).filterMap (fun l => if 1070 ≤ l.1 ∧ l.1 < 1166 then some (l.1 - 1070) else none)

/-- The package after a reset: the fuses, the system it belongs to, what has left service within the dies and the model's own names stay; every other field is as reset leaves it, with the boot at the stage given. -/
def afterReset (s : State) (st : BootStage) : State :=
  { State.reset with fuses := s.fuses, sys := s.sys, agenda := s.agenda, fresh := s.fresh, cur := s.cur, arg := s.arg, nextHandle := s.nextHandle, nextUid := s.nextUid, net := { lanes := brokenLinks s }, boot := { stage := st, failed := brokenCores s } }

/-- Power on, power off and the shutdown at 115 degrees reset the package; from 105 degrees it throttles, until 100 (R16, R376, R381, R387). -/
def Resets : Prop :=
  ∀ (s : State) (x : EvArg), s.Happens x →
    exec .powerOnReset s = .next (afterReset s .rom) ∧ exec .powerOff s = .next (afterReset s .off) ∧
    (115 ≤ x.i → Powered s → exec .thermalShutdown s = .next (afterReset s .rom)) ∧
    (105 ≤ x.i → x.i < 115 → Alive s → exec .throttle s = .next { s with regs := { s.regs with tj := BitVec.ofNat 8 x.i, watts := BitVec.ofNat 16 x.j, thr := true, measured := s.cycle } }) ∧
    (x.i < 100 → s.regs.thr = true → Alive s → exec .throttleEnd s = .next { s with regs := { s.regs with tj := BitVec.ofNat 8 x.i, watts := BitVec.ofNat 16 x.j, thr := false, measured := s.cycle } })

/-- An image that the package accepts: both signatures verify, its keys are those of the fuses, its version is not below its kind's, and the life-cycle state admits it (R377, R380). -/
structure Accepted (s : State) (img : Image) : Prop where
  signed : img.edOk = true ∧ img.mlOk = true ∧ img.keyDigest = s.fuses.digest
  service : img.kind = .service → (s.fuses.minver[0]).toNat ≤ img.version
  memory : img.kind = .memoryCore → (s.fuses.minver[1]).toNat ≤ img.version
  routine : img.kind = .masonRoutine → (s.fuses.minver[2]).toNat ≤ img.version
  life : s.fuses.lcs ≠ 3 ∧ (s.fuses.lcs = 0 → img.vendorTest = true ∨ img.kind = .command)

/-- The first stages of the boot: the end of the wipe, the firmware of the service core, the self-tests of the clusters (R376 to R381, R444). -/
def BootStages : Prop :=
  ∀ (s : State) (x : EvArg) (cl : Nat), s.Happens x →
    (x.k = 0 → s.boot.stage = .rom → s.boot.wiping = true →
      exec .wipeEnd s = .next { s with boot := { s.boot with wiping := false, stage := if s.fuses.lcs = 3 then .halted else .firmware } }) ∧
    (x.k ≠ 0 → x.i ∈ s.boot.stackWipe → exec .wipeEnd s = .next { s with boot := { s.boot with stackWipe := s.boot.stackWipe.filter (· != x.i) } }) ∧
    (s.boot.stage = .firmware →
      (x.img.kind = .service → Accepted s x.img → exec .serviceFirmwareImage s = .next { s with boot := { s.boot with stage := .selfTest, firmware := some x.img.version } }) ∧
      (¬ (x.img.kind = .service ∧ Accepted s x.img) → ∃ t, exec .serviceFirmwareImage s = .next t ∧ t.boot = { s.boot with stage := .halted } ∧ t.mem = s.mem ∧ Logged s t 0x32 14 0 0 0 (BitVec.ofNat 64 (14 * 2 ^ 20)))) ∧
    (s.boot.stage = .selfTest → x.i < 16 → x.i ∉ s.boot.tested → cl < 16 →
      (x.j = 1 → (∀ l ∈ s.net.lanes, l.2.out = true → l.1 < 30) → ∃ t, exec .clusterSelfTestEnd s = .next t ∧ (t.cluster cl).inService = (decide (cl = x.i) || (s.cluster cl).inService) ∧ t.boot.tested = x.i :: s.boot.tested ∧
        t.boot.stage = (if s.boot.tested.length < 15 then .selfTest else .sramService) ∧ t.log = s.log ∧ t.mem = s.mem ∧ t.ctxs = s.ctxs ∧ t.chains = s.chains) ∧
      (x.j ≠ 1 → s.boot.tested.length < 15 → ∃ t, exec .clusterSelfTestEnd s = .next t ∧ t.clusters = s.clusters ∧ t.boot.tested = x.i :: s.boot.tested ∧ t.boot.stage = .selfTest ∧
        Logged s t 0x32 13 x.i 0 0 (BitVec.ofNat 64 (13 * 2 ^ 20 + x.i))) ∧
      (x.j ≠ 1 → s.boot.tested.length = 15 → s.clusBits = 0 → ∃ t, exec .clusterSelfTestEnd s = .next t ∧ t.boot.stage = .sramService ∧ ∀ n < 16, (t.chain n).stopped = ((s.chain n).en || (s.chain n).stopped)))

/-- The memory core m runs the firmware of an image: one task, in supervisor mode, from the image's entry, with its identity (R60, R389). -/
def FirmwareRuns (t : State) (img : Image) (m : Nat) : Prop :=
  (t.mcore m).inService = true ∧ (∀ cx, isMemCtx cx = true → memCoreOf cx = m → t.holds cx = false) ∧
  ∃ r z, (t.mcore m).yard = [(0, r)] ∧ r.kind = .firmware ∧ r.place = .fresh z ∧ z.pc = codeAddr img.entry ∧ z.csrs.ident = img.ident ∧ z.super = true ∧ z.csrs.trapctl = 1

/-- Stacks come into service with the firmware of their memory cores, links and the calibration end, and each failure has its record (R60, R376, R377, R379, R384, R444, R445). -/
def MemoryCoresStart : Prop :=
  ∀ (s : State) (x : EvArg) (img : Image), s.Happens x →
    (s.boot.stage = .sramService →
      (x.img.kind = .memoryCore → Accepted s x.img → exec .memoryCoreFirmwareImage s = .next { s with boot := { s.boot with stage := .stackTrain, mcFirmware := some x.img, stackWipe := List.range 12 } }) ∧
      (¬ (x.img.kind = .memoryCore ∧ Accepted s x.img) → ∃ t, exec .memoryCoreFirmwareImage s = .next t ∧ t.boot = { s.boot with stage := .linkTrain, scope := some s.scopeTable } ∧ Logged s t 0x32 1 0 0 0 (BitVec.ofNat 64 (2 ^ 20)))) ∧
    (s.boot.mcFirmware = some img → s.boot.stage = .stackTrain → x.i < 12 → x.i ∉ s.boot.trained → s.boot.failed = [] →
      (x.j = 1 → x.i ∉ s.boot.stackWipe → ∃ t, exec .stackTrainEnd s = .next t ∧ t.boot.trained = x.i :: s.boot.trained ∧ t.regs = { s.regs with capStacks := s.regs.capStacks ||| BitVec.ofNat 12 (2 ^ x.i) } ∧
        ∀ n < 8, FirmwareRuns t img (8 * x.i + n)) ∧
      (x.j ≠ 1 → ∃ t, exec .stackTrainEnd s = .next t ∧ t.boot.trained = x.i :: s.boot.trained ∧ t.regs = s.regs ∧ Logged s t 0x32 5 x.i 0 0 (BitVec.ofNat 64 (5 * 2 ^ 20 + x.i)))) ∧
    (s.boot.stage = .linkTrain → x.k = 0 → x.i < 6 → s.extentOf x.i < 2 → exec .linkTrainEnd s = .next s) ∧
    (s.boot.stage = .linkTrain → x.k = 0 → x.i < 6 → 2 ≤ s.extentOf x.i → (s.net.link x.i).up = false → (∀ l ∈ s.net.lanes, l.1 / 4 = x.i → l.2.out = false) →
      (x.j = 1 → ∃ t, exec .linkTrainEnd s = .next t ∧ t.net.link x.i = { up := true } ∧ (∀ k < 6, k ≠ x.i → t.net.link k = s.net.link k) ∧ t.mem = s.mem ∧ t.ctxs = s.ctxs) ∧
      (x.j ≠ 1 → ∃ t, exec .linkTrainEnd s = .next t ∧ (∀ k < 6, t.net.link k = s.net.link k) ∧ (∀ q < 4, (t.lane (4 * x.i + q)).out = true) ∧ Logged s t 0x32 12 x.i 0 0 (BitVec.ofNat 64 (12 * 2 ^ 20 + x.i)))) ∧
    (∀ g pos, s.boot.stage = .linkTrain → x.k = g + 1 → aget s.sys.gone g = some pos → ∃ t, exec .linkTrainEnd s = .next t ∧ aget t.sys.others g = some pos ∧ aget t.sys.gone g = none ∧ t.mem = s.mem ∧ t.ctxs = s.ctxs) ∧
    (s.boot.calibrating = true → s.boot.stage ≠ .firmware → Alive s →
      (x.j = 1 → exec .calibrationEnd s = .next { s with boot := { s.boot with calibrating := false }, regs := { s.regs with cal := true } }) ∧
      (x.j ≠ 1 → ∃ t, exec .calibrationEnd s = .next t ∧ t.boot = { s.boot with calibrating := false } ∧ t.regs = s.regs ∧ Logged s t 0x33 14 0 0 0 (BitVec.ofNat 64 (14 * 2 ^ 20)))) ∧
    (x.i < 12 → s.regs.capStacks.getLsbD x.i = true → s.boot.stackStop = [] → x.img.kind = .memoryCore → Accepted s x.img → ∃ t, exec .mcFirmwareUpdate s = .next t ∧
      t.boot.stackStop = [(x.i, x.img)] ∧ (∀ n < 8, (t.mcore (8 * x.i + n)).inService = false) ∧ t.mem = s.mem ∧ t.ctxs = s.ctxs) ∧
    (s.boot.stackStop = [(x.i, img)] → x.i < 12 → s.boot.failed = [] → ∃ t, exec .mcFirmwareStart s = .next t ∧ t.boot.stackStop = [] ∧ t.boot.mcFirmware = some img ∧ ∀ n < 8, FirmwareRuns t img (8 * x.i + n))

/-- A verified command image advances the life-cycle state, with a reset and its wipe, or raises a version counter while DEPLOYED; counters never fall (R377, R380, R381). -/
def LifeCycle : Prop :=
  ∀ (s : State) (x : EvArg), s.Happens x → Alive s → x.img.kind = .command → Accepted s x.img →
    (s.fuses.lcs.toNat < x.img.request → x.img.request ≤ 3 →
      exec .lifecycleChange s = .next (afterReset { s with fuses := { s.fuses with lcs := BitVec.ofNat 2 x.img.request } } .rom)) ∧
    (x.img.request ≤ s.fuses.lcs.toNat → exec .lifecycleChange s = .next s) ∧
    (s.fuses.lcs = 2 → ∀ (k : Fin 3), x.img.request = k.val →
      ((s.fuses.minver[k]).toNat < x.img.version → x.img.version < 2 ^ 32 → exec .minverRaise s = .next { s with fuses := { s.fuses with minver := s.fuses.minver.set k (BitVec.ofNat 32 x.img.version) } }) ∧
      (x.img.version ≤ (s.fuses.minver[k]).toNat → exec .minverRaise s = .next s))

/-! ## Registers and service (R8, R27, R375, R379, R385) -/

/-- The package registers that software writes, by offset: the fields that a write of v leaves (R8, R375). -/
def packageRegisters : List (Nat × (PkgRegs → Word → PkgRegs)) :=
  [(0x00, fun r v => { r with gvtbRoot := v.extractLsb' 21 19, gvtbEn := v.getLsbD 0 }),
   (0x08, fun r v => { r with hotbBase := v.extractLsb' 30 10, hotbTbl := v.getLsbD 1, hotbEn := v.getLsbD 0 }),
   (0x10, fun r v => { r with iddb := v.extractLsb' 27 13 }),
   (0x18, fun r v => { r with routeThr := if v.toNat / 2 ^ 24 % 256 < 0x10 then r.routeThr else v.extractLsb' 24 8, routeForce := v.getLsbD 1, routeEn := v.getLsbD 0 }),
   (0x20, fun r v => { r with refb := v.extractLsb' 31 9 }),
   (0x28, fun r v => { r with slpt := v.extractLsb' 19 21 }),
   (0x48, fun r v => { r with dlogBase := v.extractLsb' 12 28, dlogLsz := if 24 < v.toNat % 32 then r.dlogLsz else v.extractLsb' 0 5 }),
   (0x50, fun r v => { r with dlogHead := v.extractLsb' 32 32 }),
   (0x58, fun r v => { r with dlost := v.extractLsb' 0 32 }),
   (0x60, fun r v => { r with retBase := v.extractLsb' 21 19, retEn := v.getLsbD 0 }),
   (0x40, fun r _ => r), (0x68, fun r _ => r)]

/-- The registers of a cluster, by offset in its block (R375). -/
def clusterRegisters : List (Nat × (Cluster → Word → Cluster)) :=
  [(0x00, fun c v => { c with pinq := v.extractLsb' 0 16 }), (0x08, fun c v => { c with spool := v.extractLsb' 12 28 }),
   (0x10, fun c v => { c with shtb := v.extractLsb' 23 17 }), (0x18, fun c v => { c with stkaBase := v.extractLsb' 16 41, stkaSlot := v.extractLsb' 0 16 }),
   (0x20, fun c v => { c with sva := v.extractLsb' 26 14 }), (0x28, fun c v => { c with celb := v.extractLsb' 12 28 }),
   (0x30, fun c v => { c with shtv := v.extractLsb' 23 34 })]

/-- A write of a control-block register leaves what the register's fields take, reserved values keeping the old ones; one that leaves FMIN above FMAX changes nothing, and a CELQ that raises EQ ends the stalls of its die (R8, R80, R81, R372, R375, R436). -/
def RegisterWrites : Prop :=
  ∀ (s : State) (x : EvArg), s.Happens x → Alive s →
    (∀ row ∈ packageRegisters, x.i = row.1 → exec .registerWrite s = .next { s with regs := row.2 s.regs x.w }) ∧
    (∀ row ∈ clusterRegisters, ∀ d j, d < 4 → j < 4 → x.i = 0x10000 * (d + 1) + 0x1000 + 0x100 * j + row.1 → exec .registerWrite s = .next (s.modCluster (4 * d + j) (fun c => row.2 c x.w))) ∧
    (∀ n < 16, x.i = 0x108 + 32 * n → exec .registerWrite s = .next (s.modChain n (fun c => { c with wb := x.w.extractLsb' 3 37 }))) ∧
    (∀ d < 4, x.i = 0x10000 * (d + 1) + 8 → ∃ t, exec .registerWrite s = .next t ∧ t.dies = (s.modDie d (fun D => { D with yq := x.w.extractLsb' 16 16, eq := x.w.extractLsb' 0 16 })).dies ∧
      { t with dies := s.dies, clusters := s.clusters } = s ∧ ∀ c < 16, t.cluster c =
        if c / 4 = d ∧ (s.die d).eq ≠ 0 ∧ (x.w.extractLsb' 0 16 = 0 ∨ (s.die d).eq.toNat < (x.w.extractLsb' 0 16).toNat) then { s.cluster c with events := { (s.cluster c).events with stalled := false, spillWait := [] } } else s.cluster c) ∧
    (∀ d mx mn, d < 4 → x.i = 0x10000 * (d + 1) → mx = (if 14 < x.w.toNat / 2 ^ 8 % 32 then (s.die d).fmax else BitVec.ofNat 5 (x.w.toNat / 2 ^ 8)) → mn = (if 14 < x.w.toNat % 32 then (s.die d).fmin else BitVec.ofNat 5 x.w.toNat) →
      (mn.toNat ≤ mx.toNat → exec .registerWrite s = .next (s.modDie d (fun D => { D with frz := x.w.getLsbD 31, fmax := mx, fmin := mn }))) ∧ (mx.toNat < mn.toNat → exec .registerWrite s = .next s))

/-- Full service begins once every cluster in service is drained; a stack retires with the memory above the new top; the host writes bytes through a port in service (R27, R379, R385). -/
def ServiceChanges : Prop :=
  ∀ (s : State) (x : EvArg), s.Happens x →
    (Alive s → x.w.getLsbD 0 = true → s.regs.full = false → s.boot.copying = false → (∀ c < 16, (s.cluster c).inService = true → (s.cluster c).drained = true ∧ (s.cluster c).draining = false) → s.stackList ≠ [] →
      exec .pkgmodeFullWrite s = .next { s with boot := { s.boot with copying := true } }) ∧
    (x.w.getLsbD 0 = false ∨ (∃ c < 16, (s.cluster c).inService = true ∧ (s.cluster c).drained = false) → exec .pkgmodeFullWrite s = .next s) ∧
    (s.boot.copying = true → ∃ t, exec .fullServiceReady s = .next t ∧ t.regs = { s.regs with full := true } ∧ t.boot = { s.boot with copying := false } ∧ t.mem = s.mem ∧ t.ctxs = s.ctxs ∧
      t.caches.l2 = [] ∧ ∀ n < 64, (t.slice n).fcur = 0 ∧ (t.slice n).moving = false) ∧
    (x.i < 12 → s.regs.capStacks.getLsbD x.i = true → x.i ∉ s.boot.retiring → exec .stackRetire s = .next { s with boot := { s.boot with retiring := s.boot.retiring ++ [x.i] } }) ∧
    (x.i < 12 → x.i ∈ s.boot.retiring → s.regs.full = true → s.rstores = [] → (∀ n < 8, (s.mcore (8 * x.i + n)).copies = []) → ∃ t, exec .stackRetireDone s = .next t ∧ t.regs = { s.regs with capStacks := s.regs.capStacks &&& ~~~(BitVec.ofNat 12 (2 ^ x.i)) } ∧
      x.i ∉ t.boot.retiring ∧ (∀ n < 8, (t.mcore (8 * x.i + n)).inService = false) ∧
      (∀ a, memByte t.mem a = if t.memTop ≤ a ∧ a < s.memTop then unlistedByte a else memByte s.mem a)) ∧
    (x.i ∈ s.boot.ports → Alive s → x.w.toNat + x.data.length ≤ s.memTop → s.poison = [] → s.boot.stackStop = [] → ∃ t, exec .hostPortWrite s = .next t ∧ t.ctxs = s.ctxs ∧ t.poison = [] ∧
      ∀ a, memByte t.mem a = if h : x.w.toNat ≤ a ∧ a - x.w.toNat < x.data.length then x.data[a - x.w.toNat] else memByte s.mem a) ∧
    (x.i ∈ s.boot.ports → exec .porvaPortLoss s = .next { s with boot := { s.boot with ports := s.boot.ports.filter (· != x.i) } })

/-! ## The carve-out (R80 to R83), routing windows (R122) -/

/-- A way of slice n begins to move to the count k; the other counts of the move stand as given, and no byte of memory changes. -/
def WayMoves (s t : State) (n k last sampled moved : Nat) : Prop :=
  (t.slice n).moving = true ∧ (t.slice n).target.toNat = k ∧ (t.slice n).fcur = (s.slice n).fcur ∧ (t.slice n).last.toNat = last ∧ (t.slice n).sampled = sampled ∧ (t.slice n).moved = moved ∧ t.mem = s.mem ∧ t.ctxs = s.ctxs

/-- A sample weighs the frames' gain against the cache lines', from the counters of the interval, which it clears, and begins a move of one way within the limits; a limit moves the boundary a way at a time; the move's end sets FCUR (R80 to R83). -/
def CarveOut : Prop :=
  ∀ (s : State) (x : EvArg) (sl : Slice) (d : Die) (gf gc : Int), s.Happens x → x.i < 64 → s.regs.full = true → sl = s.slice x.i → d = s.die (x.i / 16) →
    gf = (sl.fg : Int) - 384 * (sl.cl : Int) → gc = 384 * (sl.cg : Int) - (sl.fl : Int) →
    (sl.sampled + 2 ^ 20 ≤ s.cycle →
      (d.frz = true ∨ sl.moving = true ∨ (gf ≤ 0 ∧ gc ≤ 0) → exec .carveoutSample s = .next (s.modSlice x.i (fun y => { y.recount with sampled := s.cycle, last := 0 }))) ∧
      (d.frz = false → sl.moving = false → 0 < gf → gc < gf → d.fmin.toNat ≤ sl.fcur.toNat + 1 → sl.fcur.toNat + 1 ≤ d.fmax.toNat → sl.fcur.toNat + 1 ≤ 14 →
        (s.pinsRefuse x.i = false → ∃ t, exec .carveoutSample s = .next t ∧ WayMoves s t x.i (sl.fcur.toNat + 1) 1 s.cycle sl.moved) ∧
        (s.pinsRefuse x.i = true → exec .carveoutSample s = .next (s.modSlice x.i (fun y => { y.recount with sampled := s.cycle, last := 3 })))) ∧
      (d.frz = false → sl.moving = false → 0 < gc → gf < gc → 1 ≤ sl.fcur.toNat → d.fmin.toNat + 1 ≤ sl.fcur.toNat → sl.fcur.toNat - 1 ≤ d.fmax.toNat →
        ∃ t, exec .carveoutSample s = .next t ∧ WayMoves s t x.i (sl.fcur.toNat - 1) 2 s.cycle sl.moved)) ∧
    (sl.moving = false → sl.moved + 4096 ≤ s.cycle →
      (sl.fcur.toNat < d.fmin.toNat → s.pinsRefuse x.i = false → ∃ t, exec .carveoutLimitMove s = .next t ∧ WayMoves s t x.i (sl.fcur.toNat + 1) sl.last.toNat sl.sampled s.cycle) ∧
      (d.fmax.toNat < sl.fcur.toNat → d.fmin.toNat ≤ sl.fcur.toNat → ∃ t, exec .carveoutLimitMove s = .next t ∧ WayMoves s t x.i (sl.fcur.toNat - 1) sl.last.toNat sl.sampled s.cycle)) ∧
    (sl.moving = true → (∀ f ∈ sl.frames, f.slot / 24 < sl.target.toNat) → exec .l2WayMoveEnd s = .next (s.modSlice x.i (fun y => { y with moving := false, fcur := y.target })))

/-- At the end of a window a switch marks its most used link where that link's share passes the threshold; a window without flits marks none (R122). -/
def RouteWindows : Prop :=
  ∀ (s : State) (x : EvArg), s.Happens x → s.net.windowEnd + 4096 ≤ s.cycle → ∃ t, exec .routeWindowEnd s = .next t ∧ t.net.dieFlits = [] ∧ t.net.windowEnd = s.cycle ∧ t.mem = s.mem ∧ t.ctxs = s.ctxs ∧
    (∀ sw < 5, ∀ l k, l = s.switchCounts sw → ((sw, k) ∈ t.net.marked ↔ s.regs.routeThr.toNat * l.sum < 16 * l.foldl max 0 * l.length ∧ k = l.idxOf (l.foldl max 0))) ∧
    (s.net.dieFlits = [] → t.net.marked = [] ∧ t.regs.routeLast = 0x10)

/-! ## Links, errors, units that leave (R420 to R426, R430, R434, R440 to R443) -/

/-- The eighth failure of one flit makes its link retrain; acknowledged flits leave the replay buffer, and what a flow's destination has delivered is no longer in flight; the third failed retraining within 2^30 cycles takes the link
out of service, one within a die with a reset that keeps it out (R121, R441, R442). -/
def LinkErrors : Prop :=
  ∀ (s : State) (x : EvArg) (l : Lane), s.Happens x → l = s.lane x.i →
    (Alive s → l.training = false → l.out = false →
      (l.badCrc < 7 → exec .flitReplay s = .next (s.setLane x.i { l with badCrc := l.badCrc + 1 })) ∧
      (7 ≤ l.badCrc → ∃ t, exec .flitReplay s = .next t ∧ t.lane x.i = { l with badCrc := 0, training := true } ∧ t.ctxs = s.ctxs ∧ Logged s t 0x2C 12 x.i 0 0 (BitVec.ofNat 64 x.i)) ∧
      (24 ≤ x.i → exec .flitAck s = .next (s.setLane x.i { l with replay := l.replay - x.j, replayBack := l.replayBack - x.k, badCrc := 0 })) ∧
      (x.i < 24 → s.net.out = [] → s.net.wait = [] → s.net.back = [] →
        (x.k ≠ 1 → exec .flitAck s = .next (s.setLane x.i { l with replay := l.replay - x.j, badCrc := 0 })) ∧
        (x.k = 1 → ∃ t, exec .flitAck s = .next t ∧ { t with net := { t.net with gone := s.net.gone } } = s.setLane x.i { l with replay := l.replay - x.j, badCrc := 0 } ∧
          ∀ q, q ∈ t.net.gone ↔ q ∈ s.net.gone ∧ ¬ (sameFlow x.pkt q = true ∧ (BitVec.ofNat 16 x.pkt.seq - BitVec.ofNat 16 q.seq).toNat < 2 ^ 15)))) ∧
    (l.training = true →
      (x.j = 1 → s.net.wait = [] → exec .linkRetrainEnd s = .next (s.setLane x.i { l with training := false })) ∧
      (x.j ≠ 1 → (l.failures.filter (fun c => decide (s.cycle < c + 2 ^ 30))).length < 2 →
        exec .linkRetrainEnd s = .next (s.setLane x.i { l with failures := s.cycle :: l.failures.filter (fun c => decide (s.cycle < c + 2 ^ 30)) })) ∧
      (x.j ≠ 1 → 2 ≤ (l.failures.filter (fun c => decide (s.cycle < c + 2 ^ 30))).length →
        (x.i < 30 → s.net.out = [] → s.net.wait = [] → ∃ t, exec .linkRetrainEnd s = .next t ∧ (t.lane x.i).out = true ∧ (t.lane x.i).training = false ∧ Logged s t 0x2D 12 x.i 0 0 (BitVec.ofNat 64 x.i) ∧
          ∀ k < 6, ((t.net.link k).up = true ↔ (s.net.link k).up = true ∧ ¬ (x.i / 4 = k ∧ x.i < 24 ∧ ∀ q < 4, 4 * k + q ≠ x.i → (s.lane (4 * k + q)).out = true))) ∧
        (30 ≤ x.i → ∃ t, exec .linkRetrainEnd s = .next t ∧ t.boot.stage = .rom ∧ t.boot.wiping = true ∧ t.mem = [] ∧ t.ctxs = [] ∧ t.fuses = s.fuses ∧ t.sys = s.sys ∧ (t.lane x.i).out = true ∧ Logged State.reset t 0x2D 12 x.i 0 0 (BitVec.ofNat 64 x.i))))

/-- An error found: a corrected one has a record; an uncorrectable one poisons its half-line of HBM, whose frame retires, or its word of a window; one of the mason's control store waits for the job that reaches it (R420 to R426, R440). -/
def ErrorsFound : Prop :=
  ∀ (s : State) (x : EvArg) (a : Nat), s.Happens x → Alive s → a = x.err.addr →
    (x.err.unit = .hbm → x.err.corrected = true → a < s.memTop → s.regs.full = true → (s.bank (5 * 8192 + s.stackOf a)) = (0, 0, 0, 0) → s.log.fixes = [] → ∃ t, exec .scrub s = .next t ∧
      t.mem = s.mem ∧ t.poison = s.poison ∧ (∀ cx z, aget s.ctxs cx = some z → ∃ k ∈ [0, 8], aget t.ctxs cx = some { z with csrs := { z.csrs with trapctl := z.csrs.trapctl ||| k } }) ∧ Logged s t 0x22 5 (s.stackOf a) 0 (BitVec.ofNat 64 a) 1) ∧
    (x.err.unit = .hbm → x.err.corrected = false → a < s.memTop → s.regs.full = true → ∃ t, exec .scrub s = .next t ∧ (∀ k < 8, t.poisoned (a / 64 * 64 + 8 * k) = true) ∧ a / 2 ^ 16 ∈ t.log.retired ∧
      (a / 2 ^ 16 ∈ s.log.retired → t.mem = s.mem ∧ Logged s t 0x23 5 (s.stackOf a) 0 (BitVec.ofNat 64 a) 0) ∧
      (a / 2 ^ 16 ∉ s.log.retired → t.regs.retNret = s.regs.retNret + 1 ∧ t.log.next = ((s.log.next + 1) % 2 ^ 32 + 1) % 2 ^ 32 ∧ (s.regs.retEn = false → t.mem = s.mem))) ∧
    (∀ core < 1024, x.err.unit = .window core → x.err.corrected = false → windowKey core 0 0 ≤ a → a < windowKey core 0 0 + 2 ^ 20 → ∃ t, exec .scrub s = .next t ∧ t.mem = s.mem ∧
      t.poisoned (a / 8 * 8) = true ∧ Logged s t 0x21 4 core 0 (BitVec.ofNat 64 a) 0) ∧
    (∀ cl < 16, x.err.unit = .masonStore cl → x.err.corrected = false → ∃ t, exec .scrub s = .next t ∧ t.mem = s.mem ∧ t.ctxs = s.ctxs ∧ a % 2048 ∈ (t.cluster cl).mason.parity ∧ t.log.recs = s.log.recs)

/-- A memory core that fails loses its tasks, and its stack begins to retire; a join unit that fails loses its groups and leaves every scope; an idle cluster that leaves keeps its registers alone; a table walk and a line fill end (R90, R113, R430, R434, R443). -/
def UnitsLeave : Prop :=
  ∀ (s : State) (x : EvArg), s.Happens x →
    (x.i < 96 → (s.mcore x.i).inService = true → (s.mcore x.i).copies = [] → s.rstores = [] → ∃ t, exec .memoryCoreFail s = .next t ∧ (t.mcore x.i).inService = false ∧ (t.mcore x.i).yard = [] ∧
      t.boot.failed = x.i :: s.boot.failed ∧ (s.regs.capStacks.getLsbD (x.i / 8) = true → x.i / 8 ∈ t.boot.retiring) ∧ t.mem = s.mem ∧ (∀ cx, aget t.ctxs cx = if isMemCtx cx = true ∧ memCoreOf cx = x.i then none else aget s.ctxs cx)) ∧
    (x.i < 4 → (s.die x.i).joinUp = true → (s.die x.i).groups = [] → ∃ t, exec .joinUnitFail s = .next t ∧ { t with boot := s.boot } = s.modDie x.i (fun u => { u with joinUp := false, groups := [] }) ∧
      t.boot = { s.boot with scope := s.boot.scope.map (fun _ => t.scopeTable) }) ∧
    (∀ g, x.i < 4 → (s.die x.i).joinUp = true → (s.die x.i).groups = [g] → NoneSuspended s → ∃ t, exec .joinUnitFail s = .next t ∧ (t.die x.i).joinUp = false ∧ (t.die x.i).groups = [] ∧ t.mem = s.mem ∧
      t.log.next = ((s.log.next + 1) % 2 ^ 32 + 1) % 2 ^ 32 ∧
      ∀ cx c, aget s.ctxs cx = some c → (t.ctx cx).sregs = (c.resolve g.handle (BitVec.ofNat 64 (0x6 * 2 ^ 60 + 0x50 * 2 ^ 52)) true).sregs) ∧
    (x.i < 16 → (s.cluster x.i).inService = true → s.launches = [] → s.running x.i = [] → (s.cluster x.i).yard = [] → (s.cluster x.i).cellar = [] → (s.cluster x.i).streams.ctxs = [] → (s.cluster x.i).events.queue = [] → s.rstores = [] →
      ∃ t, exec .clusterLeave s = .next t ∧ t.mem = s.mem ∧ t.ctxs = s.ctxs ∧ t.log = s.log ∧ t.boot.left = x.i :: s.boot.left ∧ (∀ n < 16, n ≠ x.i → t.cluster n = s.cluster n) ∧
        ∀ C, C = s.cluster x.i → t.cluster x.i = { pinq := C.pinq, spool := C.spool, shtb := C.shtb, shtv := C.shtv, stkaBase := C.stkaBase, stkaSlot := C.stkaSlot, sva := C.sva, celb := C.celb }) ∧
    (s.holds x.i = true → (s.ctx x.i).drain = false → exec .tableWalkEnd s = .next (s.translate (s.ctxAgent x.i) (s.ctx x.i).pc .fetch).1) ∧
    (∀ f, x.i = 0 → s.caches.fills = [f] → f.die < 4 → f.line < 2 ^ 33 → f.stream = false → s.boot.stackStop = [] → s.regs.full = true → s.caches.l1 = [] → s.caches.l1dead = [] → s.caches.l2 = [] → s.caches.home = [] →
      (∀ e p, s.frameOf e p = none) → (∀ n, (s.slice n).retired = [] ∧ (s.slice n).fcur.toNat ≤ 14 ∧ (s.slice n).moving = false) → ∃ t, exec .l2Fill s = .next t ∧ t.caches.fills = [] ∧ (aget t.caches.l2 (f.die * 2 ^ 33 + f.line)).isSome = true ∧
      (∀ core < 1024, f.core = some core → (aget t.caches.l1 (core * 2 ^ 33 + f.line)).isSome = true) ∧ t.mem = s.mem ∧ t.ctxs = s.ctxs)

/-- An encoding that decodes to nothing traps with CAUSE 0x01 and its detail; trapval holds the base word, the number of prefixes and the page (R392, R403). -/
def IllegalEncodings : Prop :=
  ∀ (s : State) (c : Cur), s.cur = .core c → s.holds c.cx = true → s.Handles c.cx → ∃ t, exec .illegalInstruction s = .next t ∧
    Trapped s t c.cx { cause := 0x01, detail := s.arg.i, val := BitVec.ofNat 64 (s.arg.w.toNat % 2 ^ 16 + s.arg.j * 2 ^ 16 + s.arg.k % 1024 * 2 ^ 20) } c.addr c.len

end Sys2Proof.Claims

namespace Sys2Proof.Claims

open Sys2Proof.Machine

/-! ## Packets from other packages (R96 to R100, R111, R120, R121, R126, R311, R442) -/

/-- The packets by OP: class, and the payload flits that each may carry (R120). -/
def packetForms : List (Nat × Nat × List Nat) :=
  [(0x01, 0, [0]), (0x02, 0, [3]), (0x03, 0, [1]), (0x04, 0, [1]), (0x05, 0, [1]), (0x06, 0, [1, 2]), (0x08, 1, [1, 2]), (0x09, 1, [0]), (0x10, 2, [1]),
   (0x11, 2, [1]), (0x12, 2, [0]), (0x13, 2, [3]), (0x14, 2, [3]), (0x15, 2, [0]), (0x16, 2, [0])]

/-- A packet to package g can leave: g lies away from this package in some dimension, every torus link of a dimension that has more than one package serves, and no quarter-link trains or is without room in its replay buffer (R28, R123, R441). -/
structure Linked (s : State) (g : Nat) : Prop where
  away : (s.firstLink s.sys.self g false).isSome = true
  up : ∀ k < 6, 1 < s.extentOf k → (s.net.link k).up = true
  room : (∀ n < 24, (s.lane n).training = false ∧ (s.lane n).replay ≤ 252) ∧ s.net.wait = []

/-- A well-formed packet of the OP, from another package of the system to this one, arrives; a packet of a flow is the next of its flow, with none held (R111, R120, R121). -/
structure Arrives (s : State) (x : EvArg) (p : Packet) (op : Nat) : Prop where
  turn : s.Happens x ∧ x.pkt = p ∧ Alive s
  sender : p.spkg ≠ s.sys.self ∧ s.knows p.spkg = true ∧ Linked s p.spkg
  here : p.dpkg = s.sys.self ∧ (p.ph = true → p.ipkg = s.sys.self)
  form : ∃ lens, (op, p.cls, lens) ∈ packetForms ∧ p.op = op ∧ p.len ∈ lens
  order : p.cls ≠ 1 → (s.flowOf p).next.toNat = p.seq ∧ (s.flowOf p).held = []

/-- One packet of class 1 answers the packet p, to the agent that sent it and under its name. -/
def Replied (s t : State) (p : Packet) (op : Nat) (ws : List Word) : Prop :=
  ∃ q, t.net.out = s.net.out ++ [q] ∧ q.op = op ∧ q.cls = 1 ∧ q.dpkg = p.spkg ∧ q.spkg = s.sys.self ∧ q.dagt = p.sagt ∧ q.sagt = p.dagt ∧ q.name = p.name ∧ q.payload = ws

/-- The line or word that a request names is in storage of this package that serves, and no page of it has moved; no line is held in an L2 with a tag to check. -/
structure Here (s : State) (p : Packet) : Prop where
  place : (p.line < s.memTop ∧ s.memTop ≤ windowBase ∧ s.boot.stackStop = [] ∧ s.moves = [] ∧ s.regs.hotbTbl = false) ∨
    (windowBase ≤ p.line ∧ p.line < windowBase + 2 ^ 30 ∧ (p.line - windowBase) / 2 ^ 26 ∉ s.boot.left)
  tags : p.tag = 0 ∧ s.caches.l2 = [] ∧ ∀ e f, s.frameOf e f = none
  clean : s.poison = []

/-- Word n of a packet's payload, as a number. -/
def word (p : Packet) (n : Nat) : Nat := (p.payload.getD n 0).toNat

/-- RDLINE answers the 16 words of the line, and one bit for each poisoned one, or those bits alone where it asks for no more; WRLINE writes the bytes that its mask selects, MERGE the bits of one word, and both are acknowledged (R96, R105, R120). -/
def RemoteLines : Prop :=
  ∀ (s : State) (x : EvArg) (p : Packet), Here s p →
    (Arrives s x p 0x01 → ∃ t, exec .rdline s = .next t ∧ Replied s t p 0x08 ((if p.use = 2 then List.replicate 16 0 else memWords s.mem 16 p.line) ++ [0]) ∧ t.mem = s.mem ∧ t.ctxs = s.ctxs) ∧
    (Arrives s x p 0x02 → word p 18 ≠ 1 → word p 19 = 0 → ∃ t, exec .wrline s = .next t ∧ Replied s t p 0x09 [] ∧ t.ctxs = s.ctxs ∧ SameOutside s t p.line 128 ∧
      ∀ j < 128, memByte t.mem (p.line + j) = if (word p 16 + word p 17 * 2 ^ 64).testBit j then BitVec.ofNat 8 (word p (j / 8) / 2 ^ (8 * (j % 8))) else memByte s.mem (p.line + j)) ∧
    (Arrives s x p 0x03 → p.payload.length ≠ 7 → word p 3 ≠ 1 → word p 4 ≠ 1 → ∀ k, k = p.line + 8 * (word p 0 % 16) → ∃ t, exec .merge s = .next t ∧ Replied s t p 0x09 [] ∧ t.ctxs = s.ctxs ∧
      t.phys k = (s.phys k &&& ~~~(p.payload.getD 1 0)) ||| (p.payload.getD 2 0 &&& p.payload.getD 1 0) ∧ SameOutside s t k 8)

/-- The new value of each integer atomic of another package, for its width, the old value, the operand and the compare value (R214). -/
def remoteAtomics : List (Nat × (Nat → Nat → Nat → Nat → Nat)) :=
  [(0, fun w old y _ => (old + y) % 2 ^ w), (1, fun _ old y _ => old &&& y), (2, fun _ old y _ => old ||| y), (3, fun _ old y _ => old ^^^ y),
   (4, fun w old y _ => if (BitVec.ofNat w y).toInt < (BitVec.ofNat w old).toInt then y else old), (5, fun w old y _ => if (BitVec.ofNat w old).toInt < (BitVec.ofNat w y).toInt then y else old),
   (6, fun _ old y _ => min old y), (7, fun _ old y _ => max old y), (8, fun _ _ y _ => y), (9, fun w old y c => if old = c % 2 ^ w then y else old)]

/-- ATOM performs an atomic on w bits of a word at its owner and answers the old value (R96, R214). -/
def RemoteAtomics : Prop :=
  ∀ row ∈ remoteAtomics, ∀ (s : State) (x : EvArg) (p : Packet) (off w old : Nat), Arrives s x p 0x04 → Here s p → s.ldfes = [] → off = word p 0 → word p 1 = row.1 → w = word p 2 → 0 < w → off + w ≤ 64 →
    word p 4 < 2 ^ w → old = (s.phys p.line).toNat / 2 ^ off % 2 ^ w → ∃ t, exec .atom s = .next t ∧ Replied s t p 0x08 [BitVec.ofNat 64 old, 0, 0, 0] ∧ t.ctxs = s.ctxs ∧ SameOutside s t p.line 8 ∧
      (t.phys p.line).toNat = (s.phys p.line).toNat - old * 2 ^ off + row.2 w old (word p 4) (word p 5) * 2 ^ off

/-- The hotness record of a frame, as a number. -/
def hotness (s : State) (frame : Nat) : Nat := memBytes s.mem 64 (s.regs.hotbBase.toNat * 2 ^ 30 + 64 * frame)

/-- HOTINC adds one to a quadrant's counter of the frame's record, saturating, and leaves the record's other bits; MVLINE asks for a move, or brings a line; DATA and ACK answer what this package has asked (R97, R98, R100, R117, R120). -/
def PacketEffects : Prop :=
  ∀ (s : State) (x : EvArg) (p : Packet),
    (Arrives s x p 0x05 → s.regs.hotbTbl = false → ∃ t, exec .hotinc s = .next t ∧ t.mem = s.mem ∧ t.ctxs = s.ctxs) ∧
    (Arrives s x p 0x05 → s.regs.hotbTbl = true → s.boot.stackStop = [] → ∀ f q, f = word p 0 % 2 ^ 24 → q = word p 1 % 10 → (hotness s f).testBit 306 = false → s.cycle - hotness s f / 2 ^ 256 % 2 ^ 48 < 2 ^ 24 →
      ∃ t, exec .hotinc s = .next t ∧ t.ctxs = s.ctxs ∧ hotness t f / 2 ^ (16 * q) % 2 ^ 16 = min 0xFFFF (hotness s f / 2 ^ (16 * q) % 2 ^ 16 + 1) ∧
        (∀ b < 512, b < 16 * q ∨ 16 * q + 16 ≤ b → (hotness t f).testBit b = (hotness s f).testBit b) ∧ SameOutside s t (s.regs.hotbBase.toNat * 2 ^ 30 + 64 * f) 64) ∧
    (Arrives s x p 0x06 → p.payload.length = 2 → s.regs.hotbTbl = true → ∃ t, exec .mvline s = .next t ∧ t.mem = s.mem ∧ t.ctxs = s.ctxs ∧
      t.moves = s.moves ++ [{ rights := { ident := BitVec.ofNat 24 p.idn }, own := s.sys.self, frame := word p 0 % 2 ^ 24, dpkg := word p 1 / 2 ^ 24 % 2 ^ 12, dframe := word p 1 % 2 ^ 24, asker := some (p.spkg, p.sagt, p.name) }]) ∧
    (Arrives s x p 0x06 → s.boot.stackStop = [] → 3 < p.payload.length → word p 0 + 128 ≤ s.memTop → p.payload.getD 17 0 = 0 → ∃ t, exec .mvline s = .next t ∧ t.ctxs = s.ctxs ∧
      (∀ k < 16, t.phys (word p 0 + 8 * k) = p.payload.getD (k + 1) 0) ∧ SameOutside s t (word p 0) 128) ∧
    (∀ f, Arrives s x p 0x08 → s.moves = [] → s.net.fwds = [f] → f.id = p.name → f.lost = false → f.resp = none → f.drop = none →
      ∃ t, exec .data s = .next t ∧ { t with net := { t.net with dieFlits := s.net.dieFlits, lanes := s.net.lanes } } = { s with net := { s.net with fwds := [{ f with resp := some p.payload }] } }) ∧
    (∀ (r : RStore) (z : Ctx), Arrives s x p 0x09 → p.dagt < 0x4A0 → s.moves = [] → s.net.fwds = [] → s.rstores = [r] → r.req = some p.name → s.ctxs = [(r.cx, z)] → z.uid = r.uid → (∀ y ∈ s.yardOf r.cx, y.2.dying = false) →
      ∃ t, exec .ack s = .next t ∧ { t with net := { t.net with dieFlits := s.net.dieFlits, lanes := s.net.lanes } } = { s with rstores := [], ctxs := [(r.cx, { z with rcount := z.rcount - 1 })] })

/-- A packet ahead of its flow is held and delivers nothing; a packet of a reserved OP, or with a LEN that its OP does not carry, is discarded with a record; one for another package goes on (R111, R121, R122, R123, R442). -/
def PacketOrder : Prop :=
  ∀ (s : State) (x : EvArg) (p : Packet), s.Happens x → x.pkt = p → Alive s → p.spkg ≠ s.sys.self → s.knows p.spkg = true →
    (p.dpkg = s.sys.self → p.ph = false → p.op = 0x02 → p.cls = 0 → p.len = 3 → ∀ f, f = s.flowOf p → 0 < (BitVec.ofNat 16 p.seq - f.next).toNat → (BitVec.ofNat 16 p.seq - f.next).toNat < 2 ^ 15 → (∀ q ∈ f.held, q.seq ≠ p.seq) →
      ∃ t, exec .wrline s = .next t ∧ { t with net := s.net } = s ∧ (t.flowOf p).held = f.held ++ [p] ∧ (t.flowOf p).next = f.next) ∧
    (p.dpkg = s.sys.self → p.ph = false → p.cls = 1 → (p.op = 0 ∨ 0x16 < p.op) → ∃ t, exec .data s = .next t ∧ t.mem = s.mem ∧ { t.net with dieFlits := s.net.dieFlits, lanes := s.net.lanes } = s.net ∧ Logged s t 0x2E 12 0 0 0 (headerHigh p)) ∧
    (p.dpkg ≠ s.sys.self → p.ph = false → p.op = 0x01 → Linked s p.dpkg → ∃ t q, exec .rdline s = .next t ∧ t.net.out = s.net.out ++ [q] ∧ { q with lane := p.lane } = p ∧ t.mem = s.mem ∧ t.ctxs = s.ctxs ∧ t.net.recv = s.net.recv)

/-! ## Migrations (R126, R311, R435) -/

/-- The destination: SOPEN takes a context where one is free, and is refused where none is; the tree's parts and the pages' lines are stored in their frames; SDONE installs and acknowledges; SDROP makes the stream live (R126, R311, R435). -/
def MigrationArrives : Prop :=
  (∀ (s : State) (x : EvArg) (p : Packet), Arrives s x p 0x10 → s.innOf p = none → s.net.out.length + s.net.gone.length < 2 ^ 15 → s.net.back = [] →
    (s.mostRoom = none → ∃ t q, exec .sopen s = .next t ∧ t.net.out = s.net.out ++ [q] ∧ q.op = 0x12 ∧ q.dpkg = p.spkg ∧ q.dagt = p.sagt ∧ t.clusters = s.clusters ∧ t.mem = s.mem ∧ t.ctxs = s.ctxs) ∧
    (∀ cl k, s.mostRoom = some cl → cl < 16 → (s.cluster cl).streams.freeSlot = some k → ∃ t q m, exec .sopen s = .next t ∧ t.net.out = s.net.out ++ [q] ∧ q.op = 0x11 ∧ q.dpkg = p.spkg ∧ q.dagt = p.sagt ∧
      (t.cluster cl).streams.inn = m :: (s.cluster cl).streams.inn ∧ m.slot = k ∧ m.pkg = p.spkg ∧ m.agent = p.sagt ∧ m.name = p.name ∧ m.installed = false ∧ q.payload = [m.ctx.id.setWidth 64] ∧ m.ctx.state = .idle ∧
      m.ctx.id = BitVec.ofNat 32 (m.ctx.gen.toNat * 2 ^ 16 + cl * 2 ^ 12 + k) ∧ t.mem = s.mem ∧ t.ctxs = s.ctxs)) ∧
  (∀ (s : State) (x : EvArg) (p : Packet) (cl a : Nat) (m : MigDst), s.innOf p = some (cl, m) → cl < 16 → (s.cluster cl).streams.inn = [m] → s.boot.stackStop = [] →
    (Arrives s x p 0x13 → aget m.nodes (word p 0 / 2 ^ 16 % 2 ^ 16) = some a → ∃ t, exec .snode s = .next t ∧ t.mem = memSetWords s.mem (a + 128 * (word p 0 % 32)) ((p.payload.drop 1).take 16) ∧ t.clusters = s.clusters ∧ t.ctxs = s.ctxs) ∧
    (Arrives s x p 0x14 → aget m.pages (word p 0 % 2 ^ 18) = some a → p.payload.getD 17 0 = 0 → ∀ b, b = a + 128 * (word p 0 / 2 ^ 20 % 2 ^ 9) → ∃ t, exec .sline s = .next t ∧
      (∀ i < 16, t.phys (b + 8 * i) = p.payload.getD (i + 1) 0) ∧ SameOutside s t b 128 ∧ t.clusters = s.clusters ∧ t.ctxs = s.ctxs) ∧
    (Arrives s x p 0x15 → ∃ t, exec .sdone s = .next t ∧ Replied s t p 0x09 [] ∧
      (t.cluster cl).streams.inn = [{ m with installed := true, since := s.cycle, ctx := { m.ctx with root := (aget m.nodes 0).getD 0 } }] ∧ t.ctxs = s.ctxs) ∧
    (Arrives s x p 0x16 → m.installed = true → ∃ t, exec .sdrop s = .next t ∧ (t.cluster cl).streams = { (s.cluster cl).streams with ctxs := aset (s.cluster cl).streams.ctxs m.slot m.ctx, inn := [] } ∧ t.mem = s.mem ∧ t.ctxs = s.ctxs))

/-- The source: SREF makes the stream IDLE again and SMIG resolves refused; SACC sends the tree, its pages and SDONE; each end that hears nothing for 2^24 cycles gives up, with a record (R126, R311, R435). -/
def MigrationLeaves : Prop :=
  (∀ (s : State) (x : EvArg) (p : Packet) (cl : Nat) (m : MigSrc) (u : StreamCtx), cl < 16 → p.dagt = 0x4A0 + cl → (s.cluster cl).streams.out = [m] → m.pkg = p.spkg → m.name = p.name → m.accepted = false → m.rights.cx < 8192 →
    aget (s.cluster cl).streams.ctxs m.slot = some u →
    (Arrives s x p 0x12 → NoneSuspended s → ∃ t, exec .sref s = .next t ∧ (t.cluster cl).streams.out = [] ∧ aget (t.cluster cl).streams.ctxs m.slot = some { u with state := .idle } ∧
      Filled s t m.handle 0x4000000000000000 false ∧ t.mem = s.mem) ∧
    (Arrives s x p 0x11 → s.rstores = [] → s.boot.stackStop = [] → s.badTree u.root = none → ∃ t, exec .sacc s = .next t ∧
      (t.net.out ++ t.net.wait ++ t.net.back).countP (fun q => q.op == 0x15 && q.dpkg == p.spkg) = (s.net.out ++ s.net.wait ++ s.net.back).countP (fun q => q.op == 0x15 && q.dpkg == p.spkg) + 1 ∧ t.mem = s.mem ∧ t.ctxs = s.ctxs ∧
      (t.cluster cl).streams.out = [{ m with accepted := true, newId := (p.payload.getD 0 0).setWidth 32, sent := s.cycle }])) ∧
  (∀ (s : State) (x : EvArg) (m : MigSrc) (u : StreamCtx), s.Happens x → x.i < 16 → x.j = 0 → (s.cluster x.i).streams.out = [m] → m.acked = false → m.sent + 2 ^ 24 ≤ s.cycle → m.rights.cx < 8192 → NoneSuspended s → aget (s.cluster x.i).streams.ctxs m.slot = some u →
    ∃ t, exec .smigSourceTimeout s = .next t ∧ (t.cluster x.i).streams.out = [] ∧ aget (t.cluster x.i).streams.ctxs m.slot = some { u with state := .idle } ∧ t.mem = s.mem ∧
      ∀ cx z, aget s.ctxs cx = some z → (t.ctx cx).sregs = z.sregs.map (fun r => if r.full = false ∧ r.val = m.handle then { val := BitVec.ofNat 64 (0x4 * 2 ^ 60 + 0x31 * 2 ^ 52 + u.id.toNat), full := true, fail := true } else r)) ∧
  (∀ (s : State) (x : EvArg) (m : MigDst), s.Happens x → x.i < 16 → x.j = 0 → (s.cluster x.i).streams.inn = [m] → m.installed = true → m.since + 2 ^ 24 ≤ s.cycle → m.pages = [] → m.nodes = [] →
    ∃ t, exec .smigDestTimeout s = .next t ∧ (t.cluster x.i).streams.inn = [] ∧ t.mem = s.mem ∧ Logged s t 0x2F 9 x.i m.ctx.ident.toNat 0 (m.ctx.id.setWidth 64))

/-! ## Owners lost (R386, R414) -/

/-- A forwarded request without an answer for 2^24 cycles ends with its data lost, and a store with its counter lowered and nothing written, each with a record; a package that leaves takes its translations and its flows with it (R386, R414). -/
def OwnersLost : Prop :=
  (∀ (s : State) (x : EvArg) (f : Fwd), s.Happens x → x.i = 0 → x.j = 0 → s.net.fwds = [f] → f.resp = none → f.lost = false → f.drop = none → f.sent + 2 ^ 24 ≤ s.cycle → f.cx < 8192 →
    ∃ t, exec .ownerLostTimeout s = .next t ∧ t.net = { s.net with fwds := [{ f with lost := true }] } ∧ t.mem = s.mem ∧ Logged s t 0x27 0 f.cx 0 (BitVec.ofNat 64 f.line) 0) ∧
  (∀ (s : State) (x : EvArg) (r : RStore) (z : Ctx), s.Happens x → x.i = 0 → x.j = 1 → s.rstores = [r] → r.req.isSome = true → r.sent + 2 ^ 24 ≤ s.cycle → s.ctxs = [(r.cx, z)] → z.uid = r.uid → r.cx < 8192 → (∀ y ∈ s.yardOf r.cx, y.2.dying = false) →
    ∃ t, exec .ownerLostTimeout s = .next t ∧ t.rstores = [] ∧ (t.ctx r.cx).rcount = z.rcount - 1 ∧ t.mem = s.mem ∧ Logged s t 0x27 0 r.cx 0 (BitVec.ofNat 64 r.key) r.addr) ∧
  (∀ (s : State) (x : EvArg) (pos : Nat × Nat × Nat), s.Happens x → x.i ≠ s.sys.self → aget s.sys.others x.i = some pos → s.net.fwds = [] → s.rstores = [] → s.moves = [] → (∀ cl < 16, (s.cluster cl).streams.out = [] ∧ (s.cluster cl).streams.inn = []) → s.net.back = [] →
    ∃ t, exec .packageLeave s = .next t ∧ t.boot.scope = s.boot.scope.map (fun _ => t.scopeTable) ∧ { t with boot := s.boot } = { s with sys := { s.sys with others := adel s.sys.others x.i, gone := aset s.sys.gone x.i pos }, caches := { s.caches with tlbs := s.caches.tlbs.map (fun (t : Nat × List TlbEntry) => (t.1, t.2.filter (fun e => e.own != x.i))) }, ldfes := s.ldfes.filter (fun e => match e.req with | some p => p.spkg != x.i | none => true), net := { s.net with sent := s.net.sent.filter (fun f => f.dst != x.i), recv := s.net.recv.filter (fun f => f.src / 2 ^ 11 != x.i), gone := s.net.gone.filter (fun p => p.dpkg != x.i) } })

end Sys2Proof.Claims

namespace Sys2Proof.Claims

open Sys2Proof.Machine

/-! ## Encodings (R152 to R167, R342) -/

/-- Words that the manual writes out, each with the instruction that it names (R43, R157, R163, R165, R178, R190 to R202, R382). -/
def writtenWords : List (List IWord × Instr) :=
  [([0xE340], .mov { d := 3, a := 4 }), ([0xE00B], .nop), ([0xF060, 0x05D5], .add { d := 5, a := 61, b := 5 }),
   ([0xF100, 0xF6EE, 0x7890], .li { d := 40, imm := BitVec.ofInt 64 (-70000) }),
   ([0xF809, 0xFC4D, 0xFE70, 0x3456], .vfma { d := 4, a := 5, b := 6, mask := 9, zm := true, rnd := 1, e := 7 }),
   ([0xF403, 0xF806, 0x0343], .ldf { d := 3, a := 4, f := 3, imm := 3 }), ([0xF7FF, 0xF804, 0x1566], .bne { a := 5, b := 6, imm := BitVec.ofInt 64 (-10) }),
   ([0xF028, 0xF801, 0x2945], .mulhn { d := 9, a := 20, b := 21 }), ([0xF804, 0x9603], .csrw { a := 6, imm := 3 }), ([0xF804, 0x7603], .loop { a := 6, imm := 3 }),
   ([0xF2A0, 0xF805, 0x1456], .range { d := 4, a := 5, b := 6, c := 20 }), ([0xF805, 0x4A90], .kwait { d := 10, a := 9 }), ([0xF811, 0x6567], .pgmov { d := 5, a := 6, b := 7 }),
   ([0xF811, 0x0060], .tlbinvGpage { a := 6 })]

/-- Each written word decodes to its instruction, in its full length, and is that instruction's encoding. -/
def WrittenWords : Prop :=
  ∀ row ∈ writtenWords, decode row.1 = .ok row.2 row.1.length ∧ encode row.2 = some row.1

/-- The instructions that share one word, their action standing in an operand: the one that the decoder names (R256, R301, R382, R405; log 12). -/
def named : Instr → Instr
  | .mmapFree o => .mmapAllocate o
  | .smapShare o => .smapFresh o
  | .smapUnmap o => .smapFresh o
  | .smapFrame o => .smapFresh o
  | .ctxloadKill o => .ctxloadRelease o
  | .cldrainResume o => .cldrainDrain o
  | .cldrainWipe o => .cldrainDrain o
  | i => i

/-- The micro-instructions of R342, with the fields that some of them have. -/
def micros (m : Micro) : List Instr :=
  [.msink m, .mpage m, .mqk, .mmask, .mmax, .mexp, .msum, .mscl, .mpv, .mchk, .mloop m, .mbr m, .mnorm, .mout, .mwait m, .mset m, .madd m, .mend]

/-- The events of the device: they have no words. -/
def deviceEvents : List Instr :=
  [.doorbell, .chainEnable, .chainStop, .registerWrite, .pkgmodeFullWrite, .fullServiceReady, .stackRetire, .stackRetireDone, .commandNop, .commandLaunch, .commandWait, .waitRelease, .dispatcherTakeLaunch, .taskCreate, .yardGive, .resumeCounterDrain, .preempt, .priorityAge, .workRequest, .cellarRefill, .plumbTokenSend, .plumbTokenForward, .remoteStoreAck, .watchdog, .kwaitComplete, .waitiTimeout, .sleepEnd, .yieldEligible, .tableWalkEnd, .l2Fill] ++
  [.cowWalk, .herdCloseTimeout, .joinResolve, .streamOpResolve, .copyStart, .copyResolve, .mcastResolve, .tilePlace, .tileTaskDispatch, .rowSegmentWrite, .tileTaskEnd, .pinResolve, .pgmovLineMove, .pgmovResolve, .masonJobStart, .eventIntegrate, .eventCellarRefill, .tickEnd, .eventOpResolve, .domainStall, .cldrainComplete, .carveoutSample, .carveoutLimitMove, .l2WayMoveEnd, .routeWindowEnd, .rdline, .wrline, .merge, .atom, .hotinc] ++
  [.mvline, .data, .ack, .sopen, .sacc, .sref, .snode, .sline, .sdone, .sdrop, .flitReplay, .flitAck, .linkRetrainEnd, .ownerLostTimeout, .packageLeave, .smigSourceTimeout, .smigDestTimeout, .powerOnReset, .serviceFirmwareImage, .clusterSelfTestEnd, .memoryCoreFirmwareImage, .stackTrainEnd, .linkTrainEnd, .calibrationEnd, .wipeEnd, .lifecycleChange, .mcFirmwareUpdate, .mcFirmwareStart, .throttle, .throttleEnd] ++
  [.thermalShutdown, .scrub, .clusterLeave, .memoryCoreFail, .joinUnitFail, .illegalInstruction, .hostPortWrite, .porvaPortLoss, .powerOff, .minverRaise, .copyUnitWrite, .multicastDelivery, .pinLine]

/-- Every well-formed instruction that is no micro-instruction and no event has one to five words, and every well-formed micro-instruction a control-store word; decoding them gives the instruction back, with every operand and
in the number of its words. Of the instructions that share one word, whose action stands in an operand, the decoder names the first (log 12). -/
def RoundTrip : Prop :=
  (∀ (i : Instr) (ws : List IWord), i.wellFormed = true → encode i = some ws → decode ws = .ok (named i) ws.length) ∧
  (∀ (i : Instr) (w : Word), i.wellFormed = true → encodeMicro i = some w → decodeMicro w = some i) ∧
  (∀ i : Instr, i.wellFormed = true → i ∉ deviceEvents → (∀ m, i ∉ micros m) → ∃ ws, encode i = some ws ∧ 1 ≤ ws.length ∧ ws.length ≤ 5) ∧
  (∀ (m : Micro), ∀ i ∈ micros m, i.wellFormed = true → ∃ w, encodeMicro i = some w)

/-- A fifth prefix word, a second word of one sub-kind, an unassigned page, PV words outside pages 9 to 13, and two PI words on page 7 are reserved, with detail 2 (R160, R163, R403). -/
def ReservedChains : Prop :=
  (∀ (a b c d e : IWord) (ws : List IWord), (∀ w ∈ [a, b, c, d, e], isPrefixWord w = true) → ∃ x, decode (a :: b :: c :: d :: e :: ws) = .illegal x ∧ x.detail = 2 ∧ x.base = e ∧ x.npre = 4) ∧
  (∀ (p q : BitVec 10) (w : IWord) (ws : List IWord), isPrefixWord w = false → ∃ x, decode ((15#4 ++ 2#2 ++ p) :: (15#4 ++ 2#2 ++ q) :: w :: ws) = .illegal x ∧ x.detail = 2 ∧ x.base = w ∧ x.npre = 2) ∧
  (∀ (p q : BitVec 9) (w : IWord) (ws : List IWord), isPrefixWord w = false → ∃ x, decode ((15#4 ++ 0#3 ++ p) :: (15#4 ++ 0#3 ++ q) :: w :: ws) = .illegal x ∧ x.detail = 2) ∧
  (∀ (p : BitVec 10) (w : IWord) (ws : List IWord), isPrefixWord w = false → p = 0 ∨ 17 < p.toNat → ∃ x, decode ((15#4 ++ 2#2 ++ p) :: w :: ws) = .illegal x ∧ x.detail = 2 ∧ x.page = p.toNat) ∧
  (∀ (p : BitVec 10) (v : BitVec 9) (w : IWord) (ws : List IWord), isPrefixWord w = false → 1 ≤ p.toNat → p.toNat ≤ 17 → ¬ (9 ≤ p.toNat ∧ p.toNat ≤ 13) → ∃ x, decode ((15#4 ++ 2#2 ++ p) :: (15#4 ++ 6#3 ++ v) :: w :: ws) = .illegal x ∧ x.detail = 2) ∧
  (∀ (a b : BitVec 10) (w : IWord) (ws : List IWord), isPrefixWord w = false → ∃ x, decode ((15#4 ++ 1#2 ++ a) :: (15#4 ++ 1#2 ++ b) :: (15#4 ++ 2#2 ++ 7#10) :: w :: ws) = .illegal x ∧ x.detail = 2)

/-! ## The step (R43, R53, R152; log 2) -/

/-- Do these words name a page of the vector pipe (R58, R226)? -/
def inVectorPipe (ws : List IWord) : Bool := decide (9 ≤ (pageOf ws).1 ∧ (pageOf ws).1 ≤ 11)

/-- The state in which the next turn on the agenda has been taken from it. -/
def turnTaken (s : State) (ts : List Turn) : State := { s with agenda := ts }

/-- A result that has ended its turn: time passes. -/
def ended : Result → Result
  | .next t => .next t.tick
  | r => r

/-- Context cx takes a turn: it holds a task, its saved remote-store counter has drained, and a memory core's is in service (R60, R281, R384). -/
structure Turns (s : State) (cx : Nat) : Prop where
  task : s.holds cx = true ∧ (s.ctx cx).drain = false
  core : 8192 ≤ cx → (s.mcore ((cx - 8192) / 8)).inService = true

/-- The state in which context cx runs the instruction that these words are, with its address, its length, its page and its base word noted. -/
def runs (s : State) (cx : Nat) (ws : List IWord) : State :=
  { s with cur := .core { cx := cx, addr := (s.ctx cx).pc, len := ws.length, base := (pageOf ws).2, page := (pageOf ws).1 } }

/-- The instruction waits: its context has a wait record, and is stopped by no WAITI or SLEEP that it has issued. -/
def Waited (cx : Nat) (r : Result) : Prop := ∃ t, r = .next t ∧ (t.ctx cx).wait.isSome = true ∧ (t.ctx cx).pause = .none

/-- The turn of context cx, whose instruction, run now, gives r: one that waits, or that ends a WAITI or a SLEEP, does not use its pipe; any other issues in it, where it is free in this cycle and no context goes first, and leaves it used (R58; log 99). -/
structure TurnOf (s : State) (cx : Nat) (ws : List IWord) (r out : Result) : Prop where
  waits : (s.ctx cx).pause ≠ .none ∨ Waited cx r → out = ended r
  next : ∀ t, r = .next t → (s.ctx cx).pause = .none → ¬ Waited cx r → s.mayIssue cx (inVectorPipe ws) = true → out = .next (t.useCycle cx (inVectorPipe ws)).tick
  stops : (∀ t, r ≠ .next t) → s.mayIssue cx (inVectorPipe ws) = true → out = r
  later : (s.ctx cx).pause = .none → ¬ Waited cx r → s.mayIssue cx (inVectorPipe ws) = false → out = .next s.tick

/-- The words at the pc that decode to an instruction run it: the step is exec of it at the state with its address noted, as its pipe and the wait allow, and then time passes. -/
def StepRunsTheDecodedInstruction : Prop :=
  ∀ (s s' : State) (cx : Nat) (ts : List Turn) (ws : List IWord) (i : Instr) (n : Nat), s.agenda = .issue cx :: ts → Turns s cx →
    State.fetchWords cx 5 (turnTaken s ts) (s.ctx cx).pc [] = .words s' ws → decode ws = .ok i n → TurnOf s' cx ws (exec i (runs s' cx ws)) (step s)

/-- The other turns: a reserved encoding takes the illegal-instruction trap, a fetch that faults traps, one that waits leaves the context waiting, a mason runs its micro-instruction, an event happens with its operands, and a context
that takes no turn does nothing. -/
def StepTakesItsTurn : Prop :=
  ∀ (s : State) (ts : List Turn),
    (∀ cx s' ws x, s.agenda = .issue cx :: ts → Turns s cx → State.fetchWords cx 5 (turnTaken s ts) (s.ctx cx).pc [] = .words s' ws → decode ws = .illegal x →
      TurnOf s' cx ws (exec .illegalInstruction { runs s' cx ws with arg := { i := x.detail, j := x.npre, k := x.page, w := x.base.setWidth 64 } }) (step s)) ∧
    (∀ cx s' k, s.agenda = .issue cx :: ts → Turns s cx → State.fetchWords cx 5 (turnTaken s ts) (s.ctx cx).pc [] = .bad s' k → s'.Handles cx → s'.holds cx = true → ∃ u : State, step s = .next u.tick ∧ Trapped s' u cx k (s'.ctx cx).pc 0) ∧
    (∀ cx s', s.agenda = .issue cx :: ts → Turns s cx → State.fetchWords cx 5 (turnTaken s ts) (s.ctx cx).pc [] = .wait s' → s'.holds cx = true → ∃ u : State, step s = .next u.tick ∧ (u.ctx cx).wait.isSome = true ∧
      { u with ctxs := s'.ctxs } = s' ∧ ∀ k, k ≠ cx → aget u.ctxs k = aget s'.ctxs k) ∧
    (∀ cx, s.agenda = .issue cx :: ts → ¬ Turns s cx → step s = .next (turnTaken s ts).tick) ∧
    (∀ cl i, cl < 16 → s.agenda = .mason cl :: ts → (turnTaken s ts).masonTurn cl = .run i → step s = ended (exec i { turnTaken s ts with cur := .mason cl })) ∧
    (∀ i x, s.agenda = .event i x :: ts → rowOf? i = none → encodeMicro i = none → step s = ended (exec i { turnTaken s ts with cur := .event, arg := x }))

/-- Time passes at the end of a step, and nothing runs: a number of cycles that the model leaves free (log 3) goes by, which contexts are ready is noted, and of the event counters only those of cycles without an issue count (R58, R407). -/
def TimePasses : Prop :=
  ∀ s : State, s.tick.cycle = s.cycle + Config.elapsed s.fresh ∧ s.tick.fresh = s.fresh + 1 ∧ s.tick.cur = .none ∧
    { s.tick with ctxs := s.ctxs, perf := s.perf, cycle := s.cycle, fresh := s.fresh, cur := s.cur, arg := s.arg } = s ∧
    (∀ cx, (aget s.ctxs cx).isSome = (aget s.tick.ctxs cx).isSome) ∧ (∀ cx z y, aget s.ctxs cx = some z → aget s.tick.ctxs cx = some y → { y with ready := z.ready, turned := z.turned } = z) ∧
    (∀ n, n % 8 ≠ 1 → aget s.tick.perf n = aget s.perf n)

/-- The word fetched at a bit address of global space is the two bytes, least significant first, that its translation names in this package's memory (R6, R152, R190). -/
def FetchReadsMemory : Prop :=
  ∀ (s s' : State) (cx : Nat) (a : Word) (e : TlbEntry) (b : Nat), a.getLsbD 63 = false → a.getLsbD 62 = false → a.toNat % 16 = 0 → s.translate (s.ctxAgent cx) a .fetch = (s', .found e) → e.own = s'.sys.self →
    s'.moves = [] → s'.regs.hotbTbl = false → s'.poison = [] → s'.boot.stackStop = [] → e.frame % 8 = 0 → 3 ≤ e.size → e.size ≤ 57 → b = e.frame + a.toNat / 8 % 2 ^ e.size → b < s'.memTop →
    ∃ t, t.mem = s'.mem ∧ t.ctxs = s'.ctxs ∧ s.fetchWord cx a = .word t (BitVec.ofNat 16 ((memByte s'.mem b).toNat + 256 * (memByte s'.mem (b + 1)).toNat))

/-! ## Reset, and what every step keeps (R7, R376, R381) -/

/-- What stands after reset where the manual gives a value: no task, no memory but what the wipe leaves, every granule full, service in the SRAM alone, and the registers whose maps give a reset value. -/
def ResetState : Prop :=
  ∀ s : State, s = State.reset → s.ctxs = [] ∧ s.mem = [] ∧ s.poison = [] ∧ s.regs.full = false ∧ s.regs.cal = false ∧ s.regs.capStacks = 0 ∧ s.regs.gvtbEn = false ∧ s.regs.routeThr = 0x18 ∧ s.regs.routeLast = 0x10 ∧
    s.regs.routeEn = true ∧ s.regs.routeForce = false ∧ s.regs.hotbEn = false ∧ s.regs.retEn = false ∧ s.boot.stage = .rom ∧ s.boot.wiping = true ∧
    (∀ n < 16, (s.chain n).en = false ∧ (s.chain n).head = 0 ∧ (s.chain n).tail = 0) ∧ (∀ c < 16, (s.cluster c).inService = false ∧ (s.cluster c).yard = []) ∧
    (∀ d < 4, (s.die d).frz = false ∧ (s.die d).fmax = 0 ∧ (s.die d).fmin = 0) ∧ (∀ g < 2 ^ 26, s.granFull g = true)

/-- Memory is in its canonical form after every step from a state where it is. -/
def MemoryStaysCanonical : Prop := ∀ s t : State, s.memoryOk = true → step s = .next t → t.memoryOk = true

/-- Memory is in its canonical form after reset. -/
def MemoryCanonicalAtReset : Prop := State.reset.memoryOk = true

end Sys2Proof.Claims

namespace Sys2Proof.Claims

open Sys2Proof.Machine

/-- R165: the operations of UN by f4, with registers 0 to 15 from the base word alone; values 12 to 15 are reserved. -/
def UnTakesItsOperationFromF4 : Prop :=
  ∀ (d a : BitVec 4) (x y : BitVec 6), x = d.setWidth 6 → y = a.setWidth 6 →
    decode [14#4 ++ d ++ a ++ 0#4] = .ok (.mov { d := x, a := y }) 1 ∧ decode [14#4 ++ d ++ a ++ 1#4] = .ok (.not { d := x, a := y }) 1 ∧
    decode [14#4 ++ d ++ a ++ 2#4] = .ok (.neg { d := x, a := y }) 1 ∧ decode [14#4 ++ d ++ a ++ 3#4] = .ok (.abs { d := x, a := y }) 1 ∧
    decode [14#4 ++ d ++ a ++ 4#4] = .ok (.clz { d := x, a := y }) 1 ∧ decode [14#4 ++ d ++ a ++ 5#4] = .ok (.ctz { d := x, a := y }) 1 ∧
    decode [14#4 ++ d ++ a ++ 6#4] = .ok (.popc { d := x, a := y }) 1 ∧ decode [14#4 ++ d ++ a ++ 7#4] = .ok (.brev { d := x, a := y }) 1 ∧
    decode [14#4 ++ 0#4 ++ a ++ 8#4] = .ok (.jr { a := y }) 1 ∧ decode [14#4 ++ d ++ a ++ 9#4] = .ok (.jalr { d := x, a := y }) 1 ∧
    decode [0xE00A] = .ok .ret 1 ∧ decode [0xE00B] = .ok .nop 1 ∧ decode [0xE340] = .ok (.mov { d := 3, a := 4 }) 1 ∧
    (∀ k : BitVec 4, 12 ≤ k.toNat → ∃ x, decode [14#4 ++ d ++ a ++ k] = .illegal x)

/-- R160: the page that PO names, page 0 without it; each of the pages 1 to 17 has instructions, and any other value of PO is reserved. -/
def PoNamesThePage : Prop :=
  (∀ (w : IWord) (ws : List IWord) (i : Instr) (n : Nat), isPrefixWord w = false → decode (w :: ws) = .ok i n → ∃ r o, rowOf? i = some (r, o) ∧ r.page = 0) ∧
  (∀ (p : BitVec 10) (w : IWord) (ws : List IWord), isPrefixWord w = false →
    (∀ i n, decode ((15#4 ++ 2#2 ++ p) :: w :: ws) = .ok i n → ∃ r o, rowOf? i = some (r, o) ∧ r.page = p.toNat) ∧
    (p = 0 ∨ 18 ≤ p.toNat → ∃ x, decode ((15#4 ++ 2#2 ++ p) :: w :: ws) = .illegal x)) ∧
  (∀ p : BitVec 10, 1 ≤ p.toNat → p.toNat ≤ 17 → ∃ w i, decode [15#4 ++ 2#2 ++ p, w] = .ok i 2)

/-- R186: BY2B, BB2Y and ADDPC, each with its word: page 3, majors 5, 6 and 11; the immediate of ADDPC is extended by its sign. -/
def AddressConversions : Prop :=
  (∀ (d a : BitVec 4), decode [0xF803, 5#4 ++ d ++ a ++ 0#4] = .ok (.by2b { d := d.setWidth 6, a := a.setWidth 6 }) 2 ∧
    decode [0xF803, 6#4 ++ d ++ a ++ 0#4] = .ok (.bb2y { d := d.setWidth 6, a := a.setWidth 6 }) 2) ∧
  (∀ (d : BitVec 4) (k : BitVec 8), decode [0xF803, 11#4 ++ d ++ k] = .ok (.addpc { d := d.setWidth 6, imm := k.signExtend 64 }) 2) ∧
  (∀ (o : Ops) (s : State) (c : Cur), s.Runs c [o.a] → ∃ t, exec (.by2b o) s = .next t ∧ WroteS s t c o.d ((s.ctx c.cx).readS o.a * 8) 0 false) ∧
  (∀ (o : Ops) (s : State) (c : Cur), s.Runs c [o.a] → ∃ t, exec (.bb2y o) s = .next t ∧ WroteS s t c o.d (BitVec.ofNat 64 (((s.ctx c.cx).readS o.a).toNat / 8)) 0 false) ∧
  (∀ (o : Ops) (s : State) (c : Cur), s.Runs c [] → ∃ t, exec (.addpc o) s = .next t ∧ WroteS s t c o.d (c.addr + 16 * o.imm) 0 false)

/-- R43: the interval of a range task and its indices; RANGE with an empty interval makes a task whose first RNEXT returns all ones. -/
def RangeTasks : Prop :=
  (∀ (o : Ops) (s : State) (c : Cur) (r : RangeRec), s.Runs c [] → (s.ctx c.cx).range = some r → ∃ t, exec (.rnext o) s = .next t ∧ SameElse s t c.cx ∧
    (r.cur.toNat < r.hi.toNat → Did s t c true (fun x => ({ x with range := some { r with cur := r.cur + 1 } } : Ctx).writeS o.d r.cur)) ∧
    (r.hi.toNat ≤ r.cur.toNat → Did s t c true (fun x => x.writeS o.d 0xFFFFFFFFFFFFFFFF) ∧ (t.ctx c.cx).range = some r)) ∧
  (∀ (o : Ops) (s : State) (c : Cur) (k : Nat), s.Runs c [o.a, o.b, o.c, o.c + 1, o.d] → (s.ctx c.cx).rcount = 0 → CanSplit s c.cx → NewRecord s c.cx k →
    ((s.ctx c.cx).readS (o.c + 1)).toNat ≤ ((s.ctx c.cx).readS o.c).toNat →
    ∃ t r y g, exec (.range o) s = .next t ∧ aget (t.yardOf c.cx) k = some r ∧ r.place = .fresh y ∧ y.range = some g ∧ g.cur = (s.ctx c.cx).readS o.c ∧ g.hi = (s.ctx c.cx).readS (o.c + 1) ∧
      ∀ (o' : Ops) (u : State) (e : Cur), u.Runs e [] → (u.ctx e.cx).range = some g → ∃ v, exec (.rnext o') u = .next v ∧ Did u v e true (fun x => x.writeS o'.d 0xFFFFFFFFFFFFFFFF))

end Sys2Proof.Claims

namespace Sys2Proof.Claims

open Sys2Proof.Machine

/-! ## Forms that complete (R192, R199 to R202, R207, R208, R210, R211) -/

/-- The numbers of the CSRs, and those that user mode writes with no effect but on the CSR (R169). -/
def csrNumbers : List Nat := [0, 1, 2, 3, 4, 5, 6, 7, 8, 9, 10, 11, 12, 13, 14, 16, 17, 18, 19]
def userCsrs : List Nat := [0, 1, 2, 3, 4, 5, 6, 7, 10]

/-- CSRR of every assigned number completes in both modes and writes d alone; CSRW of a number that user mode may write completes, and changes no register; BARV
of a task that no launch made gives its own vote; YIELD gives the context up (R192, R199, R200). -/
def SystemFormsComplete : Prop :=
  ∀ (o : Ops) (s : State) (c : Cur),
    (s.Runs c [] → o.imm.toNat ∈ csrNumbers → ∃ v t, exec (.csrr o) s = .next t ∧ WroteS s t c o.d v 0 false) ∧
    (s.Runs c [o.a] → o.imm.toNat ∈ userCsrs → c.addr ≠ (s.ctx c.cx).csrs.lend → ∃ t, exec (.csrw o) s = .next t ∧ (t.ctx c.cx).sregs = (s.ctx c.cx).sregs ∧
      (t.ctx c.cx).pc = c.addr + BitVec.ofNat 64 (16 * c.len) ∧ SameElse s t c.cx) ∧
    (s.Runs c [o.a] → (s.recOf c.cx).launch = none → ∃ t, exec (.barv o) s = .next t ∧ WroteS s t c o.d ((s.ctx c.cx).readS o.a) 0 true) ∧
    (s.Runs c [] → c.cx < 8192 → (aget (s.yardOf c.cx) (s.ctx c.cx).yr).isSome = true → s.boot.stackStop = [] → ∃ t, exec (.yield o) s = .next t ∧ t.holds c.cx = false)

/-- FWAIT, FTEST, FHND and FCANCEL of a full register that has not failed complete: they give its value, 1, 0 and 0 (R201). -/
def FutureFormsComplete : Prop :=
  ∀ (o : Ops) (s : State) (c : Cur), s.Runs c [o.a] →
    (∃ t, exec (.fwait o) s = .next t ∧ WroteS s t c o.d ((s.ctx c.cx).readS o.a) 0 false) ∧
    (∃ t, exec (.ftest o) s = .next t ∧ WroteS s t c o.d 1 0 false) ∧
    (∃ t, exec (.fhnd o) s = .next t ∧ WroteS s t c o.d 0 0 false) ∧
    (∃ t, exec (.fcancel o) s = .next t ∧ WroteS s t c o.d 0 0 true)

/-- The fences complete with no remote store outstanding; PREF completes on every address, and CFLUSH and CINV of a window's address, with no effect (R210, R211); LDFE
of a full granule of a window gives its bits, and STFE to a granule of the core's own window completes (R207, R208). -/
def MemoryFormsComplete : Prop :=
  ∀ (o : Ops) (s : State) (c : Cur),
    (s.Runs c [] → (s.ctx c.cx).rcount = 0 → ∀ i ∈ ([.fenceAcq, .fenceRel, .fenceAcqrel, .fenceSc, .fenceRdrain] : List (Ops → Instr)),
      ∃ t, exec (i o) s = .next t ∧ WentOn s t c false ∧ SameElse s t c.cx) ∧
    (s.Runs c [o.a] → ∃ t, exec (.pref o) s = .next t ∧ (t.ctx c.cx).sregs = (s.ctx c.cx).sregs ∧ (t.ctx c.cx).pc = (s.ctx c.cx).pcAfter c.addr c.len ∧ (s.poison = [] → WentOn s t c false)) ∧
    (s.Runs c [o.a] → Quiet s c.cx → ∀ a, a = addressOf (s.ctx c.cx) o (classWidth o.f.toNat) → InWindows s c.cx a 1 → winOf a ≠ 3 →
      ∀ i ∈ ([.cflush, .cinv] : List (Ops → Instr)), ∃ t, exec (i o) s = .next t ∧ WentOn s t c false ∧ SameElse s t c.cx) ∧
    (s.Runs c [o.a] → Quiet s c.cx → o.f.toNat % 4 < 3 → ∀ a w, w = 16 * 2 ^ (o.f.toNat % 4) → a = addressOf (s.ctx c.cx) o w → InWindows s c.cx a w → winOf a ≠ 3 →
      a.toNat % 64 + w ≤ 64 → s.granFull (granuleAt a) = true → ∃ v t, exec (.ldfe o) s = .next t ∧ ReadsAs s a w v ∧ (t.ctx c.cx).readS o.d = if o.d = 0 then 0 else BitVec.ofNat 64 v) ∧
    (s.Runs c [o.a, o.d] → Quiet s c.cx → (s.ctx c.cx).rcount = 0 → ∀ a, a = addressOf (s.ctx c.cx) o 64 → a.extractLsb' 0 6 = 0 → InOwnWindows s c.cx a 64 → winOf a ≠ 3 →
      ∃ t, exec (.stfe o) s = .next t ∧ (∀ i < 64, bitAt t (a + BitVec.ofNat 64 i) = ((s.ctx c.cx).readS o.d).getLsbD i) ∧ t.granFull (granuleAt a) = true)

end Sys2Proof.Claims

/-- R179: ADD, SUB, AND, OR, XOR, the multiplies, the minima and maxima, the shifts, ROR and the comparisons write their result
of S[a] and S[b] to S[d], raise no flag and change nothing else. R130, R179: DIV, DIVN, REM and REMN. R180: ADDI, the shifts
by an immediate, ANDI, ORI, XORI and SLTI; LI writes its immediate; LIH writes its immediate above the low half of d. R181,
R182, R185, R186: the operations on one register, and those that also read d; SEXT writes the number that the low w bits of
S[a] are. R181: CLZ and CTZ count the zero bits above and below the one bits, POPC the one bits, and BREV reverses. R182:
BEXT packs the bits of S[a] at the positions set in S[b] into the low bits in ascending order, the other bits being 0; BDEP
places the low bits of S[a] at those positions in ascending order, the other bits being 0. R182, R183, R186: SEL chooses by
S[c], with S[c] of s0 choosing S[b]; ADDPC adds 16 × imm to the address of the instruction; WFLD writes field j of the work
identifier, from the CSR wid where a = 0: bits o to o + fw(j) − 1 of it, no higher than bit 63, o being the sum of the widths
before j, each at most 64. R185: the result word of BCHK: the space of the address, natural alignment, and whether the access
lies in one granule. R187: BMKL's address, field by field. R63, R68, R188: BCORE reads the core, in-core offset, package and
window of an address in range; BPLC writes its blocked or its interleaved address; every other address gives all ones. -/
def Obligations.IntegerArithmetic : Prop :=
  Sys2Proof.Claims.RegisterOperationsWriteTheirResult ∧ Sys2Proof.Claims.DivisionsTruncateAndFlagZeroDivisors ∧ Sys2Proof.Claims.ImmediateFormsWriteTheirResult ∧ Sys2Proof.Claims.UnaryAndAddressOperations ∧ Sys2Proof.Claims.BitCountsAndReversal ∧ Sys2Proof.Claims.BitExtractAndDeposit ∧ Sys2Proof.Claims.SelectAndFieldExtraction ∧ Sys2Proof.Claims.AddressCheckWord ∧ Sys2Proof.Claims.WindowAddressBuilder ∧ Sys2Proof.Claims.WindowAddressReaders

/-- R189: a branch whose condition holds goes to addr + 16 × off, another goes on; none changes a register. R181, R189: J, CALL,
JR, JALR and RET; the register targets have bits [3:0] cleared, and JALR reads a before it writes d. R191: LOOP with a count
other than 0 sets lend, lbeg and lcnt and goes on at next; where it stands at the old lend, its own check lowers the new
count. With a count of 0 it goes on behind the instruction at lend. An offset below its own length is reserved. R181, R191,
R194: NOP changes nothing but the pc, with the check of the hardware loop; REGN opens a region at next with the masks S[a]
and the low 32 bits of S[b]; a register that is not live in and awaits a future abandons it, and is full and zero (log 85),
and the other registers keep their values. R193, R396, R408: WAITI completes once NTF is 1 or its time has passed, SLEEP once
its time has passed; before, the context waits at the instruction, and the time of the first issue counts. Both are region
boundaries. Parts of it rest on choices of the model, not on the manual: log 21. -/
def Obligations.ControlTransfers : Prop :=
  Sys2Proof.Claims.BranchesFollowTheirCondition ∧ Sys2Proof.Claims.JumpsAndCallsTransferControl ∧ Sys2Proof.Claims.LoopSetsUpOneLevel ∧ Sys2Proof.Claims.NopAndRegionMarks ∧ Sys2Proof.Claims.WaitiAndSleepEnd

/-- R169, R192: CSRR reads every assigned CSR, and takes the illegal-instruction trap, detail 6, for every other number. R169,
R192, R226, R251: CSRW writes the CSR as its entry says, in the mode that may, and is a region boundary; the other CSRs keep
their values but for prio, whose effective part is the base again (R58). A supervisor's write of ident brings the clearance
base of the identity with it. R192, R403: a CSRW of a number that is unassigned, or read-only in the mode, takes the
illegal-instruction trap, detail 6: in user mode every number but 0 to 7 and 0x0A, in supervisor mode cycle, ctxid and the
unassigned numbers. Parts of it rest on choices of the model, not on the manual: log 18. -/
def Obligations.Csrs : Prop :=
  Sys2Proof.Claims.CsrReads ∧ Sys2Proof.Claims.CsrWrites ∧ Sys2Proof.Claims.CsrWritesRefused

/-- R193, R393: TRAP enters the handler with cause 0x0D and its immediate as the value. R193, R393: RTT goes to trappc with bits
[3:0] cleared, in the mode that PM holds, with NEST 0, and is a region boundary; the other fields of trapctl, the other CSRs
and the registers stay. -/
def Obligations.TrapEntryAndReturn : Prop :=
  Sys2Proof.Claims.TrapEntersTheHandler ∧ Sys2Proof.Claims.RttReturns

/-- R166, R193, R389, R403: in user mode page 17, RTT and WAITI take the illegal-instruction trap, detail 4. R166, R221, R222,
R403: on a memory core pages 12 to 16 and MCAST take the illegal-instruction trap, detail 5, and on every other core MCFETCH
and MCSEND do. R157, R170, R391, R401: a source that is empty stops the register-register operations: with its trap bit the
context takes cause 0x06 with the handle, without it the context waits; a failed source takes cause 0x08 with the failure
word. R390, R392, R393: with STEP set in user mode, a NOP completes and then takes the breakpoint: cause 0x0C, trappc the
address that follows, trapval the instruction's own. Parts of it rest on choices of the model, not on the manual: log 20, 31. -/
def Obligations.InstructionsThatTrap : Prop :=
  Sys2Proof.Claims.PrivilegedInstructionsTrapInUserMode ∧ Sys2Proof.Claims.CoreKindsTrapOnEachOthersInstructions ∧ Sys2Proof.Claims.SourcesThatAreNotReadyStopTheInstruction ∧ Sys2Proof.Claims.BreakpointFollowsACompletedInstruction

/-- R42, R46, R196, R365: SPAWN and RANGE make a task in a yard record, move weight to it, and write no register. R43, R44, R197:
RNEXT of a range task returns the index and moves on, or all ones at the end; another task gets all ones. In the cycle in
which a work request has split the task it waits: the split comes after the RNEXT of its cycle. R46, R198: KSET takes the
lowest free slot of the pool, saves the task's keystone and weight there, and gives the task the new keystone with weight
2^62; with no free slot it waits. R46, R198, R202: KWAIT on the task's own keystone returns its weight; with all of it back
the parent pair returns and the keystone is free; before, the context waits with no weight. On any other value S[d] is 1 and
no weight moves; a keystone lost with its cluster gives 2 (R443). Parts of it rest on choices of the model, not on the
manual: log 19, 88. -/
def Obligations.MakingTasks : Prop :=
  Sys2Proof.Claims.SpawnAndRangeMakeATask ∧ Sys2Proof.Claims.RnextReturnsTheNextIndex ∧ Sys2Proof.Claims.KsetAllocatesAKeystone ∧ Sys2Proof.Claims.KwaitReturnsWeight

/-- R51, R199, R202: BARV of a task that no launch made gives its own vote. A launched task that joins an instance of cluster or
wider scope as the last of its launch's tasks, all others having exited, reads its own vote at once; a task whose join stands
in an instance that has completed reads that instance's result. R86, R195, R257: EXIT with no remote store outstanding ends
the task: its context is free, its pins and map slots are released, and its weight returns to its keystone; with remote
stores outstanding it waits. R55, R200, R370: YIELD completes where no stack is stopped for new memory-core firmware (R384),
and the task is in its yard again: suspended in its save area, its age 0, eligible after n × 64 cycles, its context free;
nothing else of memory changes. R55, R370: the save area that a yielding task leaves holds the pc at next and every scalar
register, all live. Parts of it rest on choices of the model, not on the manual: log 17. -/
def Obligations.TaskEnds : Prop :=
  Sys2Proof.Claims.BarvReadsTheVotes ∧ Sys2Proof.Claims.ExitEndsTheTask ∧ Sys2Proof.Claims.YieldReturnsToTheYard ∧ Sys2Proof.Claims.YieldSavesEveryRegister

/-- R170, R201, R401: FWAIT of a full register copies it, of an empty one waits whatever its trap bit, of a failed one takes
cause 0x08; FTEST and FHND never wait. R201: FCANCEL of a full register writes 0 and does nothing else; of an empty one it
writes 1, and every copy with that handle but MCAST, every matrix operation, AGO and PIN with it is asked to stop, and no
other of a cluster or memory core. -/
def Obligations.Futures : Prop :=
  Sys2Proof.Claims.FutureTests ∧ Sys2Proof.Claims.FcancelAsksTheEngineToStop

/-- CSRR of every assigned number completes in both modes and writes d alone; CSRW of a number that user mode may write
completes, and changes no register; BARV of a task that no launch made gives its own vote; YIELD gives the context up (R192,
R199, R200). FWAIT, FTEST, FHND and FCANCEL of a full register that has not failed complete: they give its value, 1, 0 and 0
(R201). Parts of it rest on choices of the model, not on the manual: log 18. -/
def Obligations.SystemAndFutureForms : Prop :=
  Sys2Proof.Claims.SystemFormsComplete ∧ Sys2Proof.Claims.FutureFormsComplete

/-- The fences complete with no remote store outstanding; PREF completes on every address, and CFLUSH and CINV of a window's
address, with no effect (R210, R211); LDFE of a full granule of a window gives its bits, and STFE to a granule of the core's
own window completes (R207, R208). Parts of it rest on choices of the model, not on the manual: log 8, 87. -/
def Obligations.MemoryForms : Prop :=
  Sys2Proof.Claims.MemoryFormsComplete

/-- Loads of a window: each bit of the result is the bit of memory at its address, whatever the alignment and the number of
granules; the pair load writes both registers; LDA needs a multiple of 64. An access that the entry for its address refuses
traps, and does nothing else: a load of an address outside the windows' range takes an address fault, cause 0x03, and so does
a store. Parts of it rest on choices of the model, not on the manual: log 8, 27, 45. -/
def Obligations.WindowReads : Prop :=
  Sys2Proof.Claims.WindowLoads ∧ Sys2Proof.Claims.WindowFaults

/-- Stores of the core's own windows W, A and C, at any bit address: the stored bits, and no other bit of memory, change. A store
of one word of another core's window retires at the issuer: memory stands, the counter of remote stores rises by one, and the
store waits in flight with its word, its bits and their values. Parts of it rest on choices of the model, not on the manual:
log 8. -/
def Obligations.WindowWrites : Prop :=
  Sys2Proof.Claims.OwnWindowStores ∧ Sys2Proof.Claims.RemoteStores

/-- Global space through an entry of the core's TLB that serves the access, for a page of this package that is not shared, tag 0
(R90, R93, R101): a load reads the word of the page's frame and changes no byte of memory; a store that the core's own die
performs (R378) writes it and no other byte. Parts of it rest on choices of the model, not on the manual: log 8, 9. -/
def Obligations.GlobalMemory : Prop :=
  Sys2Proof.Claims.GlobalAccesses

/-- LDFE of an operand within one granule of a window of this package, of any of its widths: from a full granule it reads the
bits, and with clr leaves the granule empty; on an empty one it waits there, or with trp takes cause 0x07. STFE to the core's
own window stores the word and leaves the granule full. Of either, an operand that is not within one granule of W, A or C is
misaligned, detail 1 (R76, R207, R208). LDFE that wait at one granule when it becomes full: each without clear is served, and
of those with clear the first alone, which empties it; what each is served is what it reads there then, and each completes
with it (R76, R77, R207). Parts of it rest on choices of the model, not on the manual: log 8. -/
def Obligations.FullAndEmpty : Prop :=
  Sys2Proof.Claims.FullEmptyAccesses ∧ Sys2Proof.Claims.WaitingLoads

/-- FENCE.acq completes; FENCE.rel, .acqrel and .sc complete at sc.core, and at a wider scope with no remote store outstanding,
where they otherwise wait; FENCE.rdrain does at every scope (R118, R210). PREF completes on every address and faults on none;
where a TLB entry maps the line to this package it asks for it if the fill queue of its die has room, else does nothing, and
changes no byte of memory. CFLUSH and CINV of such a line leave it written back in every die, but in a page frame, whose
lines stay; CFLUSH takes it out of no L1D, and CINV leaves it in none, and in a slice only where it is pinned or in a frame
(R106, R211). Parts of it rest on choices of the model, not on the manual: log 8, 9, 87. -/
def Obligations.FencesAndCaches : Prop :=
  Sys2Proof.Claims.Fences ∧ Sys2Proof.Claims.CacheOperations

/-- An atomic whose operand lies in one word of a window of this package: S[d] takes the old value, the operand takes the new
one, and no other bit of memory changes; it is a region boundary. CAS writes where the old value is S[c]; CAS2 acts on 128
bits at a multiple of 128 and on register pairs (R214 to R216). Parts of it rest on choices of the model, not on the manual:
log 86. -/
def Obligations.AtomicOperations : Prop :=
  Sys2Proof.Claims.Atomics

/-- Issue of the copies of a core: with operands that are not refused, a length above 0, no remote store outstanding, room in the
queue and range locks that no entry blocks, the copy joins its cluster's queue, its entries are registered, and d is its
future; a length of 0 gives 0 at once; a window operand in C or 0b011 is refused with WHY 0x01 (R217 to R219, R223, R224,
R282, R369, R428). MCFETCH and MCSEND on a memory core during full service: between windows or translated space and physical
bits below the top of memory; they take no range lock (R221, R223). MCAST from windows of this package, its destination set
in a window too: the set is read at issue, and the copy that joins the queue holds its cores; an empty set gives 0 at once
(R124, R220). Parts of it rest on choices of the model, not on the manual: log 40. -/
def Obligations.CopyIssues : Prop :=
  Sys2Proof.Claims.CopyIssue ∧ Sys2Proof.Claims.MemoryCoreCopies ∧ Sys2Proof.Claims.MulticastIssue

/-- A cluster's copy engine starts its oldest waiting operation when fewer than eight run; an operation all of whose units are
written, or one that FCANCEL has stopped, resolves with the number of bits written, DEN and CXL, and its range locks are
released (R201, R218, R223, R369). The bits that a unit of a CP in one block moves, between windows W and A of this package:
the destination bits take the source's, no other bit of memory changes but the full/empty bits of the granules that the copy
completes (R76, R218, R219); a multicast's delivery at a core writes its payload there (R124, R125). Parts of it rest on
choices of the model, not on the manual: log 41. -/
def Obligations.CopyRuns : Prop :=
  Sys2Proof.Claims.CopyEvents ∧ Sys2Proof.Claims.CopyMovesBits

/-- PIN joins the list of pins, or with a length of 0 gives 0 at once; a PIN whose lines have all been processed resolves with
the bits not pinned; UNPIN of a length of 0 releases nothing, and UNPIN of global addresses, no stack being stopped, gives
how many of its bits it released (R84 to R86, R212, R213). Parts of it rest on choices of the model, not on the manual: log
43. -/
def Obligations.Pinning : Prop :=
  Sys2Proof.Claims.Pins

/-- Integer arithmetic on elements: every active element takes the exact result modulo 2^w, or under SAT the nearest value of the
type, which raises OF where it differs; the other lanes are zeroed or left; scalars, memory and the rest stand (R129, R229,
R232, R233). Movement of lanes and logic on them: each active lane takes the lane that its entry names; VSEL takes a lane of
V[a] where the mask is set and of V[b] elsewhere; VBCAST fills every element of a lane; VEXT and VINS move one lane whatever
the mask (R232, R236, R238, R239). Compares and reductions of integer and of floating elements, and those of whole lanes: the
result goes to S[d] (R138, R149, R235, R237, R248). Parts of it rest on choices of the model, not on the manual: log 36, 37,
112. -/
def Obligations.VectorInteger : Prop :=
  Sys2Proof.Claims.VectorIntegers ∧ Sys2Proof.Claims.VectorMoves ∧ Sys2Proof.Claims.VectorCompares

/-- Floating arithmetic on elements: each active element is the exact result of the operation on the elements as read, rounded
once to the format, with its flags (R131 to R139, R232, R233), of VMIN and VMAX too, where only FZO raises any (R136, log
36); VEXP2 takes f32 (R150, R249). Of every vector instruction, a type that it does not take is illegal, detail 7 (R231,
R403). Parts of it rest on choices of the model, not on the manual: log 36. -/
def Obligations.VectorFloat : Prop :=
  Sys2Proof.Claims.VectorFloats

/-- Vector loads and stores of windows of this package, and of the core's own for stores: each active lane reads, or writes, the
bits at its address; lanes are written in ascending order, so that where addresses meet the highest lane's bits stand (R230,
R240, R241). VAOR and VAADD on integer elements in windows of this package, with no two lanes on one word: each active lane
ORs, or adds, its element into the operand at its address, and no other bit of memory changes (R242). Parts of it rest on
choices of the model, not on the manual: log 8. -/
def Obligations.VectorMemoryAccess : Prop :=
  Sys2Proof.Claims.VectorMemory ∧ Sys2Proof.Claims.VectorAtomics

/-- VCVT from any floating or integer type to any, whole or by parts: each active element takes the converted value of its source
element, with the flags of the elements written; VSETS writes a valid shape, and 0 to S[d] for another (R226, R243, R247). VQ
quantises V[a] by blocks of kb elements: the codes of a part go to V[d] and the scale bytes to V[d + 1], every other code and
byte as it was; VDQ gives each element the value of its code and scale (R141 to R143, R244, R245). -/
def Obligations.VectorFormats : Prop :=
  Sys2Proof.Claims.VectorConversions ∧ Sys2Proof.Claims.VectorQuantisation

/-- MMA of every format (R255, R256, R258, R261, R428): issue, and what refuses it. SMMA, its CSR record and its ROWP entries in
windows of the issuing cluster (R67, R263, R264): it reads them at issue, and the record that joins the generator holds the
three words. Parts of it rest on choices of the model, not on the manual: log 40, 48. -/
def Obligations.MatrixProducts : Prop :=
  Sys2Proof.Claims.MatrixIssue ∧ Sys2Proof.Claims.SparseIssue

/-- MZERO joins the generator without a range lock (R265); MSHAPE writes a valid mshape and the number of tile-tasks, or leaves
it and gives 0 (R252). MMAP takes the lowest free slot for the issuing task, or answers 0 where none is free; it frees a slot
of the task, and answers all ones for another (R257). -/
def Obligations.MatrixSetup : Prop :=
  Sys2Proof.Claims.ShapeAndZero ∧ Sys2Proof.Claims.MapSlots

/-- A tile-task's rows: the generator places tile-tasks in yard records, the columns of tiles fastest, when more than 32 records
are free and no other source has taken one in the cycle; a free engine, the lowest, takes one that is ready; each row segment
of an MZERO holds the low bits of its operand in every element and its granules are full (R256, R258, R260, R265, R365). The
end of an instruction's last tile-task resolves its future with the completion word; the record of the tile-task is free
(R259). An element of MMA.I8 without saturation: the prior value and the sum of the products, modulo 2^32 (R145, R148, R258).
Parts of it rest on choices of the model, not on the manual: log 19. -/
def Obligations.Tiles : Prop :=
  Sys2Proof.Claims.TileTasks ∧ Sys2Proof.Claims.TileTaskEnds ∧ Sys2Proof.Claims.IntegerElements

/-- Issue of page 14 (R282, R312, R315, R369): the instruction waits in the stream processor's queue with its operands. SMIG of
an IDLE stream to another package of the system, with no earlier operation on it: it is queued, and the stream is MIGRATING
from then on; of a stream that is not live, or not IDLE, or to this package, it is queued and will answer so (R311, R317).
Parts of it rest on choices of the model, not on the manual: log 80. -/
def Obligations.StreamQueue : Prop :=
  Sys2Proof.Claims.StreamIssue ∧ Sys2Proof.Claims.MigrationIssue

/-- What the operations of page 14 answer, and what they make of the stream contexts (R295, R297, R304, R307, R312 to R315,
R317). SAQP gives the action at the head of the stream's queue, SAQW writes one at the tail; SSTEP of a stream that may move
makes it ARRIVED at a valid layer, in a new group where none is open, and answers 3 for an invalid one (R304, R305, R307,
R308, R314). SMAP of a live stream (R316): 3 while it migrates; Share of a stream that is not live, and Frame of a page of
count 0, answer 1. Where the stream's tree is its own: Unmap of a page that is mapped clears its leaf entry and drops one
reference, of one whose root entry is invalid changes nothing; Fresh maps a page popped and zeroed, with count 1; Share and
Frame map the page they name and raise its count. SFORK takes one reference of the parent's root and copies every field of
its context but ID, STATE and JG; SNEW pops a node for the root and makes an IDLE context of its operands; SPRUNE frees the
context and drops one reference (R299, R302, R313). Parts of it rest on choices of the model, not on the manual: log 19, 80. -/
def Obligations.StreamResults : Prop :=
  Sys2Proof.Claims.StreamAnswers ∧ Sys2Proof.Claims.StreamSteps ∧ Sys2Proof.Claims.PageMaps ∧ Sys2Proof.Claims.StreamsComeAndGo

/-- SJGRP makes a group, or answers all ones for a bad policy; SJOIN records a return, or answers 2 for a second one; a group
whose returns and withdrawals are all in gives the completion word; when no stream is left to skim it is freed and SJGRP
resolves (R309, R310, R315). A copy-on-write walk for a stream that is no longer live ends; one whose root, leaf and page are
the stream's own copies nothing (R302). A herd group closes 4,096 cycles after its first arrival: its members are HERDED, and
a herd task takes the lowest free slot and record (R305, R306). Parts of it rest on choices of the model, not on the manual:
log 19. -/
def Obligations.GroupsAndHerds : Prop :=
  Sys2Proof.Claims.JoinGroups ∧ Sys2Proof.Claims.WalksAndHerds

/-- Issue of page 15 (R322, R323, R333, R335, R369): each goes to the event unit of the cluster in the population id; a post
counts its events for the context, and carries the count before it. What the operations of page 15 answer (R322, R330, R333,
R336, R337): the status of a post, the tick, a pending or ended run, and all ones for a population that is not loaded. Parts
of it rest on choices of the model, not on the manual: log 79. -/
def Obligations.EventOperations : Prop :=
  Sys2Proof.Claims.EventIssue ∧ Sys2Proof.Claims.EventAnswers

/-- Integration (R324 to R326, R328): the event at the head of a core's queue leaves it and gives its weight back; its neuron
catches up on its leak on the first event of the tick, adds the payload with a clamp, and its record goes full. Without a
pending run that covers the tick the domain holds (R329). The end of a tick (R327, R329, R336): with all its weight back, a
tick in which no neuron was touched only rises; a touched neuron at its threshold fires, its value falls by the threshold or
to zero, and a run that ends there resolves with its word. The least spilled event of a core returns from its ring to the
core's queue when that has room, as its record there has it, and the ring's head count rises (R331, R371); a domain whose
spill has waited 2^20 cycles without an integration or a fire is stalled, with a record 0x29 (R436). Parts of it rest on
choices of the model, not on the manual: log 32, 79. -/
def Obligations.NeuronTicks : Prop :=
  Sys2Proof.Claims.Integration ∧ Sys2Proof.Claims.Ticks ∧ Sys2Proof.Claims.CellarAndStall

/-- Page 16 on a core (R345, R351 to R354): ALOAD joins the mason's queue; AGO does with a valid record, read at issue as an
engine reads, and is refused for an address that is not a multiple of 64 or lies in a window; ASTAT reports; ASTOP takes a
queued job of the issuer's identity away, answers 2 for another identity's, 1 for none, and of a running one resolves once it
has stopped. The start of a job (R340, R342, R352): the oldest job of the queue runs from its entry word; an ALOAD of a
window writes its words to the control store; one of no words answers 1. Parts of it rest on choices of the model, not on the
manual: log 81. -/
def Obligations.MasonJobs : Prop :=
  Sys2Proof.Claims.MasonInstructions ∧ Sys2Proof.Claims.JobsStart

/-- Control and registers (R343, R348): MSET, MADD, MLOOP, MBR, and MWAIT where there is nothing to wait for; each changes the
job's registers and its next word alone. MEND ends the job with its word (R353). With no page open, the page micro-operations
read nothing and change nothing; MPAGE past the last page opens none and writes 0; MCHK without a checkpoint area commits the
open page as one step, and without an open page commits nothing (R348, R349). Parts of it rest on choices of the model, not
on the manual: log 81. -/
def Obligations.MasonControl : Prop :=
  Sys2Proof.Claims.MicroControl ∧ Sys2Proof.Claims.MicroPages

/-- The fold on a job of one row (R150, R348): what each micro-operation of the open page, MNORM, MOUT and a fresh MSINK make of
the areas and the row. The scores and the buffers are f32; MMASK puts −∞ at every token that is not allowed; MMAX, MSUM and
MSCL move the pending state. MQK and MPV on a job of one row whose pages are not denied and hold no tag (R341, R346, R348,
R364): a tile-task of class H takes a yard record first; then a score is the sum of products of Q and the key, and an element
of the working buffer gains the sum of products of the rounded scores and the values, both in groups of 32. Parts of it rest
on choices of the model, not on the manual: log 19, 81, 83. -/
def Obligations.MasonArithmetic : Prop :=
  Sys2Proof.Claims.MicroFold ∧ Sys2Proof.Claims.MicroProducts

/-- TLBINV (R107): each form drops its entries in every TLB, or every tag-check cache, of the package, and nothing else; with no
access at another package it completes at once. IDSET writes the identity and its clearance base, and answers the old
identity (R108); PCNT reads an event counter of its core, 0 past the eighth, and clears it where it is told to (R407); ELOGR
reads the next SEQ or a word of the record with a SEQ, all ones where the ring does not hold it (R425). Parts of it rest on
choices of the model, not on the manual: log 3, 59, 96. -/
def Obligations.SystemQueries : Prop :=
  Sys2Proof.Claims.TranslationsDrop ∧ Sys2Proof.Claims.IdentitiesAndCounters

/-- CTXSAVE suspends the task of another context of the unit, held where S[b] says so, and answers its yard record; it answers
2^62 for a context that is free and 2^63 for one it cannot name (R404). CTXLOAD releases a held task and kills a suspended
one, with its statuses (R405). CLDRAIN (R381, R382): its statuses 3, 4, 2, 1 and 5 in that order; a cluster with nothing
running is drained at once, a drained one resumes, and a wipe zeroes its windows and fills its granules; a drain that waits
completes once nothing runs. Parts of it rest on choices of the model, not on the manual: log 49, 56, 57, 58. -/
def Obligations.TasksAndDrains : Prop :=
  Sys2Proof.Claims.SuspendedTasks ∧ Sys2Proof.Claims.Drains

/-- PGMOV joins the list of moves with its page and its new place; a line of a move within the package is copied to the new
frame, and no other byte of memory changes; a move with a status resolves with it (R100, R109). Parts of it rest on choices
of the model, not on the manual: log 60, 96. -/
def Obligations.PageMigration : Prop :=
  Sys2Proof.Claims.PageMoves

/-- The host writes CHCFG and CHDB through a Porva port: EN rises with the base and size given and HEAD, TAIL and the completion
point at 0, an unusable size leaving the old one; EN falls alone; a tail within the ring is taken, and one that breaks the
bound stops the chain, with a record 0x11 (R358, R360); so does enabling where service has begun with no cluster (R444). With
nothing of the chain incomplete: NOP completes when read, and its SEQ is written to the completion word; LAUNCH joins the
dispatcher's queue of its cluster; WAIT holds the chain, and is released and completes when every earlier record has (R359 to
R362). Parts of it rest on choices of the model, not on the manual: log 50, 54. -/
def Obligations.HostCommands : Prop :=
  Sys2Proof.Claims.ChainRegisters ∧ Sys2Proof.Claims.Commands

/-- The dispatcher takes a launch whose header is well formed, with its extents, and creates its tasks one by one in yard
records, with the starting state of R42; a malformed header ends its launch, with a record 0x10. Parts of it rest on choices
of the model, not on the manual: log 19, 46. -/
def Obligations.Launches : Prop :=
  Sys2Proof.Claims.Dispatching

/-- The yard gives the lowest free context of a group to the task it serves, in its starting state; a resumed task issues once
its stores are acknowledged; a context's effective priority rises with its wait; a yielded task is eligible after its pause;
a spilled record returns to the yard, and the ring's head count rises. Parts of it rest on choices of the model, not on the
manual: log 19, 32, 33, 99. -/
def Obligations.Yard : Prop :=
  Sys2Proof.Claims.YardEvents

/-- Pre-emption gives the victim's context to the task that the yard serves, and the victim returns to the yard, saved; a split
of a range leaves the lower half with the victim and gives the upper half to a thief, whose context starts at the range's
entry; with no victim a request is refused and changes nothing (R44, R45, R52, R55, R367). Parts of it rest on choices of the
model, not on the manual: log 19, 22, 52. -/
def Obligations.PreemptionAndSplits : Prop :=
  Sys2Proof.Claims.PreemptionsAndSplits

/-- A queue notes what it waits on, and sends its token after 1,024 cycles of one wait; the token goes on along the waits, is
dropped where one has ended, and on its return grants the corbel entry of the queue that the sender waits on (R373, R374). A
remote store is performed at its place and lowers its task's counter; the watchdog traps a counted wait of 2^32 cycles; a
KWAIT whose weight is all back completes; a WAITI or SLEEP whose time has passed completes. Parts of it rest on choices of
the model, not on the manual: log 30, 53. -/
def Obligations.TokensAndWaits : Prop :=
  Sys2Proof.Claims.PlumbTokens ∧ Sys2Proof.Claims.WaitsEnd

/-- Power on, power off and the shutdown at 115 degrees reset the package; from 105 degrees it throttles, until 100 (R16, R376,
R381, R387). The first stages of the boot: the end of the wipe, the firmware of the service core, the self-tests of the
clusters (R376 to R381, R444). A verified command image advances the life-cycle state, with a reset and its wipe, or raises a
version counter while DEPLOYED; counters never fall (R377, R380, R381). Parts of it rest on choices of the model, not on the
manual: log 13, 62, 69, 91, 108. -/
def Obligations.ResetsAndBoot : Prop :=
  Sys2Proof.Claims.Resets ∧ Sys2Proof.Claims.BootStages ∧ Sys2Proof.Claims.LifeCycle

/-- Stacks come into service with the firmware of their memory cores, links and the calibration end, and each failure has its
record (R60, R376, R377, R379, R384, R444, R445). Parts of it rest on choices of the model, not on the manual: log 62, 109. -/
def Obligations.StacksAndFirmware : Prop :=
  Sys2Proof.Claims.MemoryCoresStart

/-- A write of a control-block register leaves what the register's fields take, reserved values keeping the old ones; one that
leaves FMIN above FMAX changes nothing, and a CELQ that raises EQ ends the stalls of its die (R8, R80, R81, R372, R375,
R436). Full service begins once every cluster in service is drained; a stack retires with the memory above the new top; the
host writes bytes through a port in service (R27, R379, R385). Parts of it rest on choices of the model, not on the manual:
log 68. -/
def Obligations.ControlRegisters : Prop :=
  Sys2Proof.Claims.RegisterWrites ∧ Sys2Proof.Claims.ServiceChanges

/-- A sample weighs the frames' gain against the cache lines', from the counters of the interval, which it clears, and begins a
move of one way within the limits; a limit moves the boundary a way at a time; the move's end sets FCUR (R80 to R83). At the
end of a window a switch marks its most used link where that link's share passes the threshold; a window without flits marks
none (R122). Parts of it rest on choices of the model, not on the manual: log 15, 63. -/
def Obligations.CarveOutAndRouting : Prop :=
  Sys2Proof.Claims.CarveOut ∧ Sys2Proof.Claims.RouteWindows

/-- The eighth failure of one flit makes its link retrain; acknowledged flits leave the replay buffer, and what a flow's
destination has delivered is no longer in flight; the third failed retraining within 2^30 cycles takes the link out of
service, one within a die with a reset that keeps it out (R121, R441, R442). An error found: a corrected one has a record; an
uncorrectable one poisons its half-line of HBM, whose frame retires, or its word of a window; one of the mason's control
store waits for the job that reaches it (R420 to R426, R440). A memory core that fails loses its tasks, and its stack begins
to retire; a join unit that fails loses its groups and leaves every scope; an idle cluster that leaves keeps its registers
alone; a table walk and a line fill end (R90, R113, R430, R434, R443). Parts of it rest on choices of the model, not on the
manual: log 55, 63, 65, 66, 67, 107, 108, 111. -/
def Obligations.ErrorsAndLosses : Prop :=
  Sys2Proof.Claims.LinkErrors ∧ Sys2Proof.Claims.ErrorsFound ∧ Sys2Proof.Claims.UnitsLeave

/-- RDLINE answers the 16 words of the line, and one bit for each poisoned one, or those bits alone where it asks for no more;
WRLINE writes the bytes that its mask selects, MERGE the bits of one word, and both are acknowledged (R96, R105, R120). ATOM
performs an atomic on w bits of a word at its owner and answers the old value (R96, R214). Parts of it rest on choices of the
model, not on the manual: log 24. -/
def Obligations.RemoteRequests : Prop :=
  Sys2Proof.Claims.RemoteLines ∧ Sys2Proof.Claims.RemoteAtomics

/-- HOTINC adds one to a quadrant's counter of the frame's record, saturating, and leaves the record's other bits; MVLINE asks
for a move, or brings a line; DATA and ACK answer what this package has asked (R97, R98, R100, R117, R120). A packet ahead of
its flow is held and delivers nothing; a packet of a reserved OP, or with a LEN that its OP does not carry, is discarded with
a record; one for another package goes on (R111, R121, R122, R123, R442). A forwarded request without an answer for 2^24
cycles ends with its data lost, and a store with its counter lowered and nothing written, each with a record; a package that
leaves takes its translations and its flows with it (R386, R414). Parts of it rest on choices of the model, not on the
manual: log 24, 25, 74, 75, 95. -/
def Obligations.PacketsAndOwners : Prop :=
  Sys2Proof.Claims.PacketEffects ∧ Sys2Proof.Claims.PacketOrder ∧ Sys2Proof.Claims.OwnersLost

/-- The destination: SOPEN takes a context where one is free, and is refused where none is; the tree's parts and the pages' lines
are stored in their frames; SDONE installs and acknowledges; SDROP makes the stream live (R126, R311, R435). The source: SREF
makes the stream IDLE again and SMIG resolves refused; SACC sends the tree, its pages and SDONE; each end that hears nothing
for 2^24 cycles gives up, with a record (R126, R311, R435). Parts of it rest on choices of the model, not on the manual: log
19, 24, 76. -/
def Obligations.StreamMigration : Prop :=
  Sys2Proof.Claims.MigrationArrives ∧ Sys2Proof.Claims.MigrationLeaves

/-- Each written word decodes to its instruction, in its full length, and is that instruction's encoding. -/
def Obligations.WrittenWordsDecode : Prop :=
  Sys2Proof.Claims.WrittenWords

/-- Every well-formed instruction that is no micro-instruction and no event has one to five words, and every well-formed
micro-instruction a control-store word; decoding them gives the instruction back, with every operand and in the number of its
words. Of the instructions that share one word, whose action stands in an operand, the decoder names the first (log 12).
Parts of it rest on choices of the model, not on the manual: log 12. -/
def Obligations.DecodeOfEncode : Prop :=
  Sys2Proof.Claims.RoundTrip

/-- A fifth prefix word, a second word of one sub-kind, an unassigned page, PV words outside pages 9 to 13, and two PI words on
page 7 are reserved, with detail 2 (R160, R163, R403). An encoding that decodes to nothing traps with CAUSE 0x01 and its
detail; trapval holds the base word, the number of prefixes and the page (R392, R403). Parts of it rest on choices of the
model, not on the manual: log 14. -/
def Obligations.ReservedEncodings : Prop :=
  Sys2Proof.Claims.ReservedChains ∧ Sys2Proof.Claims.IllegalEncodings

/-- The words at the pc that decode to an instruction run it: the step is exec of it at the state with its address noted, as its
pipe and the wait allow, and then time passes. The other turns: a reserved encoding takes the illegal-instruction trap, a
fetch that faults traps, one that waits leaves the context waiting, a mason runs its micro-instruction, an event happens with
its operands, and a context that takes no turn does nothing. Time passes at the end of a step, and nothing runs: a number of
cycles that the model leaves free (log 3) goes by, which contexts are ready is noted, and of the event counters only those of
cycles without an issue count (R58, R407). The word fetched at a bit address of global space is the two bytes, least
significant first, that its translation names in this package's memory (R6, R152, R190). Parts of it rest on choices of the
model, not on the manual: log 2, 3, 35, 99. -/
def Obligations.StepRunsExec : Prop :=
  Sys2Proof.Claims.StepRunsTheDecodedInstruction ∧ Sys2Proof.Claims.StepTakesItsTurn ∧ Sys2Proof.Claims.TimePasses ∧ Sys2Proof.Claims.FetchReadsMemory

/-- What stands after reset where the manual gives a value: no task, no memory but what the wipe leaves, every granule full,
service in the SRAM alone, and the registers whose maps give a reset value. Memory is in its canonical form after reset.
Parts of it rest on choices of the model, not on the manual: log 5, 6, 7. -/
def Obligations.AfterReset : Prop :=
  Sys2Proof.Claims.ResetState ∧ Sys2Proof.Claims.MemoryCanonicalAtReset

/-- Memory is in its canonical form after every step from a state where it is. -/
def Obligations.CanonicalMemory : Prop :=
  Sys2Proof.Claims.MemoryStaysCanonical

/-- R165: the operations of UN by f4, with registers 0 to 15 from the base word alone; values 12 to 15 are reserved. -/
def Obligations.UnOperations : Prop :=
  Sys2Proof.Claims.UnTakesItsOperationFromF4

/-- R43: the interval of a range task and its indices; RANGE with an empty interval makes a task whose first RNEXT returns all
ones. -/
def Obligations.RangeIntervals : Prop :=
  Sys2Proof.Claims.RangeTasks

/-- R160: the page that PO names, page 0 without it; each of the pages 1 to 17 has instructions, and any other value of PO is
reserved. -/
def Obligations.PageOfPo : Prop :=
  Sys2Proof.Claims.PoNamesThePage

/-- R186: BY2B, BB2Y and ADDPC, each with its word: page 3, majors 5, 6 and 11; the immediate of ADDPC is extended by its sign. -/
def Obligations.AddressConversions : Prop :=
  Sys2Proof.Claims.AddressConversions
end

