-- ==== Sys2Proof/Laws/Dispatch.lean ====
section
/-!
SUPPORT. Each arm of `exec`, by name: a proof about one instruction never unfolds the dispatch.
-/

namespace Sys2Proof.Machine

set_option linter.unusedVariables false

@[simp] theorem exec_add (o : Ops) (s : State) : exec (.add o) s = execAdd o s := rfl
@[simp] theorem exec_sub (o : Ops) (s : State) : exec (.sub o) s = execSub o s := rfl
@[simp] theorem exec_and (o : Ops) (s : State) : exec (.and o) s = execAnd o s := rfl
@[simp] theorem exec_or (o : Ops) (s : State) : exec (.or o) s = execOr o s := rfl
@[simp] theorem exec_xor (o : Ops) (s : State) : exec (.xor o) s = execXor o s := rfl
@[simp] theorem exec_addi (o : Ops) (s : State) : exec (.addi o) s = execAddi o s := rfl
@[simp] theorem exec_slli (o : Ops) (s : State) : exec (.slli o) s = execSlli o s := rfl
@[simp] theorem exec_li (o : Ops) (s : State) : exec (.li o) s = execLi o s := rfl
@[simp] theorem exec_ld (o : Ops) (s : State) : exec (.ld o) s = execLd o s := rfl
@[simp] theorem exec_st (o : Ops) (s : State) : exec (.st o) s = execSt o s := rfl
@[simp] theorem exec_beqz (o : Ops) (s : State) : exec (.beqz o) s = execBeqz o s := rfl
@[simp] theorem exec_bnez (o : Ops) (s : State) : exec (.bnez o) s = execBnez o s := rfl
@[simp] theorem exec_j (o : Ops) (s : State) : exec (.j o) s = execJ o s := rfl
@[simp] theorem exec_call (o : Ops) (s : State) : exec (.call o) s = execCall o s := rfl
@[simp] theorem exec_mov (o : Ops) (s : State) : exec (.mov o) s = execMov o s := rfl
@[simp] theorem exec_not (o : Ops) (s : State) : exec (.not o) s = execNot o s := rfl
@[simp] theorem exec_neg (o : Ops) (s : State) : exec (.neg o) s = execNeg o s := rfl
@[simp] theorem exec_abs (o : Ops) (s : State) : exec (.abs o) s = execAbs o s := rfl
@[simp] theorem exec_clz (o : Ops) (s : State) : exec (.clz o) s = execClz o s := rfl
@[simp] theorem exec_ctz (o : Ops) (s : State) : exec (.ctz o) s = execCtz o s := rfl
@[simp] theorem exec_popc (o : Ops) (s : State) : exec (.popc o) s = execPopc o s := rfl
@[simp] theorem exec_brev (o : Ops) (s : State) : exec (.brev o) s = execBrev o s := rfl
@[simp] theorem exec_jr (o : Ops) (s : State) : exec (.jr o) s = execJr o s := rfl
@[simp] theorem exec_jalr (o : Ops) (s : State) : exec (.jalr o) s = execJalr o s := rfl
@[simp] theorem exec_mul (o : Ops) (s : State) : exec (.mul o) s = execMul o s := rfl
@[simp] theorem exec_mulh (o : Ops) (s : State) : exec (.mulh o) s = execMulh o s := rfl
@[simp] theorem exec_mulhn (o : Ops) (s : State) : exec (.mulhn o) s = execMulhn o s := rfl
@[simp] theorem exec_div (o : Ops) (s : State) : exec (.div o) s = execDiv o s := rfl
@[simp] theorem exec_divn (o : Ops) (s : State) : exec (.divn o) s = execDivn o s := rfl
@[simp] theorem exec_rem (o : Ops) (s : State) : exec (.rem o) s = execRem o s := rfl
@[simp] theorem exec_remn (o : Ops) (s : State) : exec (.remn o) s = execRemn o s := rfl
@[simp] theorem exec_min (o : Ops) (s : State) : exec (.min o) s = execMin o s := rfl
@[simp] theorem exec_max (o : Ops) (s : State) : exec (.max o) s = execMax o s := rfl
@[simp] theorem exec_minn (o : Ops) (s : State) : exec (.minn o) s = execMinn o s := rfl
@[simp] theorem exec_maxn (o : Ops) (s : State) : exec (.maxn o) s = execMaxn o s := rfl
@[simp] theorem exec_sll (o : Ops) (s : State) : exec (.sll o) s = execSll o s := rfl
@[simp] theorem exec_srl (o : Ops) (s : State) : exec (.srl o) s = execSrl o s := rfl
@[simp] theorem exec_sra (o : Ops) (s : State) : exec (.sra o) s = execSra o s := rfl
@[simp] theorem exec_ror (o : Ops) (s : State) : exec (.ror o) s = execRor o s := rfl
@[simp] theorem exec_seq (o : Ops) (s : State) : exec (.seq o) s = execSeq o s := rfl
@[simp] theorem exec_sne (o : Ops) (s : State) : exec (.sne o) s = execSne o s := rfl
@[simp] theorem exec_slt (o : Ops) (s : State) : exec (.slt o) s = execSlt o s := rfl
@[simp] theorem exec_sltn (o : Ops) (s : State) : exec (.sltn o) s = execSltn o s := rfl
@[simp] theorem exec_srli (o : Ops) (s : State) : exec (.srli o) s = execSrli o s := rfl
@[simp] theorem exec_srai (o : Ops) (s : State) : exec (.srai o) s = execSrai o s := rfl
@[simp] theorem exec_andi (o : Ops) (s : State) : exec (.andi o) s = execAndi o s := rfl
@[simp] theorem exec_ori (o : Ops) (s : State) : exec (.ori o) s = execOri o s := rfl
@[simp] theorem exec_xori (o : Ops) (s : State) : exec (.xori o) s = execXori o s := rfl
@[simp] theorem exec_slti (o : Ops) (s : State) : exec (.slti o) s = execSlti o s := rfl
@[simp] theorem exec_sext (o : Ops) (s : State) : exec (.sext o) s = execSext o s := rfl
@[simp] theorem exec_zext (o : Ops) (s : State) : exec (.zext o) s = execZext o s := rfl
@[simp] theorem exec_bext (o : Ops) (s : State) : exec (.bext o) s = execBext o s := rfl
@[simp] theorem exec_bdep (o : Ops) (s : State) : exec (.bdep o) s = execBdep o s := rfl
@[simp] theorem exec_sel (o : Ops) (s : State) : exec (.sel o) s = execSel o s := rfl
@[simp] theorem exec_badv (o : Ops) (s : State) : exec (.badv o) s = execBadv o s := rfl
@[simp] theorem exec_brtv (o : Ops) (s : State) : exec (.brtv o) s = execBrtv o s := rfl
@[simp] theorem exec_bdiff (o : Ops) (s : State) : exec (.bdiff o) s = execBdiff o s := rfl
@[simp] theorem exec_baln (o : Ops) (s : State) : exec (.baln o) s = execBaln o s := rfl
@[simp] theorem exec_bchk (o : Ops) (s : State) : exec (.bchk o) s = execBchk o s := rfl
@[simp] theorem exec_by2b (o : Ops) (s : State) : exec (.by2b o) s = execBy2b o s := rfl
@[simp] theorem exec_bb2y (o : Ops) (s : State) : exec (.bb2y o) s = execBb2y o s := rfl
@[simp] theorem exec_bcore (o : Ops) (s : State) : exec (.bcore o) s = execBcore o s := rfl
@[simp] theorem exec_bmkl (o : Ops) (s : State) : exec (.bmkl o) s = execBmkl o s := rfl
@[simp] theorem exec_bplc (o : Ops) (s : State) : exec (.bplc o) s = execBplc o s := rfl
@[simp] theorem exec_lih (o : Ops) (s : State) : exec (.lih o) s = execLih o s := rfl
@[simp] theorem exec_addpc (o : Ops) (s : State) : exec (.addpc o) s = execAddpc o s := rfl
@[simp] theorem exec_wfld (o : Ops) (s : State) : exec (.wfld o) s = execWfld o s := rfl
@[simp] theorem exec_beq (o : Ops) (s : State) : exec (.beq o) s = execBeq o s := rfl
@[simp] theorem exec_bne (o : Ops) (s : State) : exec (.bne o) s = execBne o s := rfl
@[simp] theorem exec_blt (o : Ops) (s : State) : exec (.blt o) s = execBlt o s := rfl
@[simp] theorem exec_bltn (o : Ops) (s : State) : exec (.bltn o) s = execBltn o s := rfl
@[simp] theorem exec_bge (o : Ops) (s : State) : exec (.bge o) s = execBge o s := rfl
@[simp] theorem exec_bgen (o : Ops) (s : State) : exec (.bgen o) s = execBgen o s := rfl
@[simp] theorem exec_ball (o : Ops) (s : State) : exec (.ball o) s = execBall o s := rfl
@[simp] theorem exec_loop (o : Ops) (s : State) : exec (.loop o) s = execLoop o s := rfl
@[simp] theorem exec_csrr (o : Ops) (s : State) : exec (.csrr o) s = execCsrr o s := rfl
@[simp] theorem exec_csrw (o : Ops) (s : State) : exec (.csrw o) s = execCsrw o s := rfl
@[simp] theorem exec_trap (o : Ops) (s : State) : exec (.trap o) s = execTrap o s := rfl
@[simp] theorem exec_waiti (o : Ops) (s : State) : exec (.waiti o) s = execWaiti o s := rfl
@[simp] theorem exec_regn (o : Ops) (s : State) : exec (.regn o) s = execRegn o s := rfl
@[simp] theorem exec_spawn (o : Ops) (s : State) : exec (.spawn o) s = execSpawn o s := rfl
@[simp] theorem exec_range (o : Ops) (s : State) : exec (.range o) s = execRange o s := rfl
@[simp] theorem exec_rnext (o : Ops) (s : State) : exec (.rnext o) s = execRnext o s := rfl
@[simp] theorem exec_kset (o : Ops) (s : State) : exec (.kset o) s = execKset o s := rfl
@[simp] theorem exec_kwait (o : Ops) (s : State) : exec (.kwait o) s = execKwait o s := rfl
@[simp] theorem exec_barv (o : Ops) (s : State) : exec (.barv o) s = execBarv o s := rfl
@[simp] theorem exec_fwait (o : Ops) (s : State) : exec (.fwait o) s = execFwait o s := rfl
@[simp] theorem exec_ftest (o : Ops) (s : State) : exec (.ftest o) s = execFtest o s := rfl
@[simp] theorem exec_fcancel (o : Ops) (s : State) : exec (.fcancel o) s = execFcancel o s := rfl
@[simp] theorem exec_fhnd (o : Ops) (s : State) : exec (.fhnd o) s = execFhnd o s := rfl
@[simp] theorem exec_yield (o : Ops) (s : State) : exec (.yield o) s = execYield o s := rfl
@[simp] theorem exec_ldf (o : Ops) (s : State) : exec (.ldf o) s = execLdf o s := rfl
@[simp] theorem exec_ldfs (o : Ops) (s : State) : exec (.ldfs o) s = execLdfs o s := rfl
@[simp] theorem exec_stf (o : Ops) (s : State) : exec (.stf o) s = execStf o s := rfl
@[simp] theorem exec_ldfe (o : Ops) (s : State) : exec (.ldfe o) s = execLdfe o s := rfl
@[simp] theorem exec_stfe (o : Ops) (s : State) : exec (.stfe o) s = execStfe o s := rfl
@[simp] theorem exec_lda (o : Ops) (s : State) : exec (.lda o) s = execLda o s := rfl
@[simp] theorem exec_str (o : Ops) (s : State) : exec (.str o) s = execStr o s := rfl
@[simp] theorem exec_fenceAcq (o : Ops) (s : State) : exec (.fenceAcq o) s = execFenceAcq o s := rfl
@[simp] theorem exec_fenceRel (o : Ops) (s : State) : exec (.fenceRel o) s = execFenceRel o s := rfl
@[simp] theorem exec_fenceAcqrel (o : Ops) (s : State) : exec (.fenceAcqrel o) s = execFenceAcqrel o s := rfl
@[simp] theorem exec_fenceSc (o : Ops) (s : State) : exec (.fenceSc o) s = execFenceSc o s := rfl
@[simp] theorem exec_fenceRdrain (o : Ops) (s : State) : exec (.fenceRdrain o) s = execFenceRdrain o s := rfl
@[simp] theorem exec_pref (o : Ops) (s : State) : exec (.pref o) s = execPref o s := rfl
@[simp] theorem exec_pin (o : Ops) (s : State) : exec (.pin o) s = execPin o s := rfl
@[simp] theorem exec_unpin (o : Ops) (s : State) : exec (.unpin o) s = execUnpin o s := rfl
@[simp] theorem exec_cflush (o : Ops) (s : State) : exec (.cflush o) s = execCflush o s := rfl
@[simp] theorem exec_cinv (o : Ops) (s : State) : exec (.cinv o) s = execCinv o s := rfl
@[simp] theorem exec_ldp (o : Ops) (s : State) : exec (.ldp o) s = execLdp o s := rfl
@[simp] theorem exec_stp (o : Ops) (s : State) : exec (.stp o) s = execStp o s := rfl
@[simp] theorem exec_amoadd (o : Ops) (s : State) : exec (.amoadd o) s = execAmoadd o s := rfl
@[simp] theorem exec_amoand (o : Ops) (s : State) : exec (.amoand o) s = execAmoand o s := rfl
@[simp] theorem exec_amoor (o : Ops) (s : State) : exec (.amoor o) s = execAmoor o s := rfl
@[simp] theorem exec_amoxor (o : Ops) (s : State) : exec (.amoxor o) s = execAmoxor o s := rfl
@[simp] theorem exec_amomin (o : Ops) (s : State) : exec (.amomin o) s = execAmomin o s := rfl
@[simp] theorem exec_amomax (o : Ops) (s : State) : exec (.amomax o) s = execAmomax o s := rfl
@[simp] theorem exec_amominn (o : Ops) (s : State) : exec (.amominn o) s = execAmominn o s := rfl
@[simp] theorem exec_amomaxn (o : Ops) (s : State) : exec (.amomaxn o) s = execAmomaxn o s := rfl
@[simp] theorem exec_amoswp (o : Ops) (s : State) : exec (.amoswp o) s = execAmoswp o s := rfl
@[simp] theorem exec_cas (o : Ops) (s : State) : exec (.cas o) s = execCas o s := rfl
@[simp] theorem exec_cas2 (o : Ops) (s : State) : exec (.cas2 o) s = execCas2 o s := rfl
@[simp] theorem exec_amofadd (o : Ops) (s : State) : exec (.amofadd o) s = execAmofadd o s := rfl
@[simp] theorem exec_cp (o : Ops) (s : State) : exec (.cp o) s = execCp o s := rfl
@[simp] theorem exec_cp2d (o : Ops) (s : State) : exec (.cp2d o) s = execCp2d o s := rfl
@[simp] theorem exec_cpg (o : Ops) (s : State) : exec (.cpg o) s = execCpg o s := rfl
@[simp] theorem exec_cps (o : Ops) (s : State) : exec (.cps o) s = execCps o s := rfl
@[simp] theorem exec_cpfill (o : Ops) (s : State) : exec (.cpfill o) s = execCpfill o s := rfl
@[simp] theorem exec_mcast (o : Ops) (s : State) : exec (.mcast o) s = execMcast o s := rfl
@[simp] theorem exec_mcfetch (o : Ops) (s : State) : exec (.mcfetch o) s = execMcfetch o s := rfl
@[simp] theorem exec_mcsend (o : Ops) (s : State) : exec (.mcsend o) s = execMcsend o s := rfl
@[simp] theorem exec_vadd (o : Ops) (s : State) : exec (.vadd o) s = execVadd o s := rfl
@[simp] theorem exec_vsub (o : Ops) (s : State) : exec (.vsub o) s = execVsub o s := rfl
@[simp] theorem exec_vmul (o : Ops) (s : State) : exec (.vmul o) s = execVmul o s := rfl
@[simp] theorem exec_vfma (o : Ops) (s : State) : exec (.vfma o) s = execVfma o s := rfl
@[simp] theorem exec_vmin (o : Ops) (s : State) : exec (.vmin o) s = execVmin o s := rfl
@[simp] theorem exec_vmax (o : Ops) (s : State) : exec (.vmax o) s = execVmax o s := rfl
@[simp] theorem exec_vabs (o : Ops) (s : State) : exec (.vabs o) s = execVabs o s := rfl
@[simp] theorem exec_vneg (o : Ops) (s : State) : exec (.vneg o) s = execVneg o s := rfl
@[simp] theorem exec_vand (o : Ops) (s : State) : exec (.vand o) s = execVand o s := rfl
@[simp] theorem exec_vor (o : Ops) (s : State) : exec (.vor o) s = execVor o s := rfl
@[simp] theorem exec_vxor (o : Ops) (s : State) : exec (.vxor o) s = execVxor o s := rfl
@[simp] theorem exec_vshl (o : Ops) (s : State) : exec (.vshl o) s = execVshl o s := rfl
@[simp] theorem exec_vshr (o : Ops) (s : State) : exec (.vshr o) s = execVshr o s := rfl
@[simp] theorem exec_vsra (o : Ops) (s : State) : exec (.vsra o) s = execVsra o s := rfl
@[simp] theorem exec_vdiv (o : Ops) (s : State) : exec (.vdiv o) s = execVdiv o s := rfl
@[simp] theorem exec_vcmpeq (o : Ops) (s : State) : exec (.vcmpeq o) s = execVcmpeq o s := rfl
@[simp] theorem exec_vcmpne (o : Ops) (s : State) : exec (.vcmpne o) s = execVcmpne o s := rfl
@[simp] theorem exec_vcmplt (o : Ops) (s : State) : exec (.vcmplt o) s = execVcmplt o s := rfl
@[simp] theorem exec_vcmple (o : Ops) (s : State) : exec (.vcmple o) s = execVcmple o s := rfl
@[simp] theorem exec_vsel (o : Ops) (s : State) : exec (.vsel o) s = execVsel o s := rfl
@[simp] theorem exec_vredadd (o : Ops) (s : State) : exec (.vredadd o) s = execVredadd o s := rfl
@[simp] theorem exec_vredmax (o : Ops) (s : State) : exec (.vredmax o) s = execVredmax o s := rfl
@[simp] theorem exec_vredmin (o : Ops) (s : State) : exec (.vredmin o) s = execVredmin o s := rfl
@[simp] theorem exec_vredor (o : Ops) (s : State) : exec (.vredor o) s = execVredor o s := rfl
@[simp] theorem exec_vbcast (o : Ops) (s : State) : exec (.vbcast o) s = execVbcast o s := rfl
@[simp] theorem exec_vext (o : Ops) (s : State) : exec (.vext o) s = execVext o s := rfl
@[simp] theorem exec_vins (o : Ops) (s : State) : exec (.vins o) s = execVins o s := rfl
@[simp] theorem exec_vperm (o : Ops) (s : State) : exec (.vperm o) s = execVperm o s := rfl
@[simp] theorem exec_vslide (o : Ops) (s : State) : exec (.vslide o) s = execVslide o s := rfl
@[simp] theorem exec_vtrn (o : Ops) (s : State) : exec (.vtrn o) s = execVtrn o s := rfl
@[simp] theorem exec_vld (o : Ops) (s : State) : exec (.vld o) s = execVld o s := rfl
@[simp] theorem exec_vst (o : Ops) (s : State) : exec (.vst o) s = execVst o s := rfl
@[simp] theorem exec_vlds (o : Ops) (s : State) : exec (.vlds o) s = execVlds o s := rfl
@[simp] theorem exec_vsts (o : Ops) (s : State) : exec (.vsts o) s = execVsts o s := rfl
@[simp] theorem exec_vgath (o : Ops) (s : State) : exec (.vgath o) s = execVgath o s := rfl
@[simp] theorem exec_vscat (o : Ops) (s : State) : exec (.vscat o) s = execVscat o s := rfl
@[simp] theorem exec_vaor (o : Ops) (s : State) : exec (.vaor o) s = execVaor o s := rfl
@[simp] theorem exec_vaadd (o : Ops) (s : State) : exec (.vaadd o) s = execVaadd o s := rfl
@[simp] theorem exec_vcvt (o : Ops) (s : State) : exec (.vcvt o) s = execVcvt o s := rfl
@[simp] theorem exec_vq (o : Ops) (s : State) : exec (.vq o) s = execVq o s := rfl
@[simp] theorem exec_vdq (o : Ops) (s : State) : exec (.vdq o) s = execVdq o s := rfl
@[simp] theorem exec_vmulhn (o : Ops) (s : State) : exec (.vmulhn o) s = execVmulhn o s := rfl
@[simp] theorem exec_vsets (o : Ops) (s : State) : exec (.vsets o) s = execVsets o s := rfl
@[simp] theorem exec_vpopc (o : Ops) (s : State) : exec (.vpopc o) s = execVpopc o s := rfl
@[simp] theorem exec_vexp2 (o : Ops) (s : State) : exec (.vexp2 o) s = execVexp2 o s := rfl
@[simp] theorem exec_mmaBf16 (o : Ops) (s : State) : exec (.mmaBf16 o) s = execMmaBf16 o s := rfl
@[simp] theorem exec_mmaF16 (o : Ops) (s : State) : exec (.mmaF16 o) s = execMmaF16 o s := rfl
@[simp] theorem exec_mmaF32 (o : Ops) (s : State) : exec (.mmaF32 o) s = execMmaF32 o s := rfl
@[simp] theorem exec_mmaE4m3 (o : Ops) (s : State) : exec (.mmaE4m3 o) s = execMmaE4m3 o s := rfl
@[simp] theorem exec_mmaE5m2 (o : Ops) (s : State) : exec (.mmaE5m2 o) s = execMmaE5m2 o s := rfl
@[simp] theorem exec_mmaE4m3e5m2 (o : Ops) (s : State) : exec (.mmaE4m3e5m2 o) s = execMmaE4m3e5m2 o s := rfl
@[simp] theorem exec_mmaI8 (o : Ops) (s : State) : exec (.mmaI8 o) s = execMmaI8 o s := rfl
@[simp] theorem exec_mmaI8n8 (o : Ops) (s : State) : exec (.mmaI8n8 o) s = execMmaI8n8 o s := rfl
@[simp] theorem exec_mmaE2m3 (o : Ops) (s : State) : exec (.mmaE2m3 o) s = execMmaE2m3 o s := rfl
@[simp] theorem exec_mmaE3m2 (o : Ops) (s : State) : exec (.mmaE3m2 o) s = execMmaE3m2 o s := rfl
@[simp] theorem exec_mmaQ4 (o : Ops) (s : State) : exec (.mmaQ4 o) s = execMmaQ4 o s := rfl
@[simp] theorem exec_mmaQ4e4m3 (o : Ops) (s : State) : exec (.mmaQ4e4m3 o) s = execMmaQ4e4m3 o s := rfl
@[simp] theorem exec_mmaBf16q4 (o : Ops) (s : State) : exec (.mmaBf16q4 o) s = execMmaBf16q4 o s := rfl
@[simp] theorem exec_mmaI4 (o : Ops) (s : State) : exec (.mmaI4 o) s = execMmaI4 o s := rfl
@[simp] theorem exec_mmaI3i8 (o : Ops) (s : State) : exec (.mmaI3i8 o) s = execMmaI3i8 o s := rfl
@[simp] theorem exec_smmaBf16 (o : Ops) (s : State) : exec (.smmaBf16 o) s = execSmmaBf16 o s := rfl
@[simp] theorem exec_smmaE4m3 (o : Ops) (s : State) : exec (.smmaE4m3 o) s = execSmmaE4m3 o s := rfl
@[simp] theorem exec_smmaQ4 (o : Ops) (s : State) : exec (.smmaQ4 o) s = execSmmaQ4 o s := rfl
@[simp] theorem exec_mshape (o : Ops) (s : State) : exec (.mshape o) s = execMshape o s := rfl
@[simp] theorem exec_mmapAllocate (o : Ops) (s : State) : exec (.mmapAllocate o) s = execMmapAllocate o s := rfl
@[simp] theorem exec_mmapFree (o : Ops) (s : State) : exec (.mmapFree o) s = execMmapFree o s := rfl
@[simp] theorem exec_mzero (o : Ops) (s : State) : exec (.mzero o) s = execMzero o s := rfl
@[simp] theorem exec_snew (o : Ops) (s : State) : exec (.snew o) s = execSnew o s := rfl
@[simp] theorem exec_sfork (o : Ops) (s : State) : exec (.sfork o) s = execSfork o s := rfl
@[simp] theorem exec_sprune (o : Ops) (s : State) : exec (.sprune o) s = execSprune o s := rfl
@[simp] theorem exec_sjgrp (o : Ops) (s : State) : exec (.sjgrp o) s = execSjgrp o s := rfl
@[simp] theorem exec_sjoin (o : Ops) (s : State) : exec (.sjoin o) s = execSjoin o s := rfl
@[simp] theorem exec_sstep (o : Ops) (s : State) : exec (.sstep o) s = execSstep o s := rfl
@[simp] theorem exec_saqp (o : Ops) (s : State) : exec (.saqp o) s = execSaqp o s := rfl
@[simp] theorem exec_saqw (o : Ops) (s : State) : exec (.saqw o) s = execSaqw o s := rfl
@[simp] theorem exec_shz (o : Ops) (s : State) : exec (.shz o) s = execShz o s := rfl
@[simp] theorem exec_shzd (o : Ops) (s : State) : exec (.shzd o) s = execShzd o s := rfl
@[simp] theorem exec_smig (o : Ops) (s : State) : exec (.smig o) s = execSmig o s := rfl
@[simp] theorem exec_smapFresh (o : Ops) (s : State) : exec (.smapFresh o) s = execSmapFresh o s := rfl
@[simp] theorem exec_smapShare (o : Ops) (s : State) : exec (.smapShare o) s = execSmapShare o s := rfl
@[simp] theorem exec_smapUnmap (o : Ops) (s : State) : exec (.smapUnmap o) s = execSmapUnmap o s := rfl
@[simp] theorem exec_smapFrame (o : Ops) (s : State) : exec (.smapFrame o) s = execSmapFrame o s := rfl
@[simp] theorem exec_send (o : Ops) (s : State) : exec (.send o) s = execSend o s := rfl
@[simp] theorem exec_epopl (o : Ops) (s : State) : exec (.epopl o) s = execEpopl o s := rfl
@[simp] theorem exec_epost (o : Ops) (s : State) : exec (.epost o) s = execEpost o s := rfl
@[simp] theorem exec_epostv (o : Ops) (s : State) : exec (.epostv o) s = execEpostv o s := rfl
@[simp] theorem exec_erun (o : Ops) (s : State) : exec (.erun o) s = execErun o s := rfl
@[simp] theorem exec_etick (o : Ops) (s : State) : exec (.etick o) s = execEtick o s := rfl
@[simp] theorem exec_edrain (o : Ops) (s : State) : exec (.edrain o) s = execEdrain o s := rfl
@[simp] theorem exec_aload (o : Ops) (s : State) : exec (.aload o) s = execAload o s := rfl
@[simp] theorem exec_ago (o : Ops) (s : State) : exec (.ago o) s = execAgo o s := rfl
@[simp] theorem exec_astat (o : Ops) (s : State) : exec (.astat o) s = execAstat o s := rfl
@[simp] theorem exec_astop (o : Ops) (s : State) : exec (.astop o) s = execAstop o s := rfl
@[simp] theorem exec_tlbinvGpage (o : Ops) (s : State) : exec (.tlbinvGpage o) s = execTlbinvGpage o s := rfl
@[simp] theorem exec_tlbinvSid (o : Ops) (s : State) : exec (.tlbinvSid o) s = execTlbinvSid o s := rfl
@[simp] theorem exec_tlbinvIdent (o : Ops) (s : State) : exec (.tlbinvIdent o) s = execTlbinvIdent o s := rfl
@[simp] theorem exec_idset (o : Ops) (s : State) : exec (.idset o) s = execIdset o s := rfl
@[simp] theorem exec_ctxsave (o : Ops) (s : State) : exec (.ctxsave o) s = execCtxsave o s := rfl
@[simp] theorem exec_ctxloadRelease (o : Ops) (s : State) : exec (.ctxloadRelease o) s = execCtxloadRelease o s := rfl
@[simp] theorem exec_ctxloadKill (o : Ops) (s : State) : exec (.ctxloadKill o) s = execCtxloadKill o s := rfl
@[simp] theorem exec_pcnt (o : Ops) (s : State) : exec (.pcnt o) s = execPcnt o s := rfl
@[simp] theorem exec_sleep (o : Ops) (s : State) : exec (.sleep o) s = execSleep o s := rfl
@[simp] theorem exec_pgmov (o : Ops) (s : State) : exec (.pgmov o) s = execPgmov o s := rfl
@[simp] theorem exec_cldrainDrain (o : Ops) (s : State) : exec (.cldrainDrain o) s = execCldrainDrain o s := rfl
@[simp] theorem exec_cldrainResume (o : Ops) (s : State) : exec (.cldrainResume o) s = execCldrainResume o s := rfl
@[simp] theorem exec_cldrainWipe (o : Ops) (s : State) : exec (.cldrainWipe o) s = execCldrainWipe o s := rfl
@[simp] theorem exec_elogr (o : Ops) (s : State) : exec (.elogr o) s = execElogr o s := rfl
@[simp] theorem exec_msink (m : Micro) (s : State) : exec (.msink m) s = execMsink m s := rfl
@[simp] theorem exec_mpage (m : Micro) (s : State) : exec (.mpage m) s = execMpage m s := rfl
@[simp] theorem exec_mloop (m : Micro) (s : State) : exec (.mloop m) s = execMloop m s := rfl
@[simp] theorem exec_mbr (m : Micro) (s : State) : exec (.mbr m) s = execMbr m s := rfl
@[simp] theorem exec_mwait (m : Micro) (s : State) : exec (.mwait m) s = execMwait m s := rfl
@[simp] theorem exec_mset (m : Micro) (s : State) : exec (.mset m) s = execMset m s := rfl
@[simp] theorem exec_madd (m : Micro) (s : State) : exec (.madd m) s = execMadd m s := rfl
@[simp] theorem exec_ret (s : State) : exec .ret s = execRet s := rfl
@[simp] theorem exec_nop (s : State) : exec .nop s = execNop s := rfl
@[simp] theorem exec_rtt (s : State) : exec .rtt s = execRtt s := rfl
@[simp] theorem exec_exit (s : State) : exec .exit s = execExit s := rfl
@[simp] theorem exec_tlbinvGall (s : State) : exec .tlbinvGall s = execTlbinvGall s := rfl
@[simp] theorem exec_tlbinvSall (s : State) : exec .tlbinvSall s = execTlbinvSall s := rfl
@[simp] theorem exec_tlbinvIall (s : State) : exec .tlbinvIall s = execTlbinvIall s := rfl
@[simp] theorem exec_tlbinvAll (s : State) : exec .tlbinvAll s = execTlbinvAll s := rfl
@[simp] theorem exec_mqk (s : State) : exec .mqk s = execMqk s := rfl
@[simp] theorem exec_mmask (s : State) : exec .mmask s = execMmask s := rfl
@[simp] theorem exec_mmax (s : State) : exec .mmax s = execMmax s := rfl
@[simp] theorem exec_mexp (s : State) : exec .mexp s = execMexp s := rfl
@[simp] theorem exec_msum (s : State) : exec .msum s = execMsum s := rfl
@[simp] theorem exec_mscl (s : State) : exec .mscl s = execMscl s := rfl
@[simp] theorem exec_mpv (s : State) : exec .mpv s = execMpv s := rfl
@[simp] theorem exec_mchk (s : State) : exec .mchk s = execMchk s := rfl
@[simp] theorem exec_mnorm (s : State) : exec .mnorm s = execMnorm s := rfl
@[simp] theorem exec_mout (s : State) : exec .mout s = execMout s := rfl
@[simp] theorem exec_mend (s : State) : exec .mend s = execMend s := rfl
@[simp] theorem exec_doorbell (s : State) : exec .doorbell s = execDoorbell s := rfl
@[simp] theorem exec_chainEnable (s : State) : exec .chainEnable s = execChainEnable s := rfl
@[simp] theorem exec_chainStop (s : State) : exec .chainStop s = execChainStop s := rfl
@[simp] theorem exec_registerWrite (s : State) : exec .registerWrite s = execRegisterWrite s := rfl
@[simp] theorem exec_pkgmodeFullWrite (s : State) : exec .pkgmodeFullWrite s = execPkgmodeFullWrite s := rfl
@[simp] theorem exec_fullServiceReady (s : State) : exec .fullServiceReady s = execFullServiceReady s := rfl
@[simp] theorem exec_stackRetire (s : State) : exec .stackRetire s = execStackRetire s := rfl
@[simp] theorem exec_stackRetireDone (s : State) : exec .stackRetireDone s = execStackRetireDone s := rfl
@[simp] theorem exec_commandNop (s : State) : exec .commandNop s = execCommandNop s := rfl
@[simp] theorem exec_commandLaunch (s : State) : exec .commandLaunch s = execCommandLaunch s := rfl
@[simp] theorem exec_commandWait (s : State) : exec .commandWait s = execCommandWait s := rfl
@[simp] theorem exec_waitRelease (s : State) : exec .waitRelease s = execWaitRelease s := rfl
@[simp] theorem exec_dispatcherTakeLaunch (s : State) : exec .dispatcherTakeLaunch s = execDispatcherTakeLaunch s := rfl
@[simp] theorem exec_taskCreate (s : State) : exec .taskCreate s = execTaskCreate s := rfl
@[simp] theorem exec_yardGive (s : State) : exec .yardGive s = execYardGive s := rfl
@[simp] theorem exec_resumeCounterDrain (s : State) : exec .resumeCounterDrain s = execResumeCounterDrain s := rfl
@[simp] theorem exec_preempt (s : State) : exec .preempt s = execPreempt s := rfl
@[simp] theorem exec_priorityAge (s : State) : exec .priorityAge s = execPriorityAge s := rfl
@[simp] theorem exec_workRequest (s : State) : exec .workRequest s = execWorkRequest s := rfl
@[simp] theorem exec_cellarRefill (s : State) : exec .cellarRefill s = execCellarRefill s := rfl
@[simp] theorem exec_plumbTokenSend (s : State) : exec .plumbTokenSend s = execPlumbTokenSend s := rfl
@[simp] theorem exec_plumbTokenForward (s : State) : exec .plumbTokenForward s = execPlumbTokenForward s := rfl
@[simp] theorem exec_remoteStoreAck (s : State) : exec .remoteStoreAck s = execRemoteStoreAck s := rfl
@[simp] theorem exec_watchdog (s : State) : exec .watchdog s = execWatchdog s := rfl
@[simp] theorem exec_kwaitComplete (s : State) : exec .kwaitComplete s = execKwaitComplete s := rfl
@[simp] theorem exec_waitiTimeout (s : State) : exec .waitiTimeout s = execWaitiTimeout s := rfl
@[simp] theorem exec_sleepEnd (s : State) : exec .sleepEnd s = execSleepEnd s := rfl
@[simp] theorem exec_yieldEligible (s : State) : exec .yieldEligible s = execYieldEligible s := rfl
@[simp] theorem exec_tableWalkEnd (s : State) : exec .tableWalkEnd s = execTableWalkEnd s := rfl
@[simp] theorem exec_l2Fill (s : State) : exec .l2Fill s = execL2Fill s := rfl
@[simp] theorem exec_cowWalk (s : State) : exec .cowWalk s = execCowWalk s := rfl
@[simp] theorem exec_herdCloseTimeout (s : State) : exec .herdCloseTimeout s = execHerdCloseTimeout s := rfl
@[simp] theorem exec_joinResolve (s : State) : exec .joinResolve s = execJoinResolve s := rfl
@[simp] theorem exec_streamOpResolve (s : State) : exec .streamOpResolve s = execStreamOpResolve s := rfl
@[simp] theorem exec_copyStart (s : State) : exec .copyStart s = execCopyStart s := rfl
@[simp] theorem exec_copyResolve (s : State) : exec .copyResolve s = execCopyResolve s := rfl
@[simp] theorem exec_mcastResolve (s : State) : exec .mcastResolve s = execMcastResolve s := rfl
@[simp] theorem exec_tilePlace (s : State) : exec .tilePlace s = execTilePlace s := rfl
@[simp] theorem exec_tileTaskDispatch (s : State) : exec .tileTaskDispatch s = execTileTaskDispatch s := rfl
@[simp] theorem exec_rowSegmentWrite (s : State) : exec .rowSegmentWrite s = execRowSegmentWrite s := rfl
@[simp] theorem exec_tileTaskEnd (s : State) : exec .tileTaskEnd s = execTileTaskEnd s := rfl
@[simp] theorem exec_pinResolve (s : State) : exec .pinResolve s = execPinResolve s := rfl
@[simp] theorem exec_pgmovLineMove (s : State) : exec .pgmovLineMove s = execPgmovLineMove s := rfl
@[simp] theorem exec_pgmovResolve (s : State) : exec .pgmovResolve s = execPgmovResolve s := rfl
@[simp] theorem exec_masonJobStart (s : State) : exec .masonJobStart s = execMasonJobStart s := rfl
@[simp] theorem exec_eventIntegrate (s : State) : exec .eventIntegrate s = execEventIntegrate s := rfl
@[simp] theorem exec_eventCellarRefill (s : State) : exec .eventCellarRefill s = execEventCellarRefill s := rfl
@[simp] theorem exec_tickEnd (s : State) : exec .tickEnd s = execTickEnd s := rfl
@[simp] theorem exec_eventOpResolve (s : State) : exec .eventOpResolve s = execEventOpResolve s := rfl
@[simp] theorem exec_domainStall (s : State) : exec .domainStall s = execDomainStall s := rfl
@[simp] theorem exec_cldrainComplete (s : State) : exec .cldrainComplete s = execCldrainComplete s := rfl
@[simp] theorem exec_carveoutSample (s : State) : exec .carveoutSample s = execCarveoutSample s := rfl
@[simp] theorem exec_carveoutLimitMove (s : State) : exec .carveoutLimitMove s = execCarveoutLimitMove s := rfl
@[simp] theorem exec_l2WayMoveEnd (s : State) : exec .l2WayMoveEnd s = execL2WayMoveEnd s := rfl
@[simp] theorem exec_routeWindowEnd (s : State) : exec .routeWindowEnd s = execRouteWindowEnd s := rfl
@[simp] theorem exec_rdline (s : State) : exec .rdline s = execRdline s := rfl
@[simp] theorem exec_wrline (s : State) : exec .wrline s = execWrline s := rfl
@[simp] theorem exec_merge (s : State) : exec .merge s = execMerge s := rfl
@[simp] theorem exec_atom (s : State) : exec .atom s = execAtom s := rfl
@[simp] theorem exec_hotinc (s : State) : exec .hotinc s = execHotinc s := rfl
@[simp] theorem exec_mvline (s : State) : exec .mvline s = execMvline s := rfl
@[simp] theorem exec_data (s : State) : exec .data s = execData s := rfl
@[simp] theorem exec_ack (s : State) : exec .ack s = execAck s := rfl
@[simp] theorem exec_sopen (s : State) : exec .sopen s = execSopen s := rfl
@[simp] theorem exec_sacc (s : State) : exec .sacc s = execSacc s := rfl
@[simp] theorem exec_sref (s : State) : exec .sref s = execSref s := rfl
@[simp] theorem exec_snode (s : State) : exec .snode s = execSnode s := rfl
@[simp] theorem exec_sline (s : State) : exec .sline s = execSline s := rfl
@[simp] theorem exec_sdone (s : State) : exec .sdone s = execSdone s := rfl
@[simp] theorem exec_sdrop (s : State) : exec .sdrop s = execSdrop s := rfl
@[simp] theorem exec_flitReplay (s : State) : exec .flitReplay s = execFlitReplay s := rfl
@[simp] theorem exec_flitAck (s : State) : exec .flitAck s = execFlitAck s := rfl
@[simp] theorem exec_linkRetrainEnd (s : State) : exec .linkRetrainEnd s = execLinkRetrainEnd s := rfl
@[simp] theorem exec_ownerLostTimeout (s : State) : exec .ownerLostTimeout s = execOwnerLostTimeout s := rfl
@[simp] theorem exec_packageLeave (s : State) : exec .packageLeave s = execPackageLeave s := rfl
@[simp] theorem exec_smigSourceTimeout (s : State) : exec .smigSourceTimeout s = execSmigSourceTimeout s := rfl
@[simp] theorem exec_smigDestTimeout (s : State) : exec .smigDestTimeout s = execSmigDestTimeout s := rfl
@[simp] theorem exec_powerOnReset (s : State) : exec .powerOnReset s = execPowerOnReset s := rfl
@[simp] theorem exec_serviceFirmwareImage (s : State) : exec .serviceFirmwareImage s = execServiceFirmwareImage s := rfl
@[simp] theorem exec_clusterSelfTestEnd (s : State) : exec .clusterSelfTestEnd s = execClusterSelfTestEnd s := rfl
@[simp] theorem exec_memoryCoreFirmwareImage (s : State) : exec .memoryCoreFirmwareImage s = execMemoryCoreFirmwareImage s := rfl
@[simp] theorem exec_stackTrainEnd (s : State) : exec .stackTrainEnd s = execStackTrainEnd s := rfl
@[simp] theorem exec_linkTrainEnd (s : State) : exec .linkTrainEnd s = execLinkTrainEnd s := rfl
@[simp] theorem exec_calibrationEnd (s : State) : exec .calibrationEnd s = execCalibrationEnd s := rfl
@[simp] theorem exec_wipeEnd (s : State) : exec .wipeEnd s = execWipeEnd s := rfl
@[simp] theorem exec_lifecycleChange (s : State) : exec .lifecycleChange s = execLifecycleChange s := rfl
@[simp] theorem exec_mcFirmwareUpdate (s : State) : exec .mcFirmwareUpdate s = execMcFirmwareUpdate s := rfl
@[simp] theorem exec_mcFirmwareStart (s : State) : exec .mcFirmwareStart s = execMcFirmwareStart s := rfl
@[simp] theorem exec_throttle (s : State) : exec .throttle s = execThrottle s := rfl
@[simp] theorem exec_throttleEnd (s : State) : exec .throttleEnd s = execThrottleEnd s := rfl
@[simp] theorem exec_thermalShutdown (s : State) : exec .thermalShutdown s = execThermalShutdown s := rfl
@[simp] theorem exec_scrub (s : State) : exec .scrub s = execScrub s := rfl
@[simp] theorem exec_clusterLeave (s : State) : exec .clusterLeave s = execClusterLeave s := rfl
@[simp] theorem exec_memoryCoreFail (s : State) : exec .memoryCoreFail s = execMemoryCoreFail s := rfl
@[simp] theorem exec_joinUnitFail (s : State) : exec .joinUnitFail s = execJoinUnitFail s := rfl
@[simp] theorem exec_illegalInstruction (s : State) : exec .illegalInstruction s = execIllegalInstruction s := rfl
@[simp] theorem exec_hostPortWrite (s : State) : exec .hostPortWrite s = execHostPortWrite s := rfl
@[simp] theorem exec_porvaPortLoss (s : State) : exec .porvaPortLoss s = execPorvaPortLoss s := rfl
@[simp] theorem exec_powerOff (s : State) : exec .powerOff s = execPowerOff s := rfl
@[simp] theorem exec_minverRaise (s : State) : exec .minverRaise s = execMinverRaise s := rfl
@[simp] theorem exec_copyUnitWrite (s : State) : exec .copyUnitWrite s = execCopyUnitWrite s := rfl
@[simp] theorem exec_multicastDelivery (s : State) : exec .multicastDelivery s = execMulticastDelivery s := rfl
@[simp] theorem exec_pinLine (s : State) : exec .pinLine s = execPinLine s := rfl

end Sys2Proof.Machine
end

