-- ==== Sys2Proof/Laws/Memory.lean ====
section
/-!
SUPPORT. Sparse maps and memory: read after write, and that every memory operation keeps the canonical form.
-/

namespace Sys2Proof.Machine

/-! ## Sparse maps -/

theorem aget_aset {α : Type} (m : Assoc α) (i k : Nat) (x : α) : aget (aset m i x) k = if k = i then some x else aget m k := by
  induction m with
  | nil => simp [aset, aget]
  | cons p rest ih =>
    obtain ⟨j, v⟩ := p
    simp only [aset]
    split
    · next h => subst h; simp only [aget]; split <;> simp_all
    · split
      · simp only [aget]
      · next h _ => simp only [aget, ih]; split
                    · next e => rw [if_neg (fun he => h (he.symm.trans e))]
                    · rfl

@[simp] theorem aget_aset_self {α : Type} (m : Assoc α) (i : Nat) (x : α) : aget (aset m i x) i = some x := by
  simp [aget_aset]

theorem aget_aset_of_ne {α : Type} (m : Assoc α) {i k : Nat} (x : α) (h : k ≠ i) : aget (aset m i x) k = aget m k := by
  simp [aget_aset, h]

theorem aget_adel {α : Type} (m : Assoc α) (i k : Nat) : aget (adel m i) k = if k = i then none else aget m k := by
  induction m with
  | nil => simp [adel, aget]
  | cons p rest ih =>
    obtain ⟨j, v⟩ := p
    simp only [adel, List.filter_cons] at ih ⊢
    by_cases h : j = i
    · subst h; simp only [bne_self_eq_false]; rw [if_neg (by simp), ih]; simp only [aget]; split <;> simp_all
    · rw [if_pos (by simpa using h)]; simp only [aget, ih]; split <;> simp_all

@[simp] theorem aget_adel_self {α : Type} (m : Assoc α) (i : Nat) : aget (adel m i) i = none := by simp [aget_adel]

theorem aget_amod {α : Type} (m : Assoc α) (i k : Nat) (f : α → α) :
    aget (amod m i f) k = if k = i then (aget m i).map f else aget m k := by
  unfold amod
  cases h : aget m i with
  | none => split <;> simp_all
  | some v => simp [aget_aset]

/-! ## One byte of memory -/

theorem memByte_list (m : List Host.Cell) (a b : Nat) (x : Byte) : memByte (memList m a x) b = if b = a then x else memByte m b := by
  induction m with
  | nil => simp [memList, memByte]
  | cons p rest ih =>
    obtain ⟨j, v⟩ := p
    simp only [memList]
    split
    · next h => subst h; simp only [memByte]; split <;> simp_all
    · split
      · simp only [memByte]
      · next h _ => simp only [memByte, ih]; split
                    · next e => rw [if_neg (fun he => h (he.symm.trans e))]
                    · rfl

theorem memByte_drop (m : List Host.Cell) (a b : Nat) : memByte (memDrop m a) b = if b = a then unlistedByte a else memByte m b := by
  induction m with
  | nil => simp only [memDrop, List.filter_nil, memByte]; split <;> simp_all
  | cons p rest ih =>
    obtain ⟨j, v⟩ := p
    simp only [memDrop, List.filter_cons] at ih ⊢
    by_cases h : j = a
    · subst h; simp only [bne_self_eq_false]; rw [if_neg (by simp), ih]; simp only [memByte]; split <;> simp_all
    · rw [if_pos (by simpa using h)]; simp only [memByte, ih]; split <;> simp_all

/-- A byte write reads back, and leaves every other byte alone. -/
theorem memByte_put (m : List Host.Cell) (a b : Nat) (x : Byte) : memByte (memPut m a x) b = if b = a then x else memByte m b := by
  unfold memPut
  split
  · next h => subst h; exact memByte_drop m a b
  · exact memByte_list m a b x

theorem memByte_clear (m : List Host.Cell) (lo hi b : Nat) :
    memByte (memClear m lo hi) b = if lo ≤ b ∧ b < hi then unlistedByte b else memByte m b := by
  induction m with
  | nil => simp [memClear, memByte]
  | cons p rest ih =>
    obtain ⟨j, v⟩ := p
    simp only [memClear, List.filter_cons] at ih ⊢
    by_cases h : lo ≤ j ∧ j < hi
    · rw [if_neg (by simp [h]), ih]; simp only [memByte]; split
      · rfl
      · next hb => rw [if_neg (by rintro rfl; exact hb h)]
    · rw [if_pos (by simp; omega)]; simp only [memByte, ih]; split
      · next hb => subst hb; rw [if_neg h]
      · rfl

/-- A masked write changes no byte outside its n bytes. -/
theorem memByte_mask_out (n : Nat) : ∀ (m : List Host.Cell) (a mask val b : Nat), b < a ∨ a + n ≤ b →
    memByte (memMask m n a mask val) b = memByte m b := by
  induction n with
  | zero => intros; rfl
  | succ n ih =>
    intro m a mask val b h
    simp only [memMask]
    rw [ih _ _ _ _ _ (by omega)]
    split
    · rfl
    · rw [memByte_put, if_neg (by omega)]

theorem memByte_merge_out (m : List Host.Cell) (a : Nat) (mask val : Word) (b : Nat) (h : b < a ∨ a + 8 ≤ b) :
    memByte (memMerge m a mask val) b = memByte m b := memByte_mask_out 8 m a _ _ b h

theorem memByte_set_out (m : List Host.Cell) (a : Nat) (val : Word) (b : Nat) (h : b < a ∨ a + 8 ≤ b) :
    memByte (memSet m a val) b = memByte m b := memByte_merge_out m a _ _ b h

/-- A masked write of a byte inside its n bytes: the selected bits are new. -/
theorem memByte_mask_in (n : Nat) : ∀ (m : List Host.Cell) (a mask val k : Nat), k < n →
    memByte (memMask m n a mask val) (a + k) =
      (memByte m (a + k) &&& ~~~(BitVec.ofNat 8 (mask / 256 ^ k))) ||| (BitVec.ofNat 8 (val / 256 ^ k) &&& BitVec.ofNat 8 (mask / 256 ^ k)) := by
  induction n with
  | zero => intros; omega
  | succ n ih =>
    intro m a mask val k h
    simp only [memMask]
    cases k with
    | zero =>
      rw [memByte_mask_out _ _ _ _ _ _ (by omega)]
      simp only [Nat.add_zero, Nat.pow_zero, Nat.div_one]
      split
      · next h0 => rw [h0]; simp; exact (BitVec.and_allOnes (x := memByte m a)).symm
      · rw [memByte_put, if_pos rfl]
    | succ k =>
      rw [show a + (k + 1) = a + 1 + k by omega, ih _ _ _ _ _ (by omega)]
      have hm : ∀ x : Nat, x / 256 / 256 ^ k = x / 256 ^ (k + 1) := fun x => by
        rw [Nat.div_div_eq_div_mul, Nat.pow_succ, Nat.mul_comm]
      rw [hm, hm]
      split
      · rfl
      · rw [memByte_put, if_neg (by omega)]

/-! ## The canonical form -/

/-- Keys below a bound do not come after it. -/
theorem keysRise_cons {α : Type} (p : Nat × α) (rest : Assoc α) :
    keysRise (p :: rest) = true ↔ keysRise rest = true ∧ ∀ q ∈ rest, p.1 < q.1 := by
  induction rest generalizing p with
  | nil => simp [keysRise]
  | cons q rest ih =>
    obtain ⟨a, x⟩ := p
    obtain ⟨b, y⟩ := q
    simp only [keysRise, Bool.and_eq_true, decide_eq_true_eq, List.mem_cons, forall_eq_or_imp]
    have hq := ih (b, y)
    constructor
    · rintro ⟨h, hr⟩
      exact ⟨hr, h, fun r hm => Nat.lt_trans h ((hq.mp hr).2 r hm)⟩
    · rintro ⟨hr, h, _⟩
      exact ⟨h, hr⟩

theorem keysRise_filter {α : Type} (p : Nat × α → Bool) (m : Assoc α) (h : keysRise m = true) : keysRise (m.filter p) = true := by
  induction m with
  | nil => rfl
  | cons q rest ih =>
    obtain ⟨hr, hb⟩ := (keysRise_cons q rest).mp h
    rw [List.filter_cons]
    split
    · exact (keysRise_cons _ _).mpr ⟨ih hr, fun r hm => hb r (List.mem_of_mem_filter hm)⟩
    · exact ih hr

theorem keysRise_list (m : List Host.Cell) (a : Nat) (x : Byte) (h : keysRise m = true) :
    keysRise (memList m a x) = true ∧ ∀ q ∈ memList m a x, q = (a, x) ∨ q ∈ m := by
  induction m with
  | nil => simp [memList, keysRise]
  | cons q rest ih =>
    obtain ⟨j, v⟩ := q
    obtain ⟨hr, hb⟩ := (keysRise_cons (j, v) rest).mp h
    simp only [memList]
    split
    · next e =>
      subst e
      exact ⟨(keysRise_cons _ _).mpr ⟨hr, hb⟩, by simp +contextual⟩
    · split
      · next hlt =>
        refine ⟨(keysRise_cons _ _).mpr ⟨h, ?_⟩, by simp⟩
        intro r hm
        rcases List.mem_cons.mp hm with rfl | hm
        · exact hlt
        · exact Nat.lt_trans hlt (hb r hm)
      · next hne hge =>
        obtain ⟨h1, h2⟩ := ih hr
        refine ⟨(keysRise_cons _ _).mpr ⟨h1, ?_⟩, ?_⟩
        · intro r hm
          rcases h2 r hm with rfl | hm
          · show j < a
            omega
          · exact hb r hm
        · intro r hm
          rcases List.mem_cons.mp hm with rfl | hm
          · simp
          · rcases h2 r hm with h | h <;> simp [h]

theorem memOk_filter (p : Host.Cell → Bool) (m : List Host.Cell) (h : memOk m = true) : memOk (m.filter p) = true := by
  simp only [memOk, Bool.and_eq_true, List.all_eq_true] at h ⊢
  exact ⟨keysRise_filter p m h.1, fun c hc => h.2 c (List.mem_of_mem_filter hc)⟩

/-- Every byte write keeps the canonical form. -/
theorem memOk_put (m : List Host.Cell) (a : Nat) (x : Byte) (h : memOk m = true) : memOk (memPut m a x) = true := by
  unfold memPut
  split
  · exact memOk_filter _ m h
  · next hx =>
    simp only [memOk, Bool.and_eq_true, List.all_eq_true] at h ⊢
    obtain ⟨h1, h2⟩ := keysRise_list m a x h.1
    refine ⟨h1, fun c hc => ?_⟩
    rcases h2 c hc with rfl | hm
    · simpa using hx
    · exact h.2 c hm

theorem memOk_mask (n : Nat) : ∀ (m : List Host.Cell) (a mask val : Nat), memOk m = true → memOk (memMask m n a mask val) = true := by
  induction n with
  | zero => intro m a mask val h; exact h
  | succ n ih =>
    intro m a mask val h
    simp only [memMask]
    apply ih
    split
    · exact h
    · exact memOk_put _ _ _ h

theorem memOk_merge (m : List Host.Cell) (a : Nat) (mask val : Word) (h : memOk m = true) : memOk (memMerge m a mask val) = true :=
  memOk_mask 8 m a _ _ h

theorem memOk_set (m : List Host.Cell) (a : Nat) (val : Word) (h : memOk m = true) : memOk (memSet m a val) = true :=
  memOk_merge m a _ _ h

theorem memOk_setWords (ws : List Word) : ∀ (m : List Host.Cell) (a : Nat), memOk m = true → memOk (memSetWords m a ws) = true := by
  induction ws with
  | nil => intro m a h; exact h
  | cons w ws ih => intro m a h; exact ih _ _ (memOk_set m a w h)

theorem memOk_clear (m : List Host.Cell) (lo hi : Nat) (h : memOk m = true) : memOk (memClear m lo hi) = true := memOk_filter _ m h

/-- Memory after reset has the canonical form. -/
theorem memOk_reset : memOk State.reset.mem = true := rfl

end Sys2Proof.Machine
end

