-- ==== Sys2Proof/Laws/State.lean ====
section
/-!
SUPPORT. What each named update of the state leaves alone, field by field, and what it makes of the field it changes.
-/

namespace Sys2Proof.Machine

/-! ## setCtx -/

@[simp] theorem State.setCtx_clusters (s : State) (cx : Nat) (c : Ctx) : (s.setCtx cx c).clusters = s.clusters := rfl
@[simp] theorem State.setCtx_mcores (s : State) (cx : Nat) (c : Ctx) : (s.setCtx cx c).mcores = s.mcores := rfl
@[simp] theorem State.setCtx_dies (s : State) (cx : Nat) (c : Ctx) : (s.setCtx cx c).dies = s.dies := rfl
@[simp] theorem State.setCtx_keystones (s : State) (cx : Nat) (c : Ctx) : (s.setCtx cx c).keystones = s.keystones := rfl
@[simp] theorem State.setCtx_launches (s : State) (cx : Nat) (c : Ctx) : (s.setCtx cx c).launches = s.launches := rfl
@[simp] theorem State.setCtx_chains (s : State) (cx : Nat) (c : Ctx) : (s.setCtx cx c).chains = s.chains := rfl
@[simp] theorem State.setCtx_mem (s : State) (cx : Nat) (c : Ctx) : (s.setCtx cx c).mem = s.mem := rfl
@[simp] theorem State.setCtx_poison (s : State) (cx : Nat) (c : Ctx) : (s.setCtx cx c).poison = s.poison := rfl
@[simp] theorem State.setCtx_frozen (s : State) (cx : Nat) (c : Ctx) : (s.setCtx cx c).frozen = s.frozen := rfl
@[simp] theorem State.setCtx_caches (s : State) (cx : Nat) (c : Ctx) : (s.setCtx cx c).caches = s.caches := rfl
@[simp] theorem State.setCtx_rstores (s : State) (cx : Nat) (c : Ctx) : (s.setCtx cx c).rstores = s.rstores := rfl
@[simp] theorem State.setCtx_ldfes (s : State) (cx : Nat) (c : Ctx) : (s.setCtx cx c).ldfes = s.ldfes := rfl
@[simp] theorem State.setCtx_pins (s : State) (cx : Nat) (c : Ctx) : (s.setCtx cx c).pins = s.pins := rfl
@[simp] theorem State.setCtx_moves (s : State) (cx : Nat) (c : Ctx) : (s.setCtx cx c).moves = s.moves := rfl
@[simp] theorem State.setCtx_opDenials (s : State) (cx : Nat) (c : Ctx) : (s.setCtx cx c).opDenials = s.opDenials := rfl
@[simp] theorem State.setCtx_posts (s : State) (cx : Nat) (c : Ctx) : (s.setCtx cx c).posts = s.posts := rfl
@[simp] theorem State.setCtx_charges (s : State) (cx : Nat) (c : Ctx) : (s.setCtx cx c).charges = s.charges := rfl
@[simp] theorem State.setCtx_net (s : State) (cx : Nat) (c : Ctx) : (s.setCtx cx c).net = s.net := rfl
@[simp] theorem State.setCtx_regs (s : State) (cx : Nat) (c : Ctx) : (s.setCtx cx c).regs = s.regs := rfl
@[simp] theorem State.setCtx_log (s : State) (cx : Nat) (c : Ctx) : (s.setCtx cx c).log = s.log := rfl
@[simp] theorem State.setCtx_boot (s : State) (cx : Nat) (c : Ctx) : (s.setCtx cx c).boot = s.boot := rfl
@[simp] theorem State.setCtx_fuses (s : State) (cx : Nat) (c : Ctx) : (s.setCtx cx c).fuses = s.fuses := rfl
@[simp] theorem State.setCtx_sys (s : State) (cx : Nat) (c : Ctx) : (s.setCtx cx c).sys = s.sys := rfl
@[simp] theorem State.setCtx_perf (s : State) (cx : Nat) (c : Ctx) : (s.setCtx cx c).perf = s.perf := rfl
@[simp] theorem State.setCtx_pipes (s : State) (cx : Nat) (c : Ctx) : (s.setCtx cx c).pipes = s.pipes := rfl
@[simp] theorem State.setCtx_splits (s : State) (cx : Nat) (c : Ctx) : (s.setCtx cx c).splits = s.splits := rfl
@[simp] theorem State.setCtx_cycle (s : State) (cx : Nat) (c : Ctx) : (s.setCtx cx c).cycle = s.cycle := rfl
@[simp] theorem State.setCtx_agenda (s : State) (cx : Nat) (c : Ctx) : (s.setCtx cx c).agenda = s.agenda := rfl
@[simp] theorem State.setCtx_fresh (s : State) (cx : Nat) (c : Ctx) : (s.setCtx cx c).fresh = s.fresh := rfl
@[simp] theorem State.setCtx_cur (s : State) (cx : Nat) (c : Ctx) : (s.setCtx cx c).cur = s.cur := rfl
@[simp] theorem State.setCtx_arg (s : State) (cx : Nat) (c : Ctx) : (s.setCtx cx c).arg = s.arg := rfl
@[simp] theorem State.setCtx_nextHandle (s : State) (cx : Nat) (c : Ctx) : (s.setCtx cx c).nextHandle = s.nextHandle := rfl
@[simp] theorem State.setCtx_nextUid (s : State) (cx : Nat) (c : Ctx) : (s.setCtx cx c).nextUid = s.nextUid := rfl

/-! ## modCtx -/

@[simp] theorem State.modCtx_clusters (s : State) (cx : Nat) (f : Ctx → Ctx) : (s.modCtx cx f).clusters = s.clusters := rfl
@[simp] theorem State.modCtx_mcores (s : State) (cx : Nat) (f : Ctx → Ctx) : (s.modCtx cx f).mcores = s.mcores := rfl
@[simp] theorem State.modCtx_dies (s : State) (cx : Nat) (f : Ctx → Ctx) : (s.modCtx cx f).dies = s.dies := rfl
@[simp] theorem State.modCtx_keystones (s : State) (cx : Nat) (f : Ctx → Ctx) : (s.modCtx cx f).keystones = s.keystones := rfl
@[simp] theorem State.modCtx_launches (s : State) (cx : Nat) (f : Ctx → Ctx) : (s.modCtx cx f).launches = s.launches := rfl
@[simp] theorem State.modCtx_chains (s : State) (cx : Nat) (f : Ctx → Ctx) : (s.modCtx cx f).chains = s.chains := rfl
@[simp] theorem State.modCtx_mem (s : State) (cx : Nat) (f : Ctx → Ctx) : (s.modCtx cx f).mem = s.mem := rfl
@[simp] theorem State.modCtx_poison (s : State) (cx : Nat) (f : Ctx → Ctx) : (s.modCtx cx f).poison = s.poison := rfl
@[simp] theorem State.modCtx_frozen (s : State) (cx : Nat) (f : Ctx → Ctx) : (s.modCtx cx f).frozen = s.frozen := rfl
@[simp] theorem State.modCtx_caches (s : State) (cx : Nat) (f : Ctx → Ctx) : (s.modCtx cx f).caches = s.caches := rfl
@[simp] theorem State.modCtx_rstores (s : State) (cx : Nat) (f : Ctx → Ctx) : (s.modCtx cx f).rstores = s.rstores := rfl
@[simp] theorem State.modCtx_ldfes (s : State) (cx : Nat) (f : Ctx → Ctx) : (s.modCtx cx f).ldfes = s.ldfes := rfl
@[simp] theorem State.modCtx_pins (s : State) (cx : Nat) (f : Ctx → Ctx) : (s.modCtx cx f).pins = s.pins := rfl
@[simp] theorem State.modCtx_moves (s : State) (cx : Nat) (f : Ctx → Ctx) : (s.modCtx cx f).moves = s.moves := rfl
@[simp] theorem State.modCtx_opDenials (s : State) (cx : Nat) (f : Ctx → Ctx) : (s.modCtx cx f).opDenials = s.opDenials := rfl
@[simp] theorem State.modCtx_posts (s : State) (cx : Nat) (f : Ctx → Ctx) : (s.modCtx cx f).posts = s.posts := rfl
@[simp] theorem State.modCtx_charges (s : State) (cx : Nat) (f : Ctx → Ctx) : (s.modCtx cx f).charges = s.charges := rfl
@[simp] theorem State.modCtx_net (s : State) (cx : Nat) (f : Ctx → Ctx) : (s.modCtx cx f).net = s.net := rfl
@[simp] theorem State.modCtx_regs (s : State) (cx : Nat) (f : Ctx → Ctx) : (s.modCtx cx f).regs = s.regs := rfl
@[simp] theorem State.modCtx_log (s : State) (cx : Nat) (f : Ctx → Ctx) : (s.modCtx cx f).log = s.log := rfl
@[simp] theorem State.modCtx_boot (s : State) (cx : Nat) (f : Ctx → Ctx) : (s.modCtx cx f).boot = s.boot := rfl
@[simp] theorem State.modCtx_fuses (s : State) (cx : Nat) (f : Ctx → Ctx) : (s.modCtx cx f).fuses = s.fuses := rfl
@[simp] theorem State.modCtx_sys (s : State) (cx : Nat) (f : Ctx → Ctx) : (s.modCtx cx f).sys = s.sys := rfl
@[simp] theorem State.modCtx_perf (s : State) (cx : Nat) (f : Ctx → Ctx) : (s.modCtx cx f).perf = s.perf := rfl
@[simp] theorem State.modCtx_pipes (s : State) (cx : Nat) (f : Ctx → Ctx) : (s.modCtx cx f).pipes = s.pipes := rfl
@[simp] theorem State.modCtx_splits (s : State) (cx : Nat) (f : Ctx → Ctx) : (s.modCtx cx f).splits = s.splits := rfl
@[simp] theorem State.modCtx_cycle (s : State) (cx : Nat) (f : Ctx → Ctx) : (s.modCtx cx f).cycle = s.cycle := rfl
@[simp] theorem State.modCtx_agenda (s : State) (cx : Nat) (f : Ctx → Ctx) : (s.modCtx cx f).agenda = s.agenda := rfl
@[simp] theorem State.modCtx_fresh (s : State) (cx : Nat) (f : Ctx → Ctx) : (s.modCtx cx f).fresh = s.fresh := rfl
@[simp] theorem State.modCtx_cur (s : State) (cx : Nat) (f : Ctx → Ctx) : (s.modCtx cx f).cur = s.cur := rfl
@[simp] theorem State.modCtx_arg (s : State) (cx : Nat) (f : Ctx → Ctx) : (s.modCtx cx f).arg = s.arg := rfl
@[simp] theorem State.modCtx_nextHandle (s : State) (cx : Nat) (f : Ctx → Ctx) : (s.modCtx cx f).nextHandle = s.nextHandle := rfl
@[simp] theorem State.modCtx_nextUid (s : State) (cx : Nat) (f : Ctx → Ctx) : (s.modCtx cx f).nextUid = s.nextUid := rfl

/-! ## onMe -/

@[simp] theorem State.onMe_clusters (s : State) (c : Cur) (f : Ctx → Ctx) : (s.onMe c f).clusters = s.clusters := rfl
@[simp] theorem State.onMe_mcores (s : State) (c : Cur) (f : Ctx → Ctx) : (s.onMe c f).mcores = s.mcores := rfl
@[simp] theorem State.onMe_dies (s : State) (c : Cur) (f : Ctx → Ctx) : (s.onMe c f).dies = s.dies := rfl
@[simp] theorem State.onMe_keystones (s : State) (c : Cur) (f : Ctx → Ctx) : (s.onMe c f).keystones = s.keystones := rfl
@[simp] theorem State.onMe_launches (s : State) (c : Cur) (f : Ctx → Ctx) : (s.onMe c f).launches = s.launches := rfl
@[simp] theorem State.onMe_chains (s : State) (c : Cur) (f : Ctx → Ctx) : (s.onMe c f).chains = s.chains := rfl
@[simp] theorem State.onMe_mem (s : State) (c : Cur) (f : Ctx → Ctx) : (s.onMe c f).mem = s.mem := rfl
@[simp] theorem State.onMe_poison (s : State) (c : Cur) (f : Ctx → Ctx) : (s.onMe c f).poison = s.poison := rfl
@[simp] theorem State.onMe_frozen (s : State) (c : Cur) (f : Ctx → Ctx) : (s.onMe c f).frozen = s.frozen := rfl
@[simp] theorem State.onMe_caches (s : State) (c : Cur) (f : Ctx → Ctx) : (s.onMe c f).caches = s.caches := rfl
@[simp] theorem State.onMe_rstores (s : State) (c : Cur) (f : Ctx → Ctx) : (s.onMe c f).rstores = s.rstores := rfl
@[simp] theorem State.onMe_ldfes (s : State) (c : Cur) (f : Ctx → Ctx) : (s.onMe c f).ldfes = s.ldfes := rfl
@[simp] theorem State.onMe_pins (s : State) (c : Cur) (f : Ctx → Ctx) : (s.onMe c f).pins = s.pins := rfl
@[simp] theorem State.onMe_moves (s : State) (c : Cur) (f : Ctx → Ctx) : (s.onMe c f).moves = s.moves := rfl
@[simp] theorem State.onMe_opDenials (s : State) (c : Cur) (f : Ctx → Ctx) : (s.onMe c f).opDenials = s.opDenials := rfl
@[simp] theorem State.onMe_posts (s : State) (c : Cur) (f : Ctx → Ctx) : (s.onMe c f).posts = s.posts := rfl
@[simp] theorem State.onMe_charges (s : State) (c : Cur) (f : Ctx → Ctx) : (s.onMe c f).charges = s.charges := rfl
@[simp] theorem State.onMe_net (s : State) (c : Cur) (f : Ctx → Ctx) : (s.onMe c f).net = s.net := rfl
@[simp] theorem State.onMe_regs (s : State) (c : Cur) (f : Ctx → Ctx) : (s.onMe c f).regs = s.regs := rfl
@[simp] theorem State.onMe_log (s : State) (c : Cur) (f : Ctx → Ctx) : (s.onMe c f).log = s.log := rfl
@[simp] theorem State.onMe_boot (s : State) (c : Cur) (f : Ctx → Ctx) : (s.onMe c f).boot = s.boot := rfl
@[simp] theorem State.onMe_fuses (s : State) (c : Cur) (f : Ctx → Ctx) : (s.onMe c f).fuses = s.fuses := rfl
@[simp] theorem State.onMe_sys (s : State) (c : Cur) (f : Ctx → Ctx) : (s.onMe c f).sys = s.sys := rfl
@[simp] theorem State.onMe_perf (s : State) (c : Cur) (f : Ctx → Ctx) : (s.onMe c f).perf = s.perf := rfl
@[simp] theorem State.onMe_pipes (s : State) (c : Cur) (f : Ctx → Ctx) : (s.onMe c f).pipes = s.pipes := rfl
@[simp] theorem State.onMe_splits (s : State) (c : Cur) (f : Ctx → Ctx) : (s.onMe c f).splits = s.splits := rfl
@[simp] theorem State.onMe_cycle (s : State) (c : Cur) (f : Ctx → Ctx) : (s.onMe c f).cycle = s.cycle := rfl
@[simp] theorem State.onMe_agenda (s : State) (c : Cur) (f : Ctx → Ctx) : (s.onMe c f).agenda = s.agenda := rfl
@[simp] theorem State.onMe_fresh (s : State) (c : Cur) (f : Ctx → Ctx) : (s.onMe c f).fresh = s.fresh := rfl
@[simp] theorem State.onMe_cur (s : State) (c : Cur) (f : Ctx → Ctx) : (s.onMe c f).cur = s.cur := rfl
@[simp] theorem State.onMe_arg (s : State) (c : Cur) (f : Ctx → Ctx) : (s.onMe c f).arg = s.arg := rfl
@[simp] theorem State.onMe_nextHandle (s : State) (c : Cur) (f : Ctx → Ctx) : (s.onMe c f).nextHandle = s.nextHandle := rfl
@[simp] theorem State.onMe_nextUid (s : State) (c : Cur) (f : Ctx → Ctx) : (s.onMe c f).nextUid = s.nextUid := rfl

/-! ## setCluster -/

@[simp] theorem State.setCluster_ctxs (s : State) (cl : Nat) (c : Cluster) : (s.setCluster cl c).ctxs = s.ctxs := rfl
@[simp] theorem State.setCluster_mcores (s : State) (cl : Nat) (c : Cluster) : (s.setCluster cl c).mcores = s.mcores := rfl
@[simp] theorem State.setCluster_dies (s : State) (cl : Nat) (c : Cluster) : (s.setCluster cl c).dies = s.dies := rfl
@[simp] theorem State.setCluster_keystones (s : State) (cl : Nat) (c : Cluster) : (s.setCluster cl c).keystones = s.keystones := rfl
@[simp] theorem State.setCluster_launches (s : State) (cl : Nat) (c : Cluster) : (s.setCluster cl c).launches = s.launches := rfl
@[simp] theorem State.setCluster_chains (s : State) (cl : Nat) (c : Cluster) : (s.setCluster cl c).chains = s.chains := rfl
@[simp] theorem State.setCluster_mem (s : State) (cl : Nat) (c : Cluster) : (s.setCluster cl c).mem = s.mem := rfl
@[simp] theorem State.setCluster_poison (s : State) (cl : Nat) (c : Cluster) : (s.setCluster cl c).poison = s.poison := rfl
@[simp] theorem State.setCluster_frozen (s : State) (cl : Nat) (c : Cluster) : (s.setCluster cl c).frozen = s.frozen := rfl
@[simp] theorem State.setCluster_caches (s : State) (cl : Nat) (c : Cluster) : (s.setCluster cl c).caches = s.caches := rfl
@[simp] theorem State.setCluster_rstores (s : State) (cl : Nat) (c : Cluster) : (s.setCluster cl c).rstores = s.rstores := rfl
@[simp] theorem State.setCluster_ldfes (s : State) (cl : Nat) (c : Cluster) : (s.setCluster cl c).ldfes = s.ldfes := rfl
@[simp] theorem State.setCluster_pins (s : State) (cl : Nat) (c : Cluster) : (s.setCluster cl c).pins = s.pins := rfl
@[simp] theorem State.setCluster_moves (s : State) (cl : Nat) (c : Cluster) : (s.setCluster cl c).moves = s.moves := rfl
@[simp] theorem State.setCluster_opDenials (s : State) (cl : Nat) (c : Cluster) : (s.setCluster cl c).opDenials = s.opDenials := rfl
@[simp] theorem State.setCluster_posts (s : State) (cl : Nat) (c : Cluster) : (s.setCluster cl c).posts = s.posts := rfl
@[simp] theorem State.setCluster_charges (s : State) (cl : Nat) (c : Cluster) : (s.setCluster cl c).charges = s.charges := rfl
@[simp] theorem State.setCluster_net (s : State) (cl : Nat) (c : Cluster) : (s.setCluster cl c).net = s.net := rfl
@[simp] theorem State.setCluster_regs (s : State) (cl : Nat) (c : Cluster) : (s.setCluster cl c).regs = s.regs := rfl
@[simp] theorem State.setCluster_log (s : State) (cl : Nat) (c : Cluster) : (s.setCluster cl c).log = s.log := rfl
@[simp] theorem State.setCluster_boot (s : State) (cl : Nat) (c : Cluster) : (s.setCluster cl c).boot = s.boot := rfl
@[simp] theorem State.setCluster_fuses (s : State) (cl : Nat) (c : Cluster) : (s.setCluster cl c).fuses = s.fuses := rfl
@[simp] theorem State.setCluster_sys (s : State) (cl : Nat) (c : Cluster) : (s.setCluster cl c).sys = s.sys := rfl
@[simp] theorem State.setCluster_perf (s : State) (cl : Nat) (c : Cluster) : (s.setCluster cl c).perf = s.perf := rfl
@[simp] theorem State.setCluster_pipes (s : State) (cl : Nat) (c : Cluster) : (s.setCluster cl c).pipes = s.pipes := rfl
@[simp] theorem State.setCluster_splits (s : State) (cl : Nat) (c : Cluster) : (s.setCluster cl c).splits = s.splits := rfl
@[simp] theorem State.setCluster_cycle (s : State) (cl : Nat) (c : Cluster) : (s.setCluster cl c).cycle = s.cycle := rfl
@[simp] theorem State.setCluster_agenda (s : State) (cl : Nat) (c : Cluster) : (s.setCluster cl c).agenda = s.agenda := rfl
@[simp] theorem State.setCluster_fresh (s : State) (cl : Nat) (c : Cluster) : (s.setCluster cl c).fresh = s.fresh := rfl
@[simp] theorem State.setCluster_cur (s : State) (cl : Nat) (c : Cluster) : (s.setCluster cl c).cur = s.cur := rfl
@[simp] theorem State.setCluster_arg (s : State) (cl : Nat) (c : Cluster) : (s.setCluster cl c).arg = s.arg := rfl
@[simp] theorem State.setCluster_nextHandle (s : State) (cl : Nat) (c : Cluster) : (s.setCluster cl c).nextHandle = s.nextHandle := rfl
@[simp] theorem State.setCluster_nextUid (s : State) (cl : Nat) (c : Cluster) : (s.setCluster cl c).nextUid = s.nextUid := rfl

/-! ## modCluster -/

@[simp] theorem State.modCluster_ctxs (s : State) (cl : Nat) (f : Cluster → Cluster) : (s.modCluster cl f).ctxs = s.ctxs := rfl
@[simp] theorem State.modCluster_mcores (s : State) (cl : Nat) (f : Cluster → Cluster) : (s.modCluster cl f).mcores = s.mcores := rfl
@[simp] theorem State.modCluster_dies (s : State) (cl : Nat) (f : Cluster → Cluster) : (s.modCluster cl f).dies = s.dies := rfl
@[simp] theorem State.modCluster_keystones (s : State) (cl : Nat) (f : Cluster → Cluster) : (s.modCluster cl f).keystones = s.keystones := rfl
@[simp] theorem State.modCluster_launches (s : State) (cl : Nat) (f : Cluster → Cluster) : (s.modCluster cl f).launches = s.launches := rfl
@[simp] theorem State.modCluster_chains (s : State) (cl : Nat) (f : Cluster → Cluster) : (s.modCluster cl f).chains = s.chains := rfl
@[simp] theorem State.modCluster_mem (s : State) (cl : Nat) (f : Cluster → Cluster) : (s.modCluster cl f).mem = s.mem := rfl
@[simp] theorem State.modCluster_poison (s : State) (cl : Nat) (f : Cluster → Cluster) : (s.modCluster cl f).poison = s.poison := rfl
@[simp] theorem State.modCluster_frozen (s : State) (cl : Nat) (f : Cluster → Cluster) : (s.modCluster cl f).frozen = s.frozen := rfl
@[simp] theorem State.modCluster_caches (s : State) (cl : Nat) (f : Cluster → Cluster) : (s.modCluster cl f).caches = s.caches := rfl
@[simp] theorem State.modCluster_rstores (s : State) (cl : Nat) (f : Cluster → Cluster) : (s.modCluster cl f).rstores = s.rstores := rfl
@[simp] theorem State.modCluster_ldfes (s : State) (cl : Nat) (f : Cluster → Cluster) : (s.modCluster cl f).ldfes = s.ldfes := rfl
@[simp] theorem State.modCluster_pins (s : State) (cl : Nat) (f : Cluster → Cluster) : (s.modCluster cl f).pins = s.pins := rfl
@[simp] theorem State.modCluster_moves (s : State) (cl : Nat) (f : Cluster → Cluster) : (s.modCluster cl f).moves = s.moves := rfl
@[simp] theorem State.modCluster_opDenials (s : State) (cl : Nat) (f : Cluster → Cluster) : (s.modCluster cl f).opDenials = s.opDenials := rfl
@[simp] theorem State.modCluster_posts (s : State) (cl : Nat) (f : Cluster → Cluster) : (s.modCluster cl f).posts = s.posts := rfl
@[simp] theorem State.modCluster_charges (s : State) (cl : Nat) (f : Cluster → Cluster) : (s.modCluster cl f).charges = s.charges := rfl
@[simp] theorem State.modCluster_net (s : State) (cl : Nat) (f : Cluster → Cluster) : (s.modCluster cl f).net = s.net := rfl
@[simp] theorem State.modCluster_regs (s : State) (cl : Nat) (f : Cluster → Cluster) : (s.modCluster cl f).regs = s.regs := rfl
@[simp] theorem State.modCluster_log (s : State) (cl : Nat) (f : Cluster → Cluster) : (s.modCluster cl f).log = s.log := rfl
@[simp] theorem State.modCluster_boot (s : State) (cl : Nat) (f : Cluster → Cluster) : (s.modCluster cl f).boot = s.boot := rfl
@[simp] theorem State.modCluster_fuses (s : State) (cl : Nat) (f : Cluster → Cluster) : (s.modCluster cl f).fuses = s.fuses := rfl
@[simp] theorem State.modCluster_sys (s : State) (cl : Nat) (f : Cluster → Cluster) : (s.modCluster cl f).sys = s.sys := rfl
@[simp] theorem State.modCluster_perf (s : State) (cl : Nat) (f : Cluster → Cluster) : (s.modCluster cl f).perf = s.perf := rfl
@[simp] theorem State.modCluster_pipes (s : State) (cl : Nat) (f : Cluster → Cluster) : (s.modCluster cl f).pipes = s.pipes := rfl
@[simp] theorem State.modCluster_splits (s : State) (cl : Nat) (f : Cluster → Cluster) : (s.modCluster cl f).splits = s.splits := rfl
@[simp] theorem State.modCluster_cycle (s : State) (cl : Nat) (f : Cluster → Cluster) : (s.modCluster cl f).cycle = s.cycle := rfl
@[simp] theorem State.modCluster_agenda (s : State) (cl : Nat) (f : Cluster → Cluster) : (s.modCluster cl f).agenda = s.agenda := rfl
@[simp] theorem State.modCluster_fresh (s : State) (cl : Nat) (f : Cluster → Cluster) : (s.modCluster cl f).fresh = s.fresh := rfl
@[simp] theorem State.modCluster_cur (s : State) (cl : Nat) (f : Cluster → Cluster) : (s.modCluster cl f).cur = s.cur := rfl
@[simp] theorem State.modCluster_arg (s : State) (cl : Nat) (f : Cluster → Cluster) : (s.modCluster cl f).arg = s.arg := rfl
@[simp] theorem State.modCluster_nextHandle (s : State) (cl : Nat) (f : Cluster → Cluster) : (s.modCluster cl f).nextHandle = s.nextHandle := rfl
@[simp] theorem State.modCluster_nextUid (s : State) (cl : Nat) (f : Cluster → Cluster) : (s.modCluster cl f).nextUid = s.nextUid := rfl

/-! ## modDie -/

@[simp] theorem State.modDie_ctxs (s : State) (d : Nat) (f : Die → Die) : (s.modDie d f).ctxs = s.ctxs := rfl
@[simp] theorem State.modDie_clusters (s : State) (d : Nat) (f : Die → Die) : (s.modDie d f).clusters = s.clusters := rfl
@[simp] theorem State.modDie_mcores (s : State) (d : Nat) (f : Die → Die) : (s.modDie d f).mcores = s.mcores := rfl
@[simp] theorem State.modDie_keystones (s : State) (d : Nat) (f : Die → Die) : (s.modDie d f).keystones = s.keystones := rfl
@[simp] theorem State.modDie_launches (s : State) (d : Nat) (f : Die → Die) : (s.modDie d f).launches = s.launches := rfl
@[simp] theorem State.modDie_chains (s : State) (d : Nat) (f : Die → Die) : (s.modDie d f).chains = s.chains := rfl
@[simp] theorem State.modDie_mem (s : State) (d : Nat) (f : Die → Die) : (s.modDie d f).mem = s.mem := rfl
@[simp] theorem State.modDie_poison (s : State) (d : Nat) (f : Die → Die) : (s.modDie d f).poison = s.poison := rfl
@[simp] theorem State.modDie_frozen (s : State) (d : Nat) (f : Die → Die) : (s.modDie d f).frozen = s.frozen := rfl
@[simp] theorem State.modDie_caches (s : State) (d : Nat) (f : Die → Die) : (s.modDie d f).caches = s.caches := rfl
@[simp] theorem State.modDie_rstores (s : State) (d : Nat) (f : Die → Die) : (s.modDie d f).rstores = s.rstores := rfl
@[simp] theorem State.modDie_ldfes (s : State) (d : Nat) (f : Die → Die) : (s.modDie d f).ldfes = s.ldfes := rfl
@[simp] theorem State.modDie_pins (s : State) (d : Nat) (f : Die → Die) : (s.modDie d f).pins = s.pins := rfl
@[simp] theorem State.modDie_moves (s : State) (d : Nat) (f : Die → Die) : (s.modDie d f).moves = s.moves := rfl
@[simp] theorem State.modDie_opDenials (s : State) (d : Nat) (f : Die → Die) : (s.modDie d f).opDenials = s.opDenials := rfl
@[simp] theorem State.modDie_posts (s : State) (d : Nat) (f : Die → Die) : (s.modDie d f).posts = s.posts := rfl
@[simp] theorem State.modDie_charges (s : State) (d : Nat) (f : Die → Die) : (s.modDie d f).charges = s.charges := rfl
@[simp] theorem State.modDie_net (s : State) (d : Nat) (f : Die → Die) : (s.modDie d f).net = s.net := rfl
@[simp] theorem State.modDie_regs (s : State) (d : Nat) (f : Die → Die) : (s.modDie d f).regs = s.regs := rfl
@[simp] theorem State.modDie_log (s : State) (d : Nat) (f : Die → Die) : (s.modDie d f).log = s.log := rfl
@[simp] theorem State.modDie_boot (s : State) (d : Nat) (f : Die → Die) : (s.modDie d f).boot = s.boot := rfl
@[simp] theorem State.modDie_fuses (s : State) (d : Nat) (f : Die → Die) : (s.modDie d f).fuses = s.fuses := rfl
@[simp] theorem State.modDie_sys (s : State) (d : Nat) (f : Die → Die) : (s.modDie d f).sys = s.sys := rfl
@[simp] theorem State.modDie_perf (s : State) (d : Nat) (f : Die → Die) : (s.modDie d f).perf = s.perf := rfl
@[simp] theorem State.modDie_pipes (s : State) (d : Nat) (f : Die → Die) : (s.modDie d f).pipes = s.pipes := rfl
@[simp] theorem State.modDie_splits (s : State) (d : Nat) (f : Die → Die) : (s.modDie d f).splits = s.splits := rfl
@[simp] theorem State.modDie_cycle (s : State) (d : Nat) (f : Die → Die) : (s.modDie d f).cycle = s.cycle := rfl
@[simp] theorem State.modDie_agenda (s : State) (d : Nat) (f : Die → Die) : (s.modDie d f).agenda = s.agenda := rfl
@[simp] theorem State.modDie_fresh (s : State) (d : Nat) (f : Die → Die) : (s.modDie d f).fresh = s.fresh := rfl
@[simp] theorem State.modDie_cur (s : State) (d : Nat) (f : Die → Die) : (s.modDie d f).cur = s.cur := rfl
@[simp] theorem State.modDie_arg (s : State) (d : Nat) (f : Die → Die) : (s.modDie d f).arg = s.arg := rfl
@[simp] theorem State.modDie_nextHandle (s : State) (d : Nat) (f : Die → Die) : (s.modDie d f).nextHandle = s.nextHandle := rfl
@[simp] theorem State.modDie_nextUid (s : State) (d : Nat) (f : Die → Die) : (s.modDie d f).nextUid = s.nextUid := rfl

/-! ## modChain -/

@[simp] theorem State.modChain_ctxs (s : State) (n : Nat) (f : CmdChain → CmdChain) : (s.modChain n f).ctxs = s.ctxs := rfl
@[simp] theorem State.modChain_clusters (s : State) (n : Nat) (f : CmdChain → CmdChain) : (s.modChain n f).clusters = s.clusters := rfl
@[simp] theorem State.modChain_mcores (s : State) (n : Nat) (f : CmdChain → CmdChain) : (s.modChain n f).mcores = s.mcores := rfl
@[simp] theorem State.modChain_dies (s : State) (n : Nat) (f : CmdChain → CmdChain) : (s.modChain n f).dies = s.dies := rfl
@[simp] theorem State.modChain_keystones (s : State) (n : Nat) (f : CmdChain → CmdChain) : (s.modChain n f).keystones = s.keystones := rfl
@[simp] theorem State.modChain_launches (s : State) (n : Nat) (f : CmdChain → CmdChain) : (s.modChain n f).launches = s.launches := rfl
@[simp] theorem State.modChain_mem (s : State) (n : Nat) (f : CmdChain → CmdChain) : (s.modChain n f).mem = s.mem := rfl
@[simp] theorem State.modChain_poison (s : State) (n : Nat) (f : CmdChain → CmdChain) : (s.modChain n f).poison = s.poison := rfl
@[simp] theorem State.modChain_frozen (s : State) (n : Nat) (f : CmdChain → CmdChain) : (s.modChain n f).frozen = s.frozen := rfl
@[simp] theorem State.modChain_caches (s : State) (n : Nat) (f : CmdChain → CmdChain) : (s.modChain n f).caches = s.caches := rfl
@[simp] theorem State.modChain_rstores (s : State) (n : Nat) (f : CmdChain → CmdChain) : (s.modChain n f).rstores = s.rstores := rfl
@[simp] theorem State.modChain_ldfes (s : State) (n : Nat) (f : CmdChain → CmdChain) : (s.modChain n f).ldfes = s.ldfes := rfl
@[simp] theorem State.modChain_pins (s : State) (n : Nat) (f : CmdChain → CmdChain) : (s.modChain n f).pins = s.pins := rfl
@[simp] theorem State.modChain_moves (s : State) (n : Nat) (f : CmdChain → CmdChain) : (s.modChain n f).moves = s.moves := rfl
@[simp] theorem State.modChain_opDenials (s : State) (n : Nat) (f : CmdChain → CmdChain) : (s.modChain n f).opDenials = s.opDenials := rfl
@[simp] theorem State.modChain_posts (s : State) (n : Nat) (f : CmdChain → CmdChain) : (s.modChain n f).posts = s.posts := rfl
@[simp] theorem State.modChain_charges (s : State) (n : Nat) (f : CmdChain → CmdChain) : (s.modChain n f).charges = s.charges := rfl
@[simp] theorem State.modChain_net (s : State) (n : Nat) (f : CmdChain → CmdChain) : (s.modChain n f).net = s.net := rfl
@[simp] theorem State.modChain_regs (s : State) (n : Nat) (f : CmdChain → CmdChain) : (s.modChain n f).regs = s.regs := rfl
@[simp] theorem State.modChain_log (s : State) (n : Nat) (f : CmdChain → CmdChain) : (s.modChain n f).log = s.log := rfl
@[simp] theorem State.modChain_boot (s : State) (n : Nat) (f : CmdChain → CmdChain) : (s.modChain n f).boot = s.boot := rfl
@[simp] theorem State.modChain_fuses (s : State) (n : Nat) (f : CmdChain → CmdChain) : (s.modChain n f).fuses = s.fuses := rfl
@[simp] theorem State.modChain_sys (s : State) (n : Nat) (f : CmdChain → CmdChain) : (s.modChain n f).sys = s.sys := rfl
@[simp] theorem State.modChain_perf (s : State) (n : Nat) (f : CmdChain → CmdChain) : (s.modChain n f).perf = s.perf := rfl
@[simp] theorem State.modChain_pipes (s : State) (n : Nat) (f : CmdChain → CmdChain) : (s.modChain n f).pipes = s.pipes := rfl
@[simp] theorem State.modChain_splits (s : State) (n : Nat) (f : CmdChain → CmdChain) : (s.modChain n f).splits = s.splits := rfl
@[simp] theorem State.modChain_cycle (s : State) (n : Nat) (f : CmdChain → CmdChain) : (s.modChain n f).cycle = s.cycle := rfl
@[simp] theorem State.modChain_agenda (s : State) (n : Nat) (f : CmdChain → CmdChain) : (s.modChain n f).agenda = s.agenda := rfl
@[simp] theorem State.modChain_fresh (s : State) (n : Nat) (f : CmdChain → CmdChain) : (s.modChain n f).fresh = s.fresh := rfl
@[simp] theorem State.modChain_cur (s : State) (n : Nat) (f : CmdChain → CmdChain) : (s.modChain n f).cur = s.cur := rfl
@[simp] theorem State.modChain_arg (s : State) (n : Nat) (f : CmdChain → CmdChain) : (s.modChain n f).arg = s.arg := rfl
@[simp] theorem State.modChain_nextHandle (s : State) (n : Nat) (f : CmdChain → CmdChain) : (s.modChain n f).nextHandle = s.nextHandle := rfl
@[simp] theorem State.modChain_nextUid (s : State) (n : Nat) (f : CmdChain → CmdChain) : (s.modChain n f).nextUid = s.nextUid := rfl

/-! ## modMcore -/

@[simp] theorem State.modMcore_ctxs (s : State) (m : Nat) (f : MemCore → MemCore) : (s.modMcore m f).ctxs = s.ctxs := rfl
@[simp] theorem State.modMcore_clusters (s : State) (m : Nat) (f : MemCore → MemCore) : (s.modMcore m f).clusters = s.clusters := rfl
@[simp] theorem State.modMcore_dies (s : State) (m : Nat) (f : MemCore → MemCore) : (s.modMcore m f).dies = s.dies := rfl
@[simp] theorem State.modMcore_keystones (s : State) (m : Nat) (f : MemCore → MemCore) : (s.modMcore m f).keystones = s.keystones := rfl
@[simp] theorem State.modMcore_launches (s : State) (m : Nat) (f : MemCore → MemCore) : (s.modMcore m f).launches = s.launches := rfl
@[simp] theorem State.modMcore_chains (s : State) (m : Nat) (f : MemCore → MemCore) : (s.modMcore m f).chains = s.chains := rfl
@[simp] theorem State.modMcore_mem (s : State) (m : Nat) (f : MemCore → MemCore) : (s.modMcore m f).mem = s.mem := rfl
@[simp] theorem State.modMcore_poison (s : State) (m : Nat) (f : MemCore → MemCore) : (s.modMcore m f).poison = s.poison := rfl
@[simp] theorem State.modMcore_frozen (s : State) (m : Nat) (f : MemCore → MemCore) : (s.modMcore m f).frozen = s.frozen := rfl
@[simp] theorem State.modMcore_caches (s : State) (m : Nat) (f : MemCore → MemCore) : (s.modMcore m f).caches = s.caches := rfl
@[simp] theorem State.modMcore_rstores (s : State) (m : Nat) (f : MemCore → MemCore) : (s.modMcore m f).rstores = s.rstores := rfl
@[simp] theorem State.modMcore_ldfes (s : State) (m : Nat) (f : MemCore → MemCore) : (s.modMcore m f).ldfes = s.ldfes := rfl
@[simp] theorem State.modMcore_pins (s : State) (m : Nat) (f : MemCore → MemCore) : (s.modMcore m f).pins = s.pins := rfl
@[simp] theorem State.modMcore_moves (s : State) (m : Nat) (f : MemCore → MemCore) : (s.modMcore m f).moves = s.moves := rfl
@[simp] theorem State.modMcore_opDenials (s : State) (m : Nat) (f : MemCore → MemCore) : (s.modMcore m f).opDenials = s.opDenials := rfl
@[simp] theorem State.modMcore_posts (s : State) (m : Nat) (f : MemCore → MemCore) : (s.modMcore m f).posts = s.posts := rfl
@[simp] theorem State.modMcore_charges (s : State) (m : Nat) (f : MemCore → MemCore) : (s.modMcore m f).charges = s.charges := rfl
@[simp] theorem State.modMcore_net (s : State) (m : Nat) (f : MemCore → MemCore) : (s.modMcore m f).net = s.net := rfl
@[simp] theorem State.modMcore_regs (s : State) (m : Nat) (f : MemCore → MemCore) : (s.modMcore m f).regs = s.regs := rfl
@[simp] theorem State.modMcore_log (s : State) (m : Nat) (f : MemCore → MemCore) : (s.modMcore m f).log = s.log := rfl
@[simp] theorem State.modMcore_boot (s : State) (m : Nat) (f : MemCore → MemCore) : (s.modMcore m f).boot = s.boot := rfl
@[simp] theorem State.modMcore_fuses (s : State) (m : Nat) (f : MemCore → MemCore) : (s.modMcore m f).fuses = s.fuses := rfl
@[simp] theorem State.modMcore_sys (s : State) (m : Nat) (f : MemCore → MemCore) : (s.modMcore m f).sys = s.sys := rfl
@[simp] theorem State.modMcore_perf (s : State) (m : Nat) (f : MemCore → MemCore) : (s.modMcore m f).perf = s.perf := rfl
@[simp] theorem State.modMcore_pipes (s : State) (m : Nat) (f : MemCore → MemCore) : (s.modMcore m f).pipes = s.pipes := rfl
@[simp] theorem State.modMcore_splits (s : State) (m : Nat) (f : MemCore → MemCore) : (s.modMcore m f).splits = s.splits := rfl
@[simp] theorem State.modMcore_cycle (s : State) (m : Nat) (f : MemCore → MemCore) : (s.modMcore m f).cycle = s.cycle := rfl
@[simp] theorem State.modMcore_agenda (s : State) (m : Nat) (f : MemCore → MemCore) : (s.modMcore m f).agenda = s.agenda := rfl
@[simp] theorem State.modMcore_fresh (s : State) (m : Nat) (f : MemCore → MemCore) : (s.modMcore m f).fresh = s.fresh := rfl
@[simp] theorem State.modMcore_cur (s : State) (m : Nat) (f : MemCore → MemCore) : (s.modMcore m f).cur = s.cur := rfl
@[simp] theorem State.modMcore_arg (s : State) (m : Nat) (f : MemCore → MemCore) : (s.modMcore m f).arg = s.arg := rfl
@[simp] theorem State.modMcore_nextHandle (s : State) (m : Nat) (f : MemCore → MemCore) : (s.modMcore m f).nextHandle = s.nextHandle := rfl
@[simp] theorem State.modMcore_nextUid (s : State) (m : Nat) (f : MemCore → MemCore) : (s.modMcore m f).nextUid = s.nextUid := rfl

/-! ## setPhys -/

@[simp] theorem State.setPhys_ctxs (s : State) (a : Nat) (v : Word) : (s.setPhys a v).ctxs = s.ctxs := rfl
@[simp] theorem State.setPhys_clusters (s : State) (a : Nat) (v : Word) : (s.setPhys a v).clusters = s.clusters := rfl
@[simp] theorem State.setPhys_mcores (s : State) (a : Nat) (v : Word) : (s.setPhys a v).mcores = s.mcores := rfl
@[simp] theorem State.setPhys_dies (s : State) (a : Nat) (v : Word) : (s.setPhys a v).dies = s.dies := rfl
@[simp] theorem State.setPhys_keystones (s : State) (a : Nat) (v : Word) : (s.setPhys a v).keystones = s.keystones := rfl
@[simp] theorem State.setPhys_launches (s : State) (a : Nat) (v : Word) : (s.setPhys a v).launches = s.launches := rfl
@[simp] theorem State.setPhys_chains (s : State) (a : Nat) (v : Word) : (s.setPhys a v).chains = s.chains := rfl
@[simp] theorem State.setPhys_frozen (s : State) (a : Nat) (v : Word) : (s.setPhys a v).frozen = s.frozen := rfl
@[simp] theorem State.setPhys_caches (s : State) (a : Nat) (v : Word) : (s.setPhys a v).caches = s.caches := rfl
@[simp] theorem State.setPhys_rstores (s : State) (a : Nat) (v : Word) : (s.setPhys a v).rstores = s.rstores := rfl
@[simp] theorem State.setPhys_ldfes (s : State) (a : Nat) (v : Word) : (s.setPhys a v).ldfes = s.ldfes := rfl
@[simp] theorem State.setPhys_pins (s : State) (a : Nat) (v : Word) : (s.setPhys a v).pins = s.pins := rfl
@[simp] theorem State.setPhys_moves (s : State) (a : Nat) (v : Word) : (s.setPhys a v).moves = s.moves := rfl
@[simp] theorem State.setPhys_opDenials (s : State) (a : Nat) (v : Word) : (s.setPhys a v).opDenials = s.opDenials := rfl
@[simp] theorem State.setPhys_posts (s : State) (a : Nat) (v : Word) : (s.setPhys a v).posts = s.posts := rfl
@[simp] theorem State.setPhys_charges (s : State) (a : Nat) (v : Word) : (s.setPhys a v).charges = s.charges := rfl
@[simp] theorem State.setPhys_net (s : State) (a : Nat) (v : Word) : (s.setPhys a v).net = s.net := rfl
@[simp] theorem State.setPhys_regs (s : State) (a : Nat) (v : Word) : (s.setPhys a v).regs = s.regs := rfl
@[simp] theorem State.setPhys_log (s : State) (a : Nat) (v : Word) : (s.setPhys a v).log = s.log := rfl
@[simp] theorem State.setPhys_boot (s : State) (a : Nat) (v : Word) : (s.setPhys a v).boot = s.boot := rfl
@[simp] theorem State.setPhys_fuses (s : State) (a : Nat) (v : Word) : (s.setPhys a v).fuses = s.fuses := rfl
@[simp] theorem State.setPhys_sys (s : State) (a : Nat) (v : Word) : (s.setPhys a v).sys = s.sys := rfl
@[simp] theorem State.setPhys_perf (s : State) (a : Nat) (v : Word) : (s.setPhys a v).perf = s.perf := rfl
@[simp] theorem State.setPhys_pipes (s : State) (a : Nat) (v : Word) : (s.setPhys a v).pipes = s.pipes := rfl
@[simp] theorem State.setPhys_splits (s : State) (a : Nat) (v : Word) : (s.setPhys a v).splits = s.splits := rfl
@[simp] theorem State.setPhys_cycle (s : State) (a : Nat) (v : Word) : (s.setPhys a v).cycle = s.cycle := rfl
@[simp] theorem State.setPhys_agenda (s : State) (a : Nat) (v : Word) : (s.setPhys a v).agenda = s.agenda := rfl
@[simp] theorem State.setPhys_fresh (s : State) (a : Nat) (v : Word) : (s.setPhys a v).fresh = s.fresh := rfl
@[simp] theorem State.setPhys_cur (s : State) (a : Nat) (v : Word) : (s.setPhys a v).cur = s.cur := rfl
@[simp] theorem State.setPhys_arg (s : State) (a : Nat) (v : Word) : (s.setPhys a v).arg = s.arg := rfl
@[simp] theorem State.setPhys_nextHandle (s : State) (a : Nat) (v : Word) : (s.setPhys a v).nextHandle = s.nextHandle := rfl
@[simp] theorem State.setPhys_nextUid (s : State) (a : Nat) (v : Word) : (s.setPhys a v).nextUid = s.nextUid := rfl

/-! ## setPoison -/

@[simp] theorem State.setPoison_ctxs (s : State) (a : Nat) : (s.setPoison a).ctxs = s.ctxs := rfl
@[simp] theorem State.setPoison_clusters (s : State) (a : Nat) : (s.setPoison a).clusters = s.clusters := rfl
@[simp] theorem State.setPoison_mcores (s : State) (a : Nat) : (s.setPoison a).mcores = s.mcores := rfl
@[simp] theorem State.setPoison_dies (s : State) (a : Nat) : (s.setPoison a).dies = s.dies := rfl
@[simp] theorem State.setPoison_keystones (s : State) (a : Nat) : (s.setPoison a).keystones = s.keystones := rfl
@[simp] theorem State.setPoison_launches (s : State) (a : Nat) : (s.setPoison a).launches = s.launches := rfl
@[simp] theorem State.setPoison_chains (s : State) (a : Nat) : (s.setPoison a).chains = s.chains := rfl
@[simp] theorem State.setPoison_mem (s : State) (a : Nat) : (s.setPoison a).mem = s.mem := rfl
@[simp] theorem State.setPoison_frozen (s : State) (a : Nat) : (s.setPoison a).frozen = s.frozen := rfl
@[simp] theorem State.setPoison_caches (s : State) (a : Nat) : (s.setPoison a).caches = s.caches := rfl
@[simp] theorem State.setPoison_rstores (s : State) (a : Nat) : (s.setPoison a).rstores = s.rstores := rfl
@[simp] theorem State.setPoison_ldfes (s : State) (a : Nat) : (s.setPoison a).ldfes = s.ldfes := rfl
@[simp] theorem State.setPoison_pins (s : State) (a : Nat) : (s.setPoison a).pins = s.pins := rfl
@[simp] theorem State.setPoison_moves (s : State) (a : Nat) : (s.setPoison a).moves = s.moves := rfl
@[simp] theorem State.setPoison_opDenials (s : State) (a : Nat) : (s.setPoison a).opDenials = s.opDenials := rfl
@[simp] theorem State.setPoison_posts (s : State) (a : Nat) : (s.setPoison a).posts = s.posts := rfl
@[simp] theorem State.setPoison_charges (s : State) (a : Nat) : (s.setPoison a).charges = s.charges := rfl
@[simp] theorem State.setPoison_net (s : State) (a : Nat) : (s.setPoison a).net = s.net := rfl
@[simp] theorem State.setPoison_regs (s : State) (a : Nat) : (s.setPoison a).regs = s.regs := rfl
@[simp] theorem State.setPoison_log (s : State) (a : Nat) : (s.setPoison a).log = s.log := rfl
@[simp] theorem State.setPoison_boot (s : State) (a : Nat) : (s.setPoison a).boot = s.boot := rfl
@[simp] theorem State.setPoison_fuses (s : State) (a : Nat) : (s.setPoison a).fuses = s.fuses := rfl
@[simp] theorem State.setPoison_sys (s : State) (a : Nat) : (s.setPoison a).sys = s.sys := rfl
@[simp] theorem State.setPoison_perf (s : State) (a : Nat) : (s.setPoison a).perf = s.perf := rfl
@[simp] theorem State.setPoison_pipes (s : State) (a : Nat) : (s.setPoison a).pipes = s.pipes := rfl
@[simp] theorem State.setPoison_splits (s : State) (a : Nat) : (s.setPoison a).splits = s.splits := rfl
@[simp] theorem State.setPoison_cycle (s : State) (a : Nat) : (s.setPoison a).cycle = s.cycle := rfl
@[simp] theorem State.setPoison_agenda (s : State) (a : Nat) : (s.setPoison a).agenda = s.agenda := rfl
@[simp] theorem State.setPoison_fresh (s : State) (a : Nat) : (s.setPoison a).fresh = s.fresh := rfl
@[simp] theorem State.setPoison_cur (s : State) (a : Nat) : (s.setPoison a).cur = s.cur := rfl
@[simp] theorem State.setPoison_arg (s : State) (a : Nat) : (s.setPoison a).arg = s.arg := rfl
@[simp] theorem State.setPoison_nextHandle (s : State) (a : Nat) : (s.setPoison a).nextHandle = s.nextHandle := rfl
@[simp] theorem State.setPoison_nextUid (s : State) (a : Nat) : (s.setPoison a).nextUid = s.nextUid := rfl

/-! ## count -/

@[simp] theorem State.count_ctxs (s : State) (core n : Nat) : (s.count core n).ctxs = s.ctxs := rfl
@[simp] theorem State.count_clusters (s : State) (core n : Nat) : (s.count core n).clusters = s.clusters := rfl
@[simp] theorem State.count_mcores (s : State) (core n : Nat) : (s.count core n).mcores = s.mcores := rfl
@[simp] theorem State.count_dies (s : State) (core n : Nat) : (s.count core n).dies = s.dies := rfl
@[simp] theorem State.count_keystones (s : State) (core n : Nat) : (s.count core n).keystones = s.keystones := rfl
@[simp] theorem State.count_launches (s : State) (core n : Nat) : (s.count core n).launches = s.launches := rfl
@[simp] theorem State.count_chains (s : State) (core n : Nat) : (s.count core n).chains = s.chains := rfl
@[simp] theorem State.count_mem (s : State) (core n : Nat) : (s.count core n).mem = s.mem := rfl
@[simp] theorem State.count_poison (s : State) (core n : Nat) : (s.count core n).poison = s.poison := rfl
@[simp] theorem State.count_frozen (s : State) (core n : Nat) : (s.count core n).frozen = s.frozen := rfl
@[simp] theorem State.count_caches (s : State) (core n : Nat) : (s.count core n).caches = s.caches := rfl
@[simp] theorem State.count_rstores (s : State) (core n : Nat) : (s.count core n).rstores = s.rstores := rfl
@[simp] theorem State.count_ldfes (s : State) (core n : Nat) : (s.count core n).ldfes = s.ldfes := rfl
@[simp] theorem State.count_pins (s : State) (core n : Nat) : (s.count core n).pins = s.pins := rfl
@[simp] theorem State.count_moves (s : State) (core n : Nat) : (s.count core n).moves = s.moves := rfl
@[simp] theorem State.count_opDenials (s : State) (core n : Nat) : (s.count core n).opDenials = s.opDenials := rfl
@[simp] theorem State.count_posts (s : State) (core n : Nat) : (s.count core n).posts = s.posts := rfl
@[simp] theorem State.count_charges (s : State) (core n : Nat) : (s.count core n).charges = s.charges := rfl
@[simp] theorem State.count_net (s : State) (core n : Nat) : (s.count core n).net = s.net := rfl
@[simp] theorem State.count_regs (s : State) (core n : Nat) : (s.count core n).regs = s.regs := rfl
@[simp] theorem State.count_log (s : State) (core n : Nat) : (s.count core n).log = s.log := rfl
@[simp] theorem State.count_boot (s : State) (core n : Nat) : (s.count core n).boot = s.boot := rfl
@[simp] theorem State.count_fuses (s : State) (core n : Nat) : (s.count core n).fuses = s.fuses := rfl
@[simp] theorem State.count_sys (s : State) (core n : Nat) : (s.count core n).sys = s.sys := rfl
@[simp] theorem State.count_pipes (s : State) (core n : Nat) : (s.count core n).pipes = s.pipes := rfl
@[simp] theorem State.count_splits (s : State) (core n : Nat) : (s.count core n).splits = s.splits := rfl
@[simp] theorem State.count_cycle (s : State) (core n : Nat) : (s.count core n).cycle = s.cycle := rfl
@[simp] theorem State.count_agenda (s : State) (core n : Nat) : (s.count core n).agenda = s.agenda := rfl
@[simp] theorem State.count_fresh (s : State) (core n : Nat) : (s.count core n).fresh = s.fresh := rfl
@[simp] theorem State.count_cur (s : State) (core n : Nat) : (s.count core n).cur = s.cur := rfl
@[simp] theorem State.count_arg (s : State) (core n : Nat) : (s.count core n).arg = s.arg := rfl
@[simp] theorem State.count_nextHandle (s : State) (core n : Nat) : (s.count core n).nextHandle = s.nextHandle := rfl
@[simp] theorem State.count_nextUid (s : State) (core n : Nat) : (s.count core n).nextUid = s.nextUid := rfl

/-! ## setGran -/

@[simp] theorem State.setGran_ctxs (s : State) (g : Nat) (b : Bool) : (s.setGran g b).ctxs = s.ctxs := rfl
@[simp] theorem State.setGran_clusters (s : State) (g : Nat) (b : Bool) : (s.setGran g b).clusters = s.clusters := rfl
@[simp] theorem State.setGran_mcores (s : State) (g : Nat) (b : Bool) : (s.setGran g b).mcores = s.mcores := rfl
@[simp] theorem State.setGran_dies (s : State) (g : Nat) (b : Bool) : (s.setGran g b).dies = s.dies := rfl
@[simp] theorem State.setGran_keystones (s : State) (g : Nat) (b : Bool) : (s.setGran g b).keystones = s.keystones := rfl
@[simp] theorem State.setGran_launches (s : State) (g : Nat) (b : Bool) : (s.setGran g b).launches = s.launches := rfl
@[simp] theorem State.setGran_chains (s : State) (g : Nat) (b : Bool) : (s.setGran g b).chains = s.chains := rfl
@[simp] theorem State.setGran_poison (s : State) (g : Nat) (b : Bool) : (s.setGran g b).poison = s.poison := rfl
@[simp] theorem State.setGran_frozen (s : State) (g : Nat) (b : Bool) : (s.setGran g b).frozen = s.frozen := rfl
@[simp] theorem State.setGran_caches (s : State) (g : Nat) (b : Bool) : (s.setGran g b).caches = s.caches := rfl
@[simp] theorem State.setGran_rstores (s : State) (g : Nat) (b : Bool) : (s.setGran g b).rstores = s.rstores := rfl
@[simp] theorem State.setGran_ldfes (s : State) (g : Nat) (b : Bool) : (s.setGran g b).ldfes = s.ldfes := rfl
@[simp] theorem State.setGran_pins (s : State) (g : Nat) (b : Bool) : (s.setGran g b).pins = s.pins := rfl
@[simp] theorem State.setGran_moves (s : State) (g : Nat) (b : Bool) : (s.setGran g b).moves = s.moves := rfl
@[simp] theorem State.setGran_opDenials (s : State) (g : Nat) (b : Bool) : (s.setGran g b).opDenials = s.opDenials := rfl
@[simp] theorem State.setGran_posts (s : State) (g : Nat) (b : Bool) : (s.setGran g b).posts = s.posts := rfl
@[simp] theorem State.setGran_charges (s : State) (g : Nat) (b : Bool) : (s.setGran g b).charges = s.charges := rfl
@[simp] theorem State.setGran_net (s : State) (g : Nat) (b : Bool) : (s.setGran g b).net = s.net := rfl
@[simp] theorem State.setGran_regs (s : State) (g : Nat) (b : Bool) : (s.setGran g b).regs = s.regs := rfl
@[simp] theorem State.setGran_log (s : State) (g : Nat) (b : Bool) : (s.setGran g b).log = s.log := rfl
@[simp] theorem State.setGran_boot (s : State) (g : Nat) (b : Bool) : (s.setGran g b).boot = s.boot := rfl
@[simp] theorem State.setGran_fuses (s : State) (g : Nat) (b : Bool) : (s.setGran g b).fuses = s.fuses := rfl
@[simp] theorem State.setGran_sys (s : State) (g : Nat) (b : Bool) : (s.setGran g b).sys = s.sys := rfl
@[simp] theorem State.setGran_perf (s : State) (g : Nat) (b : Bool) : (s.setGran g b).perf = s.perf := rfl
@[simp] theorem State.setGran_pipes (s : State) (g : Nat) (b : Bool) : (s.setGran g b).pipes = s.pipes := rfl
@[simp] theorem State.setGran_splits (s : State) (g : Nat) (b : Bool) : (s.setGran g b).splits = s.splits := rfl
@[simp] theorem State.setGran_cycle (s : State) (g : Nat) (b : Bool) : (s.setGran g b).cycle = s.cycle := rfl
@[simp] theorem State.setGran_agenda (s : State) (g : Nat) (b : Bool) : (s.setGran g b).agenda = s.agenda := rfl
@[simp] theorem State.setGran_fresh (s : State) (g : Nat) (b : Bool) : (s.setGran g b).fresh = s.fresh := rfl
@[simp] theorem State.setGran_cur (s : State) (g : Nat) (b : Bool) : (s.setGran g b).cur = s.cur := rfl
@[simp] theorem State.setGran_arg (s : State) (g : Nat) (b : Bool) : (s.setGran g b).arg = s.arg := rfl
@[simp] theorem State.setGran_nextHandle (s : State) (g : Nat) (b : Bool) : (s.setGran g b).nextHandle = s.nextHandle := rfl
@[simp] theorem State.setGran_nextUid (s : State) (g : Nat) (b : Bool) : (s.setGran g b).nextUid = s.nextUid := rfl

/-! ## dropFwds -/

@[simp] theorem State.dropFwds_ctxs (s : State) (uid : Nat) : (s.dropFwds uid).ctxs = s.ctxs := rfl
@[simp] theorem State.dropFwds_clusters (s : State) (uid : Nat) : (s.dropFwds uid).clusters = s.clusters := rfl
@[simp] theorem State.dropFwds_mcores (s : State) (uid : Nat) : (s.dropFwds uid).mcores = s.mcores := rfl
@[simp] theorem State.dropFwds_dies (s : State) (uid : Nat) : (s.dropFwds uid).dies = s.dies := rfl
@[simp] theorem State.dropFwds_keystones (s : State) (uid : Nat) : (s.dropFwds uid).keystones = s.keystones := rfl
@[simp] theorem State.dropFwds_launches (s : State) (uid : Nat) : (s.dropFwds uid).launches = s.launches := rfl
@[simp] theorem State.dropFwds_chains (s : State) (uid : Nat) : (s.dropFwds uid).chains = s.chains := rfl
@[simp] theorem State.dropFwds_mem (s : State) (uid : Nat) : (s.dropFwds uid).mem = s.mem := rfl
@[simp] theorem State.dropFwds_poison (s : State) (uid : Nat) : (s.dropFwds uid).poison = s.poison := rfl
@[simp] theorem State.dropFwds_frozen (s : State) (uid : Nat) : (s.dropFwds uid).frozen = s.frozen := rfl
@[simp] theorem State.dropFwds_caches (s : State) (uid : Nat) : (s.dropFwds uid).caches = s.caches := rfl
@[simp] theorem State.dropFwds_rstores (s : State) (uid : Nat) : (s.dropFwds uid).rstores = s.rstores := rfl
@[simp] theorem State.dropFwds_ldfes (s : State) (uid : Nat) : (s.dropFwds uid).ldfes = s.ldfes := rfl
@[simp] theorem State.dropFwds_pins (s : State) (uid : Nat) : (s.dropFwds uid).pins = s.pins := rfl
@[simp] theorem State.dropFwds_moves (s : State) (uid : Nat) : (s.dropFwds uid).moves = s.moves := rfl
@[simp] theorem State.dropFwds_opDenials (s : State) (uid : Nat) : (s.dropFwds uid).opDenials = s.opDenials := rfl
@[simp] theorem State.dropFwds_posts (s : State) (uid : Nat) : (s.dropFwds uid).posts = s.posts := rfl
@[simp] theorem State.dropFwds_charges (s : State) (uid : Nat) : (s.dropFwds uid).charges = s.charges := rfl
@[simp] theorem State.dropFwds_regs (s : State) (uid : Nat) : (s.dropFwds uid).regs = s.regs := rfl
@[simp] theorem State.dropFwds_log (s : State) (uid : Nat) : (s.dropFwds uid).log = s.log := rfl
@[simp] theorem State.dropFwds_boot (s : State) (uid : Nat) : (s.dropFwds uid).boot = s.boot := rfl
@[simp] theorem State.dropFwds_fuses (s : State) (uid : Nat) : (s.dropFwds uid).fuses = s.fuses := rfl
@[simp] theorem State.dropFwds_sys (s : State) (uid : Nat) : (s.dropFwds uid).sys = s.sys := rfl
@[simp] theorem State.dropFwds_perf (s : State) (uid : Nat) : (s.dropFwds uid).perf = s.perf := rfl
@[simp] theorem State.dropFwds_pipes (s : State) (uid : Nat) : (s.dropFwds uid).pipes = s.pipes := rfl
@[simp] theorem State.dropFwds_splits (s : State) (uid : Nat) : (s.dropFwds uid).splits = s.splits := rfl
@[simp] theorem State.dropFwds_cycle (s : State) (uid : Nat) : (s.dropFwds uid).cycle = s.cycle := rfl
@[simp] theorem State.dropFwds_agenda (s : State) (uid : Nat) : (s.dropFwds uid).agenda = s.agenda := rfl
@[simp] theorem State.dropFwds_fresh (s : State) (uid : Nat) : (s.dropFwds uid).fresh = s.fresh := rfl
@[simp] theorem State.dropFwds_cur (s : State) (uid : Nat) : (s.dropFwds uid).cur = s.cur := rfl
@[simp] theorem State.dropFwds_arg (s : State) (uid : Nat) : (s.dropFwds uid).arg = s.arg := rfl
@[simp] theorem State.dropFwds_nextHandle (s : State) (uid : Nat) : (s.dropFwds uid).nextHandle = s.nextHandle := rfl
@[simp] theorem State.dropFwds_nextUid (s : State) (uid : Nat) : (s.dropFwds uid).nextUid = s.nextUid := rfl

/-! ## endInstr -/

@[simp] theorem State.endInstr_ctxs (s : State) (uid : Nat) : (s.endInstr uid).ctxs = s.ctxs := rfl
@[simp] theorem State.endInstr_clusters (s : State) (uid : Nat) : (s.endInstr uid).clusters = s.clusters := rfl
@[simp] theorem State.endInstr_mcores (s : State) (uid : Nat) : (s.endInstr uid).mcores = s.mcores := rfl
@[simp] theorem State.endInstr_dies (s : State) (uid : Nat) : (s.endInstr uid).dies = s.dies := rfl
@[simp] theorem State.endInstr_keystones (s : State) (uid : Nat) : (s.endInstr uid).keystones = s.keystones := rfl
@[simp] theorem State.endInstr_launches (s : State) (uid : Nat) : (s.endInstr uid).launches = s.launches := rfl
@[simp] theorem State.endInstr_chains (s : State) (uid : Nat) : (s.endInstr uid).chains = s.chains := rfl
@[simp] theorem State.endInstr_mem (s : State) (uid : Nat) : (s.endInstr uid).mem = s.mem := rfl
@[simp] theorem State.endInstr_poison (s : State) (uid : Nat) : (s.endInstr uid).poison = s.poison := rfl
@[simp] theorem State.endInstr_frozen (s : State) (uid : Nat) : (s.endInstr uid).frozen = s.frozen := rfl
@[simp] theorem State.endInstr_caches (s : State) (uid : Nat) : (s.endInstr uid).caches = s.caches := rfl
@[simp] theorem State.endInstr_rstores (s : State) (uid : Nat) : (s.endInstr uid).rstores = s.rstores := rfl
@[simp] theorem State.endInstr_ldfes (s : State) (uid : Nat) : (s.endInstr uid).ldfes = s.ldfes := rfl
@[simp] theorem State.endInstr_pins (s : State) (uid : Nat) : (s.endInstr uid).pins = s.pins := rfl
@[simp] theorem State.endInstr_moves (s : State) (uid : Nat) : (s.endInstr uid).moves = s.moves := rfl
@[simp] theorem State.endInstr_posts (s : State) (uid : Nat) : (s.endInstr uid).posts = s.posts := rfl
@[simp] theorem State.endInstr_charges (s : State) (uid : Nat) : (s.endInstr uid).charges = s.charges := rfl
@[simp] theorem State.endInstr_regs (s : State) (uid : Nat) : (s.endInstr uid).regs = s.regs := rfl
@[simp] theorem State.endInstr_log (s : State) (uid : Nat) : (s.endInstr uid).log = s.log := rfl
@[simp] theorem State.endInstr_boot (s : State) (uid : Nat) : (s.endInstr uid).boot = s.boot := rfl
@[simp] theorem State.endInstr_fuses (s : State) (uid : Nat) : (s.endInstr uid).fuses = s.fuses := rfl
@[simp] theorem State.endInstr_sys (s : State) (uid : Nat) : (s.endInstr uid).sys = s.sys := rfl
@[simp] theorem State.endInstr_perf (s : State) (uid : Nat) : (s.endInstr uid).perf = s.perf := rfl
@[simp] theorem State.endInstr_pipes (s : State) (uid : Nat) : (s.endInstr uid).pipes = s.pipes := rfl
@[simp] theorem State.endInstr_splits (s : State) (uid : Nat) : (s.endInstr uid).splits = s.splits := rfl
@[simp] theorem State.endInstr_cycle (s : State) (uid : Nat) : (s.endInstr uid).cycle = s.cycle := rfl
@[simp] theorem State.endInstr_agenda (s : State) (uid : Nat) : (s.endInstr uid).agenda = s.agenda := rfl
@[simp] theorem State.endInstr_fresh (s : State) (uid : Nat) : (s.endInstr uid).fresh = s.fresh := rfl
@[simp] theorem State.endInstr_cur (s : State) (uid : Nat) : (s.endInstr uid).cur = s.cur := rfl
@[simp] theorem State.endInstr_arg (s : State) (uid : Nat) : (s.endInstr uid).arg = s.arg := rfl
@[simp] theorem State.endInstr_nextHandle (s : State) (uid : Nat) : (s.endInstr uid).nextHandle = s.nextHandle := rfl
@[simp] theorem State.endInstr_nextUid (s : State) (uid : Nat) : (s.endInstr uid).nextUid = s.nextUid := rfl

/-! ## setTlb -/

@[simp] theorem State.setTlb_ctxs (s : State) (t : Nat) (l : List TlbEntry) : (s.setTlb t l).ctxs = s.ctxs := rfl
@[simp] theorem State.setTlb_clusters (s : State) (t : Nat) (l : List TlbEntry) : (s.setTlb t l).clusters = s.clusters := rfl
@[simp] theorem State.setTlb_mcores (s : State) (t : Nat) (l : List TlbEntry) : (s.setTlb t l).mcores = s.mcores := rfl
@[simp] theorem State.setTlb_dies (s : State) (t : Nat) (l : List TlbEntry) : (s.setTlb t l).dies = s.dies := rfl
@[simp] theorem State.setTlb_keystones (s : State) (t : Nat) (l : List TlbEntry) : (s.setTlb t l).keystones = s.keystones := rfl
@[simp] theorem State.setTlb_launches (s : State) (t : Nat) (l : List TlbEntry) : (s.setTlb t l).launches = s.launches := rfl
@[simp] theorem State.setTlb_chains (s : State) (t : Nat) (l : List TlbEntry) : (s.setTlb t l).chains = s.chains := rfl
@[simp] theorem State.setTlb_mem (s : State) (t : Nat) (l : List TlbEntry) : (s.setTlb t l).mem = s.mem := rfl
@[simp] theorem State.setTlb_poison (s : State) (t : Nat) (l : List TlbEntry) : (s.setTlb t l).poison = s.poison := rfl
@[simp] theorem State.setTlb_frozen (s : State) (t : Nat) (l : List TlbEntry) : (s.setTlb t l).frozen = s.frozen := rfl
@[simp] theorem State.setTlb_rstores (s : State) (t : Nat) (l : List TlbEntry) : (s.setTlb t l).rstores = s.rstores := rfl
@[simp] theorem State.setTlb_ldfes (s : State) (t : Nat) (l : List TlbEntry) : (s.setTlb t l).ldfes = s.ldfes := rfl
@[simp] theorem State.setTlb_pins (s : State) (t : Nat) (l : List TlbEntry) : (s.setTlb t l).pins = s.pins := rfl
@[simp] theorem State.setTlb_moves (s : State) (t : Nat) (l : List TlbEntry) : (s.setTlb t l).moves = s.moves := rfl
@[simp] theorem State.setTlb_opDenials (s : State) (t : Nat) (l : List TlbEntry) : (s.setTlb t l).opDenials = s.opDenials := rfl
@[simp] theorem State.setTlb_posts (s : State) (t : Nat) (l : List TlbEntry) : (s.setTlb t l).posts = s.posts := rfl
@[simp] theorem State.setTlb_charges (s : State) (t : Nat) (l : List TlbEntry) : (s.setTlb t l).charges = s.charges := rfl
@[simp] theorem State.setTlb_net (s : State) (t : Nat) (l : List TlbEntry) : (s.setTlb t l).net = s.net := rfl
@[simp] theorem State.setTlb_regs (s : State) (t : Nat) (l : List TlbEntry) : (s.setTlb t l).regs = s.regs := rfl
@[simp] theorem State.setTlb_log (s : State) (t : Nat) (l : List TlbEntry) : (s.setTlb t l).log = s.log := rfl
@[simp] theorem State.setTlb_boot (s : State) (t : Nat) (l : List TlbEntry) : (s.setTlb t l).boot = s.boot := rfl
@[simp] theorem State.setTlb_fuses (s : State) (t : Nat) (l : List TlbEntry) : (s.setTlb t l).fuses = s.fuses := rfl
@[simp] theorem State.setTlb_sys (s : State) (t : Nat) (l : List TlbEntry) : (s.setTlb t l).sys = s.sys := rfl
@[simp] theorem State.setTlb_perf (s : State) (t : Nat) (l : List TlbEntry) : (s.setTlb t l).perf = s.perf := rfl
@[simp] theorem State.setTlb_pipes (s : State) (t : Nat) (l : List TlbEntry) : (s.setTlb t l).pipes = s.pipes := rfl
@[simp] theorem State.setTlb_splits (s : State) (t : Nat) (l : List TlbEntry) : (s.setTlb t l).splits = s.splits := rfl
@[simp] theorem State.setTlb_cycle (s : State) (t : Nat) (l : List TlbEntry) : (s.setTlb t l).cycle = s.cycle := rfl
@[simp] theorem State.setTlb_agenda (s : State) (t : Nat) (l : List TlbEntry) : (s.setTlb t l).agenda = s.agenda := rfl
@[simp] theorem State.setTlb_fresh (s : State) (t : Nat) (l : List TlbEntry) : (s.setTlb t l).fresh = s.fresh := rfl
@[simp] theorem State.setTlb_cur (s : State) (t : Nat) (l : List TlbEntry) : (s.setTlb t l).cur = s.cur := rfl
@[simp] theorem State.setTlb_arg (s : State) (t : Nat) (l : List TlbEntry) : (s.setTlb t l).arg = s.arg := rfl
@[simp] theorem State.setTlb_nextHandle (s : State) (t : Nat) (l : List TlbEntry) : (s.setTlb t l).nextHandle = s.nextHandle := rfl
@[simp] theorem State.setTlb_nextUid (s : State) (t : Nat) (l : List TlbEntry) : (s.setTlb t l).nextUid = s.nextUid := rfl

/-! ## noteReady -/

@[simp] theorem State.noteReady_clusters (s : State) : (s.noteReady).clusters = s.clusters := rfl
@[simp] theorem State.noteReady_mcores (s : State) : (s.noteReady).mcores = s.mcores := rfl
@[simp] theorem State.noteReady_dies (s : State) : (s.noteReady).dies = s.dies := rfl
@[simp] theorem State.noteReady_keystones (s : State) : (s.noteReady).keystones = s.keystones := rfl
@[simp] theorem State.noteReady_launches (s : State) : (s.noteReady).launches = s.launches := rfl
@[simp] theorem State.noteReady_chains (s : State) : (s.noteReady).chains = s.chains := rfl
@[simp] theorem State.noteReady_mem (s : State) : (s.noteReady).mem = s.mem := rfl
@[simp] theorem State.noteReady_poison (s : State) : (s.noteReady).poison = s.poison := rfl
@[simp] theorem State.noteReady_frozen (s : State) : (s.noteReady).frozen = s.frozen := rfl
@[simp] theorem State.noteReady_caches (s : State) : (s.noteReady).caches = s.caches := rfl
@[simp] theorem State.noteReady_rstores (s : State) : (s.noteReady).rstores = s.rstores := rfl
@[simp] theorem State.noteReady_ldfes (s : State) : (s.noteReady).ldfes = s.ldfes := rfl
@[simp] theorem State.noteReady_pins (s : State) : (s.noteReady).pins = s.pins := rfl
@[simp] theorem State.noteReady_moves (s : State) : (s.noteReady).moves = s.moves := rfl
@[simp] theorem State.noteReady_opDenials (s : State) : (s.noteReady).opDenials = s.opDenials := rfl
@[simp] theorem State.noteReady_posts (s : State) : (s.noteReady).posts = s.posts := rfl
@[simp] theorem State.noteReady_charges (s : State) : (s.noteReady).charges = s.charges := rfl
@[simp] theorem State.noteReady_net (s : State) : (s.noteReady).net = s.net := rfl
@[simp] theorem State.noteReady_regs (s : State) : (s.noteReady).regs = s.regs := rfl
@[simp] theorem State.noteReady_log (s : State) : (s.noteReady).log = s.log := rfl
@[simp] theorem State.noteReady_boot (s : State) : (s.noteReady).boot = s.boot := rfl
@[simp] theorem State.noteReady_fuses (s : State) : (s.noteReady).fuses = s.fuses := rfl
@[simp] theorem State.noteReady_sys (s : State) : (s.noteReady).sys = s.sys := rfl
@[simp] theorem State.noteReady_perf (s : State) : (s.noteReady).perf = s.perf := rfl
@[simp] theorem State.noteReady_pipes (s : State) : (s.noteReady).pipes = s.pipes := rfl
@[simp] theorem State.noteReady_splits (s : State) : (s.noteReady).splits = s.splits := rfl
@[simp] theorem State.noteReady_cycle (s : State) : (s.noteReady).cycle = s.cycle := rfl
@[simp] theorem State.noteReady_agenda (s : State) : (s.noteReady).agenda = s.agenda := rfl
@[simp] theorem State.noteReady_fresh (s : State) : (s.noteReady).fresh = s.fresh := rfl
@[simp] theorem State.noteReady_cur (s : State) : (s.noteReady).cur = s.cur := rfl
@[simp] theorem State.noteReady_arg (s : State) : (s.noteReady).arg = s.arg := rfl
@[simp] theorem State.noteReady_nextHandle (s : State) : (s.noteReady).nextHandle = s.nextHandle := rfl
@[simp] theorem State.noteReady_nextUid (s : State) : (s.noteReady).nextUid = s.nextUid := rfl

/-! ## countStalls -/

@[simp] theorem State.countStalls_ctxs (s : State) (n : Nat) : (s.countStalls n).ctxs = s.ctxs := rfl
@[simp] theorem State.countStalls_clusters (s : State) (n : Nat) : (s.countStalls n).clusters = s.clusters := rfl
@[simp] theorem State.countStalls_mcores (s : State) (n : Nat) : (s.countStalls n).mcores = s.mcores := rfl
@[simp] theorem State.countStalls_dies (s : State) (n : Nat) : (s.countStalls n).dies = s.dies := rfl
@[simp] theorem State.countStalls_keystones (s : State) (n : Nat) : (s.countStalls n).keystones = s.keystones := rfl
@[simp] theorem State.countStalls_launches (s : State) (n : Nat) : (s.countStalls n).launches = s.launches := rfl
@[simp] theorem State.countStalls_chains (s : State) (n : Nat) : (s.countStalls n).chains = s.chains := rfl
@[simp] theorem State.countStalls_mem (s : State) (n : Nat) : (s.countStalls n).mem = s.mem := rfl
@[simp] theorem State.countStalls_poison (s : State) (n : Nat) : (s.countStalls n).poison = s.poison := rfl
@[simp] theorem State.countStalls_frozen (s : State) (n : Nat) : (s.countStalls n).frozen = s.frozen := rfl
@[simp] theorem State.countStalls_caches (s : State) (n : Nat) : (s.countStalls n).caches = s.caches := rfl
@[simp] theorem State.countStalls_rstores (s : State) (n : Nat) : (s.countStalls n).rstores = s.rstores := rfl
@[simp] theorem State.countStalls_ldfes (s : State) (n : Nat) : (s.countStalls n).ldfes = s.ldfes := rfl
@[simp] theorem State.countStalls_pins (s : State) (n : Nat) : (s.countStalls n).pins = s.pins := rfl
@[simp] theorem State.countStalls_moves (s : State) (n : Nat) : (s.countStalls n).moves = s.moves := rfl
@[simp] theorem State.countStalls_opDenials (s : State) (n : Nat) : (s.countStalls n).opDenials = s.opDenials := rfl
@[simp] theorem State.countStalls_posts (s : State) (n : Nat) : (s.countStalls n).posts = s.posts := rfl
@[simp] theorem State.countStalls_charges (s : State) (n : Nat) : (s.countStalls n).charges = s.charges := rfl
@[simp] theorem State.countStalls_net (s : State) (n : Nat) : (s.countStalls n).net = s.net := rfl
@[simp] theorem State.countStalls_regs (s : State) (n : Nat) : (s.countStalls n).regs = s.regs := rfl
@[simp] theorem State.countStalls_log (s : State) (n : Nat) : (s.countStalls n).log = s.log := rfl
@[simp] theorem State.countStalls_boot (s : State) (n : Nat) : (s.countStalls n).boot = s.boot := rfl
@[simp] theorem State.countStalls_fuses (s : State) (n : Nat) : (s.countStalls n).fuses = s.fuses := rfl
@[simp] theorem State.countStalls_sys (s : State) (n : Nat) : (s.countStalls n).sys = s.sys := rfl
@[simp] theorem State.countStalls_pipes (s : State) (n : Nat) : (s.countStalls n).pipes = s.pipes := rfl
@[simp] theorem State.countStalls_splits (s : State) (n : Nat) : (s.countStalls n).splits = s.splits := rfl
@[simp] theorem State.countStalls_cycle (s : State) (n : Nat) : (s.countStalls n).cycle = s.cycle := rfl
@[simp] theorem State.countStalls_agenda (s : State) (n : Nat) : (s.countStalls n).agenda = s.agenda := rfl
@[simp] theorem State.countStalls_fresh (s : State) (n : Nat) : (s.countStalls n).fresh = s.fresh := rfl
@[simp] theorem State.countStalls_cur (s : State) (n : Nat) : (s.countStalls n).cur = s.cur := rfl
@[simp] theorem State.countStalls_arg (s : State) (n : Nat) : (s.countStalls n).arg = s.arg := rfl
@[simp] theorem State.countStalls_nextHandle (s : State) (n : Nat) : (s.countStalls n).nextHandle = s.nextHandle := rfl
@[simp] theorem State.countStalls_nextUid (s : State) (n : Nat) : (s.countStalls n).nextUid = s.nextUid := rfl

/-! ## tick -/

@[simp] theorem State.tick_clusters (s : State) : (s.tick).clusters = s.clusters := rfl
@[simp] theorem State.tick_mcores (s : State) : (s.tick).mcores = s.mcores := rfl
@[simp] theorem State.tick_dies (s : State) : (s.tick).dies = s.dies := rfl
@[simp] theorem State.tick_keystones (s : State) : (s.tick).keystones = s.keystones := rfl
@[simp] theorem State.tick_launches (s : State) : (s.tick).launches = s.launches := rfl
@[simp] theorem State.tick_chains (s : State) : (s.tick).chains = s.chains := rfl
@[simp] theorem State.tick_mem (s : State) : (s.tick).mem = s.mem := rfl
@[simp] theorem State.tick_poison (s : State) : (s.tick).poison = s.poison := rfl
@[simp] theorem State.tick_frozen (s : State) : (s.tick).frozen = s.frozen := rfl
@[simp] theorem State.tick_caches (s : State) : (s.tick).caches = s.caches := rfl
@[simp] theorem State.tick_rstores (s : State) : (s.tick).rstores = s.rstores := rfl
@[simp] theorem State.tick_ldfes (s : State) : (s.tick).ldfes = s.ldfes := rfl
@[simp] theorem State.tick_pins (s : State) : (s.tick).pins = s.pins := rfl
@[simp] theorem State.tick_moves (s : State) : (s.tick).moves = s.moves := rfl
@[simp] theorem State.tick_opDenials (s : State) : (s.tick).opDenials = s.opDenials := rfl
@[simp] theorem State.tick_posts (s : State) : (s.tick).posts = s.posts := rfl
@[simp] theorem State.tick_charges (s : State) : (s.tick).charges = s.charges := rfl
@[simp] theorem State.tick_net (s : State) : (s.tick).net = s.net := rfl
@[simp] theorem State.tick_regs (s : State) : (s.tick).regs = s.regs := rfl
@[simp] theorem State.tick_log (s : State) : (s.tick).log = s.log := rfl
@[simp] theorem State.tick_boot (s : State) : (s.tick).boot = s.boot := rfl
@[simp] theorem State.tick_fuses (s : State) : (s.tick).fuses = s.fuses := rfl
@[simp] theorem State.tick_sys (s : State) : (s.tick).sys = s.sys := rfl
@[simp] theorem State.tick_pipes (s : State) : (s.tick).pipes = s.pipes := rfl
@[simp] theorem State.tick_splits (s : State) : (s.tick).splits = s.splits := rfl
@[simp] theorem State.tick_agenda (s : State) : (s.tick).agenda = s.agenda := rfl
@[simp] theorem State.tick_nextHandle (s : State) : (s.tick).nextHandle = s.nextHandle := rfl
@[simp] theorem State.tick_nextUid (s : State) : (s.tick).nextUid = s.nextUid := rfl

/-! ## The field that changes -/

theorem State.ctx_modCtx (s : State) (cx k : Nat) (f : Ctx → Ctx) :
    (s.modCtx cx f).ctx k = if k = cx ∧ s.holds cx = true then f (s.ctx cx) else s.ctx k := by
  simp only [State.ctx, State.modCtx, State.holds, aget_amod]
  by_cases h : k = cx
  · subst h; rw [if_pos rfl]; rcases Option.eq_none_or_eq_some (aget s.ctxs k) with h | ⟨v, h⟩ <;> simp [h]
  · simp [h]

@[simp] theorem State.holds_modCtx (s : State) (cx k : Nat) (f : Ctx → Ctx) : (s.modCtx cx f).holds k = s.holds k := by
  simp only [State.holds, State.modCtx, aget_amod]
  split
  · next h => subst h; cases aget s.ctxs k <;> rfl
  · rfl

theorem State.ctx_modCtx_self (s : State) (cx : Nat) (f : Ctx → Ctx) (h : s.holds cx = true) : (s.modCtx cx f).ctx cx = f (s.ctx cx) := by
  simp [State.ctx_modCtx, h]

theorem State.aget_modCtx_of_ne (s : State) {cx k : Nat} (f : Ctx → Ctx) (h : k ≠ cx) : aget (s.modCtx cx f).ctxs k = aget s.ctxs k := by
  simp [State.modCtx, aget_amod, h]

@[simp] theorem State.ctx_count (s : State) (core n k : Nat) : (s.count core n).ctx k = s.ctx k := rfl
@[simp] theorem State.holds_count (s : State) (core n k : Nat) : (s.count core n).holds k = s.holds k := rfl
@[simp] theorem State.ctx_dropFwds (s : State) (uid k : Nat) : (s.dropFwds uid).ctx k = s.ctx k := rfl
@[simp] theorem State.holds_dropFwds (s : State) (uid k : Nat) : (s.dropFwds uid).holds k = s.holds k := rfl
@[simp] theorem State.ctx_endInstr (s : State) (uid k : Nat) : (s.endInstr uid).ctx k = s.ctx k := rfl
@[simp] theorem State.holds_endInstr (s : State) (uid k : Nat) : (s.endInstr uid).holds k = s.holds k := rfl
@[simp] theorem State.ctx_modCluster (s : State) (cl k : Nat) (f : Cluster → Cluster) : (s.modCluster cl f).ctx k = s.ctx k := rfl

theorem State.cluster_setCluster (s : State) (cl k : Nat) (c : Cluster) :
    (s.setCluster cl c).cluster k = if k % 16 = cl % 16 then c else s.cluster k := by
  simp only [State.cluster, State.setCluster, Vector.getElem_set]
  split <;> split <;> simp_all [eq_comm]

theorem State.cluster_modCluster (s : State) (cl k : Nat) (f : Cluster → Cluster) :
    (s.modCluster cl f).cluster k = if k % 16 = cl % 16 then f (s.cluster cl) else s.cluster k :=
  s.cluster_setCluster cl k _

@[simp] theorem State.cluster_modCluster_self (s : State) (cl : Nat) (f : Cluster → Cluster) :
    (s.modCluster cl f).cluster cl = f (s.cluster cl) := by simp [State.cluster_modCluster]

theorem State.die_modDie (s : State) (d k : Nat) (f : Die → Die) :
    (s.modDie d f).die k = if k % 4 = d % 4 then f (s.die d) else s.die k := by
  simp only [State.die, State.modDie, Vector.getElem_set]
  split <;> split <;> simp_all [eq_comm]

theorem State.chain_modChain (s : State) (n k : Nat) (f : CmdChain → CmdChain) :
    (s.modChain n f).chain k = if k % 16 = n % 16 then f (s.chain n) else s.chain k := by
  simp only [State.chain, State.modChain, Vector.getElem_set]
  split <;> split <;> simp_all [eq_comm]

theorem State.mcore_modMcore (s : State) (m k : Nat) (f : MemCore → MemCore) :
    (s.modMcore m f).mcore k = if k = m then f (s.mcore m) else s.mcore k := by
  simp only [State.mcore, State.modMcore, aget_aset]
  split <;> simp_all

theorem State.memOk_setPhys (s : State) (a : Nat) (v : Word) (h : memOk s.mem = true) : memOk (s.setPhys a v).mem = true := memOk_set _ _ _ h
theorem State.memOk_setGran (s : State) (g : Nat) (b : Bool) (h : memOk s.mem = true) : memOk (s.setGran g b).mem = true := memOk_put _ _ _ h

/-! ## Serving LDFE (R77) -/

/-- Serving a granule changes memory and the list of waits, and nothing else. -/
theorem State.serveGran_frame (s : State) (g : Nat) : { s.serveGran g with mem := s.mem, ldfes := s.ldfes } = s := by
  unfold State.serveGran
  split
  · split <;> rfl
  · rfl

/-- With nothing waiting, a fill is only a fill. -/
theorem State.serveGran_nil (s : State) (g : Nat) (h : s.ldfes = []) : s.serveGran g = s := by
  simp [State.serveGran, h]

theorem State.serveLdfes_nil (s : State) (h : s.ldfes = []) : s.serveLdfes = s := by
  simp [State.serveLdfes, h]

theorem State.fillGrans_nil (gs : List Nat) : ∀ (s : State), s.ldfes = [] → s.fillGrans gs = gs.foldl (fun s g => s.setGran g true) s := by
  induction gs with
  | nil => intro s _; rfl
  | cons g gs ih =>
    intro s h
    have e : s.fillGrans (g :: gs) = ((s.setGran g true).serveGran g).fillGrans gs := rfl
    rw [e, State.serveGran_nil (s.setGran g true) g h, ih (s.setGran g true) h]; rfl

theorem State.memOk_serveGran (s : State) (g : Nat) (h : memOk s.mem = true) : memOk (s.serveGran g).mem = true := by
  unfold State.serveGran
  split
  · split
    · exact State.memOk_setGran _ _ _ h
    · exact h
  · exact h

theorem State.memOk_serveLdfes (s : State) (h : memOk s.mem = true) : memOk s.serveLdfes.mem = true := by
  suffices ∀ (l : List LdfeWait) (s : State), memOk s.mem = true → memOk (l.foldl (fun s e => if s.granFull e.gran then s.serveGran e.gran else s) s).mem = true from this _ s h
  intro l
  induction l with
  | nil => intro s h; exact h
  | cons e l ih =>
    intro s h
    refine ih _ ?_
    dsimp only
    split
    · exact State.memOk_serveGran _ _ h
    · exact h

theorem State.memOk_fillGrans (gs : List Nat) : ∀ (s : State), memOk s.mem = true → memOk (s.fillGrans gs).mem = true := by
  induction gs with
  | nil => intro s h; exact h
  | cons g gs ih => intro s h; exact ih _ (State.memOk_serveGran _ _ (State.memOk_setGran _ _ _ h))

theorem State.memOk_mergeWord (s : State) (key : Nat) (mask val : Word) (h : memOk s.mem = true) : memOk (s.mergeWord key mask val).1.mem = true := by
  unfold State.mergeWord
  split
  · split
    · exact State.memOk_setPhys _ _ _ h
    · exact h
  · exact memOk_merge _ _ _ _ h

theorem State.memOk_putWord (s : State) (key : Nat) (mask val : Word) (h : memOk s.mem = true) : memOk (s.putWord key mask val).1.mem = true := by
  have e := State.memOk_mergeWord s key mask val h
  unfold State.putWord
  generalize s.mergeWord key mask val = p at e
  obtain ⟨s', d⟩ := p
  dsimp only at e ⊢
  split
  · exact State.memOk_serveLdfes _ e
  · exact e

end Sys2Proof.Machine
end

