-- ==== Sys2Proof/Laws/Run.lean ====
section
/-!
SUPPORT. Issue and completion, once for all instructions: what `run` comes to when the sources are ready, and what `settle`
leaves of each part of the state.
-/

namespace Sys2Proof.Machine

/-! ## Registers of a context -/

@[simp] theorem Ctx.writeS_pc (x : Ctx) (r : BitVec 6) (v : Word) : (x.writeS r v).pc = x.pc := by unfold Ctx.writeS; split <;> rfl
@[simp] theorem Ctx.writeS_vregs (x : Ctx) (r : BitVec 6) (v : Word) : (x.writeS r v).vregs = x.vregs := by unfold Ctx.writeS; split <;> rfl
@[simp] theorem Ctx.writeS_csrs (x : Ctx) (r : BitVec 6) (v : Word) : (x.writeS r v).csrs = x.csrs := by unfold Ctx.writeS; split <;> rfl
@[simp] theorem Ctx.writeS_region (x : Ctx) (r : BitVec 6) (v : Word) : (x.writeS r v).region = x.region := by unfold Ctx.writeS; split <;> rfl
@[simp] theorem Ctx.writeS_rest (x : Ctx) (r : BitVec 6) (v : Word) : (x.writeS r v).rest = x.rest := by unfold Ctx.writeS; split <;> rfl
@[simp] theorem Ctx.writeS_carry (x : Ctx) (r : BitVec 6) (v : Word) : (x.writeS r v).carry = x.carry := by unfold Ctx.writeS; split <;> rfl

theorem Ctx.sreg_writeS (x : Ctx) (r k : BitVec 6) (v : Word) :
    (x.writeS r v).sreg k = if k = r ∧ r ≠ 0 then { val := v } else x.sreg k := by
  unfold Ctx.writeS
  by_cases hr : r = 0
  · simp [hr]
  · simp only [hr, if_false, Ctx.sreg, ne_eq, not_false_eq_true, and_true, Vector.getElem_set]
    by_cases h : k = r
    · subst h; simp
    · rw [if_neg h, if_neg (fun e => h (BitVec.eq_of_toNat_eq e.symm))]

theorem Ctx.readS_writeS (x : Ctx) (r k : BitVec 6) (v : Word) :
    (x.writeS r v).readS k = if k = r then (if r = 0 then 0 else v) else x.readS k := by
  simp only [Ctx.readS, Ctx.sreg_writeS]
  by_cases h : k = r
  · subst h
    by_cases h0 : k = 0
    · subst h0; simp
    · rw [if_neg h0, if_pos ⟨rfl, h0⟩, if_pos rfl, if_neg h0]
  · simp [h]

theorem Ctx.fullS_writeS (x : Ctx) (r : BitVec 6) (v : Word) : (x.writeS r v).fullS r = true := by
  simp only [Ctx.fullS, Ctx.sreg_writeS]
  by_cases h : r = 0
  · subst h; simp
  · rw [if_pos (by exact ⟨trivial, h⟩)]; simp

@[simp] theorem Ctx.orFlags_sregs (x : Ctx) (f : BitVec 6) : (x.orFlags f).sregs = x.sregs := rfl
@[simp] theorem Ctx.orFlags_vregs (x : Ctx) (f : BitVec 6) : (x.orFlags f).vregs = x.vregs := rfl
@[simp] theorem Ctx.orFlags_region (x : Ctx) (f : BitVec 6) : (x.orFlags f).region = x.region := rfl
@[simp] theorem Ctx.orFlags_fcsr (x : Ctx) (f : BitVec 6) : (x.orFlags f).csrs.fcsr = x.csrs.fcsr ||| f.setWidth 64 := rfl
@[simp] theorem Ctx.orFlags_lcnt (x : Ctx) (f : BitVec 6) : (x.orFlags f).csrs.lcnt = x.csrs.lcnt := rfl
@[simp] theorem Ctx.orFlags_rest (x : Ctx) (f : BitVec 6) : (x.orFlags f).rest = x.rest := rfl

/-! ## Issue -/

/-- With every source ready, none stops the instruction. -/
theorem Ctx.sources_ready (x : Ctx) (l : List (BitVec 6 × Bool)) (h : ∀ r ∈ l.map (·.1), x.Ready r) : x.sources l = none := by
  induction l with
  | nil => rfl
  | cons p l ih =>
    obtain ⟨r, t⟩ := p
    have hr := h r (by simp)
    simp only [Ctx.sources, hr.2, hr.1, if_true, if_false, Bool.false_eq_true]
    exact ih (fun q hq => h q (by simp only [List.map_cons, List.mem_cons]; exact Or.inr hq))

/-- An instruction that is legal and whose sources are ready does what its body says. -/
theorem State.run_ready (s : State) (c : Cur) (illegal : Cur → Ctx → Option Nat) (srcs : List (BitVec 6 × Bool)) (body : Cur → State → Res)
    (hi : s.Issues c) (hl : illegal c (s.ctx c.cx) = none) (hs : ∀ r ∈ srcs.map (·.1), (s.ctx c.cx).Ready r) :
    s.run illegal srcs body = .next (s.settle c (body c s)) := by
  simp only [State.run, hi.1, hi.2, if_true, hl, Ctx.sources_ready _ _ hs]

/-- Completion where no step trap follows. -/
theorem State.settle_done (s u : State) (c : Cur) (tgt : Option Word) (b : Option Masks) (h : (s.ctx c.cx).NoStep) :
    s.settle c (.done u tgt b) =
      ((u.endInstr (s.ctx c.cx).uid).modCtx c.cx (fun x => x.finish u.cycle c.addr c.len (s.ctx c.cx).csrs.lend tgt b)).count (coreOf c.cx) 0 := by
  simp only [State.settle]
  exact if_pos (by rcases h with h | h <;> simp only [h, Bool.true_or, Bool.not_false, Bool.or_true])

/-! ## Completion, part by part -/

/-- Completion without a transfer. -/
theorem Ctx.advance_none (x : Ctx) (a : Word) (n : Nat) :
    x.advance a n x.csrs.lend none = { x with pc := x.pcAfter a n, csrs := { x.csrs with lcnt := x.countAfter a } } := by
  simp only [Ctx.advance, Ctx.pcAfter, Ctx.countAfter]
  split <;> rfl

/-- Completion of an instruction that does not transfer control and is no region boundary. -/
theorem Ctx.finish_none (x : Ctx) (cy : Nat) (a : Word) (n : Nat) :
    x.finish cy a n x.csrs.lend none none =
      { x.issued cy a with pc := x.pcAfter a n, csrs := { (x.issued cy a).csrs with lcnt := x.countAfter a } } :=
  Ctx.advance_none (x.issued cy a) a n

/-- The same at a region boundary. -/
theorem Ctx.finish_live (x : Ctx) (cy : Nat) (a : Word) (n : Nat) :
    x.finish cy a n x.csrs.lend none (some allLive) = { x.finish cy a n x.csrs.lend none none with region := (x.finish cy a n x.csrs.lend none none).opened } := rfl

/-- Completion of a transfer. -/
theorem Ctx.finish_some (x : Ctx) (cy : Nat) (a : Word) (n : Nat) (l t : Word) :
    x.finish cy a n l (some t) none = { x.issued cy a with pc := t } := rfl

/-- An instruction that changes its own context alone leaves the rest of the package. -/
theorem SameElse.of_onMe (s : State) (c : Cur) (f g : Ctx → Ctx) (uid : Nat) :
    SameElse s (((((s.onMe c f).endInstr uid).modCtx c.cx g)).count (coreOf c.cx) 0) c.cx where
  all := rfl
  net := rfl
  torus := fun _ _ => rfl
  contexts := fun k hk => by
    show aget (amod (amod s.ctxs c.cx f) c.cx g) k = _
    simp [aget_amod, hk]
  memory := fun _ => rfl

/-- The context after an instruction that changes its own context alone. -/
theorem State.ctx_settled (s : State) (c : Cur) (f g : Ctx → Ctx) (uid : Nat) (h : s.holds c.cx = true) :
    (((((s.onMe c f).endInstr uid).modCtx c.cx g)).count (coreOf c.cx) 0).ctx c.cx = g (f (s.ctx c.cx)) := by
  simp [State.ctx_modCtx, State.onMe, h]

/-! ## The shapes of completion -/

/-- The masks of an implicit region boundary, or none. -/
def boundaryIf (b : Bool) : Option Masks := if b then some allLive else none

/-- The context that an instruction leaves whose body made y of it. -/
def Ctx.after (y : Ctx) (cy : Nat) (a : Word) (n : Nat) (b : Bool) : Ctx :=
  { y.issued cy a with
    pc := y.pcAfter a n, csrs := { y.csrs with eff := y.csrs.base, lcnt := y.countAfter a }
    region := if b then { entry := y.pcAfter a n, lcnt := y.countAfter a, lbeg := y.csrs.lbeg, lend := y.csrs.lend, fcsr := y.csrs.fcsr }
              else y.region }

theorem Ctx.finish_after (y : Ctx) (cy : Nat) (a : Word) (n : Nat) (b : Bool) :
    y.finish cy a n y.csrs.lend none (boundaryIf b) = y.after cy a n b := by
  cases b
  · exact Ctx.finish_none y cy a n
  · show Ctx.finish y cy a n y.csrs.lend none (some allLive) = _
    rw [Ctx.finish_live, Ctx.finish_none]; rfl

/-- What a body that changes its own context alone leaves, where no step trap follows. -/
theorem State.ctx_settle (s : State) (c : Cur) (f : Ctx → Ctx) (b : Bool) (h : s.holds c.cx = true) (hn : (s.ctx c.cx).NoStep)
    (hl : (f (s.ctx c.cx)).csrs.lend = (s.ctx c.cx).csrs.lend) :
    (s.settle c (.done (s.onMe c f) none (boundaryIf b))).ctx c.cx = (f (s.ctx c.cx)).after s.cycle c.addr c.len b := by
  rw [State.settle_done _ _ _ _ _ hn, State.ctx_settled s c f _ _ h, ← hl]
  exact Ctx.finish_after _ _ _ _ _

theorem State.same_settle (s : State) (c : Cur) (f : Ctx → Ctx) (tgt : Option Word) (b : Option Masks) (hn : (s.ctx c.cx).NoStep) :
    SameElse s (s.settle c (.done (s.onMe c f) tgt b)) c.cx := by
  rw [State.settle_done _ _ _ _ _ hn]
  exact SameElse.of_onMe s c _ _ _

/-- An instruction whose body writes one scalar register and raises flags. -/
theorem WroteS.of_settle (s : State) (c : Cur) (d : BitVec 6) (f : Ctx → Word) (g : Ctx → BitVec 6) (b : Bool)
    (h : s.holds c.cx = true) (hn : (s.ctx c.cx).NoStep) :
    WroteS s (s.settle c (.done (s.onMe c (fun x => (x.orFlags (g x)).writeS d (f x))) none (boundaryIf b))) c d (f (s.ctx c.cx)) (g (s.ctx c.cx)) b := by
  have hc := s.ctx_settle c (fun x => (x.orFlags (g x)).writeS d (f x)) b h hn (by simp [Ctx.orFlags])
  refine ⟨?_, ?_, ?_, ?_, ?_, ?_, ?_, ?_, ?_, s.same_settle c _ _ _ hn⟩
  all_goals rw [hc]
  · exact (Ctx.readS_writeS _ d d _).trans (if_pos rfl)
  · exact Ctx.fullS_writeS _ d _
  · intro r hr
    exact (Ctx.sreg_writeS _ d r _).trans (if_neg (fun e => hr e.1))
  · exact Ctx.writeS_vregs _ d _
  · simp [Ctx.after]
  · simp [Ctx.after, Ctx.pcAfter, Ctx.orFlags]
  · simp [Ctx.after, Ctx.countAfter, Ctx.orFlags]
  · cases b
    · simp [Ctx.after]
    · simp [Ctx.after, Ctx.opened]
  · show Ctx.rest _ = _
    have : ∀ y : Ctx, (y.after s.cycle c.addr c.len b).rest = y.rest := fun _ => rfl
    rw [this, Ctx.writeS_rest]; rfl

/-- An instruction whose body writes one scalar register and raises no flag. -/
theorem WroteS.of_settle_plain (s : State) (c : Cur) (d : BitVec 6) (f : Ctx → Word) (b : Bool)
    (h : s.holds c.cx = true) (hn : (s.ctx c.cx).NoStep) :
    WroteS s (s.settle c (.done (s.onMe c (fun x => x.writeS d (f x))) none (boundaryIf b))) c d (f (s.ctx c.cx)) 0 b := by
  have e : ∀ x : Ctx, x.orFlags 0 = x := fun x => by simp [Ctx.orFlags]
  have := WroteS.of_settle s c d f (fun _ => 0) b h hn
  simpa only [e] using this

/-- An instruction whose body writes one vector register and raises flags. -/
theorem WroteV.of_settle (s : State) (c : Cur) (d : BitVec 6) (f : Ctx → BitVec 4096) (g : Ctx → BitVec 6)
    (h : s.holds c.cx = true) (hn : (s.ctx c.cx).NoStep) :
    WroteV s (s.settle c (.done (s.onMe c (fun x => (x.orFlags (g x)).writeV d (f x))) none none)) c d (f (s.ctx c.cx)) (g (s.ctx c.cx)) := by
  have hc := s.ctx_settle c (fun x => (x.orFlags (g x)).writeV d (f x)) false h hn rfl
  refine ⟨?_, ?_, ?_, ?_, ?_, ?_, ?_, ?_, s.same_settle c _ _ _ hn⟩
  all_goals rw [show (none : Option Masks) = boundaryIf false from rfl, hc]
  · simp [Ctx.after, Ctx.issued, Ctx.readV, Ctx.writeV]
  · intro r hr
    simp only [Ctx.after, Ctx.issued, Ctx.readV, Ctx.writeV]
    rw [Vector.getElem_set_ne _ _ (fun e => hr e.symm)]
    try rfl
  all_goals rfl

/-- What completing a body that changes nothing leaves of the rest of the package. -/
theorem State.same_settle_plain (s : State) (c : Cur) (tgt : Option Word) (b : Option Masks) (hn : (s.ctx c.cx).NoStep) :
    SameElse s (s.settle c (.done s tgt b)) c.cx := by
  rw [State.settle_done _ _ _ _ _ hn]
  exact ⟨rfl, rfl, fun _ _ => rfl, fun k hk => by
    show aget (amod s.ctxs c.cx _) k = _
    simp [aget_amod, hk], fun _ => rfl⟩

theorem State.ctx_settle_plain (s : State) (c : Cur) (tgt : Option Word) (b : Option Masks) (h : s.holds c.cx = true) (hn : (s.ctx c.cx).NoStep) :
    (s.settle c (.done s tgt b)).ctx c.cx = (s.ctx c.cx).finish s.cycle c.addr c.len (s.ctx c.cx).csrs.lend tgt b := by
  rw [State.settle_done _ _ _ _ _ hn]
  simp [State.ctx_modCtx, h]

/-- A transfer of control whose body changes nothing else. -/
theorem Jumped.of_settle (s : State) (c : Cur) (t : Word) (h : s.holds c.cx = true) (hn : (s.ctx c.cx).NoStep) :
    Jumped s (s.settle c (.done s (some t) none)) c t := by
  have hc := s.ctx_settle_plain c (some t) none h hn
  rw [Ctx.finish_some] at hc
  refine ⟨?_, ?_, ?_, ?_, ?_, ?_, s.same_settle_plain c _ _ hn⟩
  all_goals (rw [hc]; try rfl)

/-- An instruction that changes no register and goes on. -/
theorem WentOn.of_settle (s : State) (c : Cur) (b : Bool) (h : s.holds c.cx = true) (hn : (s.ctx c.cx).NoStep) :
    WentOn s (s.settle c (.done s none (boundaryIf b))) c b := by
  have hc := s.ctx_settle_plain c none (boundaryIf b) h hn
  rw [Ctx.finish_after] at hc
  refine ⟨?_, ?_, ?_, ?_, ?_, ?_, ?_⟩
  all_goals (rw [hc]; cases b <;> rfl)

/-- What is left as it was by one change, then by another. -/
theorem SameElse.trans {s u t : State} {cx : Nat} (h1 : SameElse s u cx) (h2 : SameElse u t cx) : SameElse s t cx where
  all := (congrArg (fun v : State => { v with ctxs := s.ctxs, perf := s.perf, net := s.net, opDenials := s.opDenials }) h2.all).trans h1.all
  net := (congrArg (fun v : Net => { v with fwds := s.net.fwds, dieFlits := s.net.dieFlits, lanes := s.net.lanes }) h2.net).trans h1.net
  torus := fun n hn => (h2.torus n hn).trans (h1.torus n hn)
  contexts := fun k hk => (h2.contexts k hk).trans (h1.contexts k hk)
  memory := fun a => (h2.memory a).trans (h1.memory a)

/-- Completing or trapping drops the requests of the task and counts. -/
theorem SameElse.dropped (s : State) (uid core n cx : Nat) : SameElse s ((s.endInstr uid).count core n) cx :=
  ⟨rfl, rfl, fun _ _ => rfl, fun _ _ => rfl, fun _ => rfl⟩

/-! ## Traps (R393) -/

/-- The context after trap entry, where a handler takes the trap. -/
theorem State.ctx_trapEntry (s : State) (cx : Nat) (k : Trap) (pc : Word) (len : Nat) (hh : s.holds cx = true) (h : s.Handles cx) :
    (s.trapEntry cx k pc len).ctx cx = { ((s.ctx cx).noteTrap k pc).enter (s.trapVec cx) len with since := s.cycle } ∧
      SameElse s (s.trapEntry cx k pc len) cx := by
  have e : s.trapEntry cx k pc len =
      (((s.modCtx cx (fun c => c.noteTrap k pc)).count (coreOf cx) 5).modCtx cx
        (fun c => { c.enter (s.trapVec cx) len with since := s.cycle })) := by
    have hv : State.trapVec ((s.modCtx cx (fun c => c.noteTrap k pc)).count (coreOf cx) 5) cx = s.trapVec cx := rfl
    have hn : (((s.modCtx cx (fun c => c.noteTrap k pc)).count (coreOf cx) 5).ctx cx).csrs.trapctl = (s.ctx cx).csrs.trapctl := by
      simp [State.ctx_modCtx, hh, Ctx.noteTrap]
    simp only [State.trapEntry, hv, hn, h.1, h.2, Bool.false_eq_true, if_false]
    rfl
  rw [e]
  refine ⟨by simp [State.ctx_modCtx, hh], rfl, rfl, fun _ _ => rfl, fun n hn => ?_, fun _ => rfl⟩
  show aget (amod (amod s.ctxs cx _) cx _) n = _
  simp [aget_amod, hn]

/-- An instruction that traps, and has done nothing else. -/
theorem State.settle_trap (s : State) (c : Cur) (k : Trap) (hk : k.cause ≠ 0) :
    s.settle c (.trap s k) = ((s.endInstr (s.ctx c.cx).uid).count (coreOf c.cx) 0).trapEntry c.cx k c.addr c.len := by
  simp [State.settle, hk]

end Sys2Proof.Machine
end

