-- ==== Sys2Proof/Laws/Operands.lean ====
section
/-!
SUPPORT. What each operand form does, once: the shared operations of `Machine/Operands.lean` where the instruction issues
with its sources ready and no step trap follows.
-/

namespace Sys2Proof.Machine

/-- The body of any instruction that is legal in every mode. -/
theorem State.run_any (s : State) (c : Cur) (srcs : List (BitVec 6 × Bool)) (body : Cur → State → Res) (h : s.Runs c (srcs.map (·.1))) :
    s.run anyMode srcs body = .next (s.settle c (body c s)) :=
  s.run_ready c anyMode srcs body h.1 rfl h.2.1

/-- An instruction that computes one scalar result from its context, raising flags. -/
theorem State.run_wroteS (s : State) (c : Cur) (srcs : List (BitVec 6 × Bool)) (d : BitVec 6) (f : Ctx → Word) (g : Ctx → BitVec 6) (b : Bool)
    (h : s.Runs c (srcs.map (·.1))) :
    ∃ t, s.run anyMode srcs (fun c s => .done (s.onMe c (fun x => (x.orFlags (g x)).writeS d (f x))) none (boundaryIf b)) = .next t ∧
      WroteS s t c d (f (s.ctx c.cx)) (g (s.ctx c.cx)) b :=
  ⟨_, s.run_any c srcs _ h, WroteS.of_settle s c d f g b h.1.2 h.2.2⟩

/-- The same without flags. -/
theorem State.run_wroteS_plain (s : State) (c : Cur) (srcs : List (BitVec 6 × Bool)) (d : BitVec 6) (f : Ctx → Word) (b : Bool)
    (h : s.Runs c (srcs.map (·.1))) :
    ∃ t, s.run anyMode srcs (fun c s => .done (s.onMe c (fun x => x.writeS d (f x))) none (boundaryIf b)) = .next t ∧
      WroteS s t c d (f (s.ctx c.cx)) 0 b :=
  ⟨_, s.run_any c srcs _ h, WroteS.of_settle_plain s c d f b h.1.2 h.2.2⟩

theorem alu2_runs (o : Ops) (f : Word → Word → Word) (s : State) (c : Cur) (h : s.Runs c [o.a, o.b]) :
    ∃ t, alu2 o f s = .next t ∧ WroteS s t c o.d (f ((s.ctx c.cx).readS o.a) ((s.ctx c.cx).readS o.b)) 0 false :=
  s.run_wroteS_plain c (srcAB o) o.d (fun x => f (x.readS o.a) (x.readS o.b)) false h

theorem alu1_runs (o : Ops) (f : Word → Word) (s : State) (c : Cur) (h : s.Runs c [o.a]) :
    ∃ t, alu1 o f s = .next t ∧ WroteS s t c o.d (f ((s.ctx c.cx).readS o.a)) 0 false :=
  s.run_wroteS_plain c (srcA o) o.d (fun x => f (x.readS o.a)) false h

theorem aluImm_runs (o : Ops) (f : Word → Word → Word) (s : State) (c : Cur) (h : s.Runs c [o.a]) :
    ∃ t, aluImm o f s = .next t ∧ WroteS s t c o.d (f ((s.ctx c.cx).readS o.a) o.imm) 0 false :=
  s.run_wroteS_plain c (srcA o) o.d (fun x => f (x.readS o.a) o.imm) false h

theorem aluAcc_runs (o : Ops) (f : Word → Word → Word) (s : State) (c : Cur) (h : s.Runs c [o.a, o.d]) :
    ∃ t, aluAcc o f s = .next t ∧ WroteS s t c o.d (f ((s.ctx c.cx).readS o.d) ((s.ctx c.cx).readS o.a)) 0 false :=
  s.run_wroteS_plain c (srcAD o) o.d (fun x => f (x.readS o.d) (x.readS o.a)) false h

theorem alu2Flags_runs (o : Ops) (f : Word → Word → Word × BitVec 6) (s : State) (c : Cur) (h : s.Runs c [o.a, o.b]) :
    ∃ t, alu2Flags o f s = .next t ∧
      WroteS s t c o.d (f ((s.ctx c.cx).readS o.a) ((s.ctx c.cx).readS o.b)).1 (f ((s.ctx c.cx).readS o.a) ((s.ctx c.cx).readS o.b)).2 false :=
  s.run_wroteS c (srcAB o) o.d (fun x => (f (x.readS o.a) (x.readS o.b)).1) (fun x => (f (x.readS o.a) (x.readS o.b)).2) false h

/-- A branch: taken, it transfers control to addr + 16 × imm; not taken, it goes on. -/
theorem branch1_runs (o : Ops) (p : Word → Bool) (s : State) (c : Cur) (h : s.Runs c [o.a]) :
    ∃ t, branch1 o p s = .next t ∧
      (p ((s.ctx c.cx).readS o.a) = true → Jumped s t c (c.addr + 16 * o.imm)) ∧ (p ((s.ctx c.cx).readS o.a) = false → WentOn s t c false ∧ SameElse s t c.cx) := by
  refine ⟨_, s.run_any c (srcA o) _ h, fun e => ?_, fun e => ?_⟩
  · simp only [State.me, e, if_true]
    exact Jumped.of_settle s c _ h.1.2 h.2.2
  · simp only [State.me, e, Bool.false_eq_true, if_false]
    exact ⟨WentOn.of_settle s c false h.1.2 h.2.2, s.same_settle_plain c _ _ h.2.2⟩

theorem branch2_runs (o : Ops) (p : Word → Word → Bool) (s : State) (c : Cur) (h : s.Runs c [o.a, o.b]) :
    ∃ t, branch2 o p s = .next t ∧
      (p ((s.ctx c.cx).readS o.a) ((s.ctx c.cx).readS o.b) = true → Jumped s t c (c.addr + 16 * o.imm)) ∧
      (p ((s.ctx c.cx).readS o.a) ((s.ctx c.cx).readS o.b) = false → WentOn s t c false ∧ SameElse s t c.cx) := by
  refine ⟨_, s.run_any c (srcAB o) _ h, fun e => ?_, fun e => ?_⟩
  · simp only [State.me, e, if_true]
    exact Jumped.of_settle s c _ h.1.2 h.2.2
  · simp only [State.me, e, Bool.false_eq_true, if_false]
    exact ⟨WentOn.of_settle s c false h.1.2 h.2.2, s.same_settle_plain c _ _ h.2.2⟩

end Sys2Proof.Machine
end

