-- ==== Sys2Proof/Tests/Slice0.lean ====
section
/-!
SUPPORT. Tests of the model, and for every obligation a state and operands that meet the hypotheses of each of its parts.
-/

namespace Sys2Proof.Tests

open Sys2Proof.Machine Sys2Proof.Claims

set_option Elab.async false
set_option linter.unusedVariables false
set_option maxRecDepth 4000

/-! ## Decoding: words written out in the manual beside their instruction -/

/-- The instruction that these words are, all of them. -/
def words (ws : List IWord) : Option Instr :=
  match decode ws with
  | .ok i n => if n = ws.length then some i else none
  | _ => none

theorem test_decode_page_0 : words [0xE340] = some (.mov { d := 3, a := 4 }) ∧
    words [0xE00B] = some (.nop) ∧
    words [0xF060, 0x05D5] = some (.add { d := 5, a := 61, b := 5 }) ∧
    words [0xF100, 0xF6EE, 0x7890] = some (.li { d := 40, imm := -70000 }) ∧
    words [0xF407, 0xF7D2, 0xF67C, 0x7C15] = some (.li { d := 12, imm := 0x7F4A7C15 }) ∧
    words [0xF402, 0x99A0] = some (.st { d := 9, a := 10, imm := 32 }) := by
  decide +kernel

theorem test_decode_page_1 : words [0xF028, 0xF801, 0x2945] = some (.mulhn { d := 9, a := 20, b := 21 }) := by
  decide +kernel

theorem test_decode_page_2 : words [0xF802, 0x8741] = some (.xori { d := 7, a := 4, imm := 1 }) := by
  decide +kernel

theorem test_decode_page_3 : words [0xF409, 0xF78D, 0xF779, 0xF803, 0xACB9] = some (.lih { d := 12, imm := 0x9E3779B9 }) ∧
    words [0xF803, 0xC401] = some (.wfld { d := 4, f := 1 }) ∧
    words [0xF803, 0x8CAB] = some (.bmkl { d := 12, a := 10, b := 11 }) ∧
    words [0xF803, 0x0564] = some (.badv { d := 5, a := 6, f := 4 }) := by
  decide +kernel

theorem test_decode_page_4 : words [0xF7FF, 0xF804, 0x1566] = some (.bne { a := 5, b := 6, imm := -10 }) ∧
    words [0xF804, 0x7603] = some (.loop { a := 6, imm := 3 }) ∧
    words [0xF804, 0x9603] = some (.csrw { a := 6, imm := 3 }) ∧
    words [0xF028, 0xF804, 0xD045] = some (.regn { a := 20, b := 21 }) ∧
    words [0xF804, 0xA005] = some (.trap { imm := 5 }) := by
  decide +kernel

theorem test_decode_page_5 : words [0xF2A0, 0xF805, 0x1456] = some (.range { d := 4, a := 5, b := 6, c := 20 }) ∧
    words [0xF805, 0x4A90] = some (.kwait { d := 10, a := 9 }) ∧
    words [0xF805, 0x5453] = some (.barv { d := 4, a := 5, f := 3 }) := by
  decide +kernel

theorem test_decode_page_6 : words [0xF403, 0xF806, 0x0343] = some (.ldf { d := 3, a := 4, imm := 3, f := 3 }) ∧
    words [0xF7FE, 0xF806, 0x1789] = some (.ldfs { d := 7, a := 8, imm := -2, f := 9 }) ∧
    words [0xF806, 0x345A] = some (.ldfe { d := 4, a := 5, f := 10 }) ∧
    words [0xF806, 0x7073] = some (.fenceSc { f := 7 }) := by
  decide +kernel

theorem test_decode_page_7 : words [0xF455, 0xF807, 0x0567] = some (.amoadd { d := 5, a := 6, b := 7, cls := 5, scope := 5 }) ∧
    words [0xF405, 0xF807, 0x0567] = some (.amoadd { d := 5, a := 6, b := 7, cls := 5 }) ∧
    words [0xF240, 0xF807, 0x9567] = some (.cas { d := 5, a := 6, b := 7, c := 8, cls := 11, scope := 5 }) := by
  decide +kernel

theorem test_decode_page_8 : words [0xF260, 0xF808, 0x09AB] = some (.cp { d := 9, a := 10, b := 11, c := 12, imm := 5 }) := by
  decide +kernel

theorem test_decode_page_9 : words [0xF809, 0xFC4D, 0xFE70, 0x3456] = some (.vfma { d := 4, a := 5, b := 6, mask := 9, zm := true, rnd := 1, e := 7 }) ∧
    words [0xF809, 0x0123] = some (.vadd { d := 1, a := 2, b := 3 }) := by
  decide +kernel

theorem test_decode_page_10 : words [0xF80A, 0x2923] = some (.vcmplt { d := 9, a := 2, b := 3 }) ∧
    words [0xF80A, 0xD45F] = some (.vslide { d := 4, a := 5, imm := -1 }) := by
  decide +kernel

theorem test_decode_page_11 : words [0xF80B, 0x6567] = some (.vaor { d := 5, a := 6, b := 7, imm := 5 }) ∧
    words [0xF80B, 0x9424] = some (.vq { d := 4, a := 2, f := 4 }) := by
  decide +kernel

theorem test_decode_page_12 : words [0xF2A0, 0xF4C3, 0xF80C, 0xAABC] = some (.mmaQ4 { d := 10, a := 11, b := 12, c := 20, imm := 0xC3 }) := by
  decide +kernel

theorem test_decode_page_13 : words [0xF80D, 0x3450] = some (.mshape { d := 4, a := 5 }) ∧
    words [0xF80D, 0x4456] = some (.mmapAllocate { d := 4, a := 5, b := 6 }) := by
  decide +kernel

theorem test_decode_page_14 : words [0xF080, 0xF80E, 0x100E] = some (.sfork { d := 16, b := 14 }) ∧
    words [0xF80E, 0xBCB0] = some (.smapFresh { d := 12, a := 11 }) := by
  decide +kernel

theorem test_decode_page_15 : words [0xF80F, 0x2562] = some (.epostv { d := 5, a := 6, b := 2 }) := by
  decide +kernel

theorem test_decode_page_16 : words [0xF810, 0x1ABC] = some (.ago { d := 10, a := 11, b := 12 }) := by
  decide +kernel

theorem test_decode_page_17 : words [0xF811, 0x0060] = some (.tlbinvGpage { a := 6 }) ∧
    words [0xF811, 0x6567] = some (.pgmov { d := 5, a := 6, b := 7 }) ∧
    words [0xF811, 0x7456] = some (.cldrainDrain { d := 4, a := 5, b := 6 }) ∧
    words [0xF811, 0x5003] = some (.sleep { imm := 3 }) := by
  decide +kernel

/-- A mason's control-store words: MEND; MBR with a condition and an offset of -10 (R342, R347). -/
theorem test_decode_micro : decodeMicro 0x4800000000000000 = some .mend ∧ decodeMicro 0x30000000FFFFFFF6 = some (.mbr { imm := 0xFFFFFFF6 }) := by
  decide +kernel

/-! ## Well-formedness: each check refuses a term -/

/-- The instructions of the manual's examples are well formed. -/
theorem test_wellFormed_examples : (.add { d := 5, a := 61, b := 5 } : Instr).wellFormed = true ∧
    (.li { d := 40, imm := -70000 } : Instr).wellFormed = true ∧
    (.vfma { d := 4, a := 5, b := 6, mask := 9, zm := true, rnd := 1, e := 7 } : Instr).wellFormed = true ∧
    (.mend : Instr).wellFormed = true := by
  decide +kernel

/-- A vector register above 31, a pair that runs past the last register (R155, R157). -/
theorem test_illFormed_registers : (.vadd { d := 32 } : Instr).wellFormed = false ∧
    (.ldp { d := 63 } : Instr).wellFormed = false ∧
    (.range { c := 63 } : Instr).wellFormed = false := by
  decide +kernel

/-- An operand field that the format does not have (R164). -/
theorem test_illFormed_fields : (.bne { d := 1 } : Instr).wellFormed = false ∧
    (.li { a := 1 } : Instr).wellFormed = false ∧
    (.li { b := 1 } : Instr).wellFormed = false ∧
    (.add { f := 1 } : Instr).wellFormed = false ∧
    (.add { c := 1 } : Instr).wellFormed = false := by
  decide +kernel

/-- A trap bit on a field that is no source (R168). -/
theorem test_illFormed_trapBits : (.li { ta := true } : Instr).wellFormed = false ∧
    (.li { tb := true } : Instr).wellFormed = false ∧
    (.li { tc := true } : Instr).wellFormed = false := by
  decide +kernel

/-- Vector controls where the entry takes none, or not this one (R161). -/
theorem test_illFormed_controls : (.vadd { zm := true } : Instr).wellFormed = false ∧
    (.add { mask := 1 } : Instr).wellFormed = false ∧
    (.add { rnd := 1 } : Instr).wellFormed = false ∧
    (.add { fzi := true } : Instr).wellFormed = false ∧
    (.add { fzo := true } : Instr).wellFormed = false ∧
    (.add { sat := true } : Instr).wellFormed = false ∧
    (.vadd { e := 1 } : Instr).wellFormed = false ∧
    (.mmaBf16 { mask := 1 } : Instr).wellFormed = false := by
  decide +kernel

/-- A class or scope on an instruction that is no atomic; an immediate on one that is (R162). -/
theorem test_illFormed_atomics : (.add { cls := 1 } : Instr).wellFormed = false ∧
    (.add { scope := 1 } : Instr).wellFormed = false ∧
    (.amoadd { imm := 1 } : Instr).wellFormed = false := by
  decide +kernel

/-- An immediate that the entry does not take, or too large for its words (R159, R180, R192). -/
theorem test_illFormed_immediates : (.add { imm := 1 } : Instr).wellFormed = false ∧
    (.csrr { imm := 256 } : Instr).wellFormed = false ∧
    (.slli { imm := 64 } : Instr).wellFormed = false ∧
    (.li { imm := 0x1000000000000000 } : Instr).wellFormed = false ∧
    (.addi { d := 63, imm := 0x10000000000 } : Instr).wellFormed = false := by
  decide +kernel

/-- Fields that a micro-instruction does not use or that hold a reserved value (R346 to R348). -/
theorem test_illFormed_micro : (.msink { y := 1 } : Instr).wellFormed = false ∧
    (.mpage { z := 1 } : Instr).wellFormed = false ∧
    (.mloop { y := 1 } : Instr).wellFormed = false ∧
    (.mbr { y := 4 } : Instr).wellFormed = false ∧
    (.mwait { x := 1 } : Instr).wellFormed = false ∧
    (.mwait { imm := 2 } : Instr).wellFormed = false ∧
    (.mset { z := 2 } : Instr).wellFormed = false ∧
    (.mset { z := 1, imm := 8 } : Instr).wellFormed = false := by
  decide +kernel

/-! ## States to test with -/

/-- The instruction that the small states below run. -/
def c0 : Cur := { cx := 0, addr := 0x1000 }

/-- A package in which context 0 of core 0 holds a task whose turn it is; its trap block names a handler. -/
def st (x : Ctx := {}) (f : Cluster → Cluster := id) : State :=
  { State.reset with ctxs := [(0, x)], cur := .core c0, mem := [(33587200, 16)], clusters := State.reset.clusters.set 0 (f {}) }

/-- A package in which an event happens. -/
def ev (x : EvArg := {}) (f : Cluster → Cluster := id) : State :=
  { State.reset with cur := .event, arg := x, boot := { wiping := false }, clusters := State.reset.clusters.set 0 (f {}) }

/-- A context with these registers. -/
def rg (l : List (Nat × Word)) : Ctx := l.foldl (fun x p => x.writeS (BitVec.ofNat 6 p.1) p.2) {}

/-- A context whose register 1 is as given. -/
def reg1 (v : SReg) : Ctx := { sregs := (Vector.replicate 64 {}).set 1 v }

/-- A context in supervisor mode. -/
def sup (x : Ctx := {}) : Ctx := { x with csrs := { x.csrs with trapctl := 1 } }

/-- A context with this vshape. -/
def shaped (v : Word) (x : Ctx := {}) : Ctx := { x with csrs := { x.csrs with vshape := v } }

/-- Addresses in the windows W, A and C of core 0 of this package. -/
def inW (o : Nat) : Word := BitVec.ofNat 64 (0x8000001000000000 + o)
def inA (o : Nat) : Word := BitVec.ofNat 64 (0x9000001000000000 + o)
def inC (o : Nat) : Word := BitVec.ofNat 64 (0xA000001000000000 + o)

/-- The package in full service, with a translation of the first page of global space in the TLB of core 0. -/
def gl (x : Ctx := {}) : State :=
  { st x with regs := { full := true, capStacks := 0xFFF, gvtbEn := true }, caches := { tlbs := [(0, [{ rd := true, wr := true, dirty := true }])] } }

/-- Context 0 at address 0, whose code page is mapped and holds zeros. -/
def coded : State := { State.reset.withFetchWord 16 0 with cur := .core { cx := 0, addr := 0 } }

theorem words_of {e : FetchEnd} (h : (match e with | .words _ _ => true | _ => false) = true) : ∃ u ws, e = .words u ws := by
  cases e <;> simp_all

/-- A memory core runs a firmware task. -/
def fw : State :=
  { st {} (fun c => { c with inService := true }) with ctxs := [(8192, {})], cur := .core { cx := 8192 } }

/-- A task that holds keystone 0x8000 of its own with this weight left to it. -/
def keyed (weight : Word) : State :=
  { st { rg [(1, 0x8000)] with csrs := { kst := 0x8000, twt := weight } } (fun c => { c with yard := [(0, { ksets := [0x8000] })] }) with
    keystones := [(0x8000, { issued := 2 ^ 62 })] }

/-- The translation of the first page of global space that `gl` holds. -/
def page0 : TlbEntry := { rd := true, wr := true, dirty := true }

/-- The first granule of W of core 0 is empty, and register 1 names it. -/
def emptied : State := { st (rg [(1, inW 0)]) with mem := [(33587200, 16), (feBase, 0xFE)] }

/-- The task of context 0 waits in LDFE. -/
def waitingLdfe : State :=
  { st { uid := 1, wait := some { kind := .granule } } with ldfes := [{ uid := 1, w := 64 }], mem := [(feBase, 0xFE)] }

/-- The task of context 0 waits in LDFE and has been served. -/
def servedLdfe : State :=
  { st { uid := 7, wait := some { kind := .granule, pc := 0x1000 } } with ldfes := [{ uid := 7, pc := 0x1000, got := .value 5 }] }

/-- A copy of 64 bits between windows that runs, and a multicast of 64 bits still to be delivered at core 0. -/
def oneBlock : CopyOp := { handle := 1, rows := 1, len := 64, dst := inW 960, src := inA 0, running := true }
def delivered : CopyOp := { handle := 1, kind := .mcast, len := 64, dst := inW 0, running := true, dests := [0], snap := 1 }

theorem operands_of {s : State} {ops : List Word}
    (h : ops.all (fun a => !a.getLsbD 63 || (decide (winOf a < 2) && decide (pkgAt s a = s.sys.self))) = true) : CopyOperands s ops := by
  intro a ha hb
  have := List.all_eq_true.mp h a ha
  simp_all

theorem cons_of {α : Type} {l : List α} {P : α → List α → Prop} (h : l.isEmpty = false) (hp : ∀ m ms, P m ms) : ∃ m ms, l = m :: ms ∧ P m ms := by
  cases l with
  | nil => cases h
  | cons m ms => exact ⟨m, ms, rfl, hp m ms⟩

/-- Six facts, and a seventh. -/
theorem and6 {a b c d e f r : Prop} (h : a ∧ b ∧ c ∧ d ∧ e ∧ f) (hr : r) : a ∧ b ∧ c ∧ d ∧ e ∧ f ∧ r :=
  ⟨h.1, h.2.1, h.2.2.1, h.2.2.2.1, h.2.2.2.2.1, h.2.2.2.2.2, hr⟩

theorem outFits0 : OutFits 0 {} 32 := by unfold OutFits; decide +kernel

theorem unmapped {s : State} {cl uid slot : Nat} (h : slot ≠ 0) (h' : aget (s.cluster cl).maps slot = none) (m : MapSlot) :
    ¬ MapNamed s cl uid slot m := by
  rintro (⟨h1, -⟩ | ⟨-, h2, -⟩)
  · exact h h1
  · rw [h'] at h2; cases h2

theorem notOperand {s : State} {cl : Nat} {base : Word} {R w : Nat} {sc : Bool} {v : Word} {Q : Prop} (h : base.getLsbD 63 = true)
    (h' : 2 ≤ winOf base) : ¬ (OperandOk s cl base R w sc v ∧ Q) := by
  rintro ⟨h1 | ⟨-, h2, -⟩, -⟩
  · rw [h] at h1; cases h1
  · omega

theorem lane0 {x : Ctx} {o : Ops} {P : Nat → Prop} (h : ∀ i < 64, isActive x o i = true → i = 0) (h0 : P 0) :
    ∀ i < 64, isActive x o i = true → P i := fun i hi ha => h i hi ha ▸ h0

/-- With one row and one column, lane 0 alone is active. -/
theorem only0 : ∀ i < 64, isActive ((st (shaped 0x100A (rg [(1, inW 0x3FFFE0)]))).ctx c0.cx) { a := 1 } i = true → i = 0 := by
  decide +kernel

/-- A CSR record in W whose ROWP names zeros there. -/
def sparse : State :=
  { st (rg [(1, inW 0x10000)]) with mem := [(windowBase + 0x2002, 2), (windowBase + 0x2004, 0x10), (windowBase + 0x2007, 0x80)] }

theorem sparseWords (k v : Nat) (h : (k, v) ∈ [(0, 0x8000001000020000), (64, 0), (128, 0)]) :
    InWindows sparse 0 (inW 0x10000 + BitVec.ofNat 64 k) 64 ∧ InCluster 0 (inW 0x10000 + BitVec.ofNat 64 k) 64 ∧ ReadsAs sparse (inW 0x10000 + BitVec.ofNat 64 k) 64 v := by
  simp only [List.mem_cons, Prod.mk.injEq, List.not_mem_nil, or_false] at h
  rcases h with ⟨rfl, rfl⟩ | ⟨rfl, rfl⟩ | ⟨rfl, rfl⟩ <;>
    exact ⟨by unfold InWindows InRange; decide +kernel, by unfold InCluster; decide +kernel, by unfold ReadsAs; decide +kernel⟩

theorem allMaps : ∀ j < 64, (aget ((List.range 64).map (fun i => (i, ({} : MapSlot)))) j).isSome = true := by decide +kernel

/-- An MZERO whose tile-task waits for an engine. -/
def ready : State := ev {} (fun c => { c with gen := [{ fmt := 32 }], tiles := [{}] })

theorem idle : ∀ f : Fin 4, (ready.cluster 0).engines[f] = none := by decide +kernel

/-- The rows of the least product lie apart. -/
theorem apart : ∀ m < 128, m ≠ 0 → ∀ n < 128, ∀ n' < 128,
    (outPlace 0 {} 32 m n).1 ≠ (outPlace 0 {} 32 0 n').1 ∨ (outPlace 0 {} 32 m n).2 ≠ (outPlace 0 {} 32 0 n').2 := by
  intro m hm h0 n hn n' hn'
  have hM : shapeM 0 = 128 := by decide
  have hN : shapeN 0 = 128 := by decide
  simp only [outPlace, hM, hN, if_true]
  omega

theorem notLive {s : State} {cl : Nat} {id : BitVec 32} (h : aget (s.cluster cl).streams.ctxs (id.toNat % 4096) = none) : NotLive s cl id := by
  rintro u ⟨-, -, -, h', -⟩
  rw [h] at h'; cases h'

theorem freeSlot {s : State} {cl : Nat} (h : aget (s.cluster cl).streams.ctxs 0 = none) (h' : (s.cluster cl).streams.inn = []) :
    FreeSlot s cl 0 := by
  refine ⟨by decide, ?_, ?_, h'⟩
  · intro u hu; rw [h] at hu; cases hu
  · intro j hj; omega

/-- SMIG of stream 1, in this state, to a package. -/
def migrating (x : StreamState) (pkg : Nat) : State :=
  { st (rg [(1, 1), (2, BitVec.ofNat 64 pkg)]) (fun c => { c with streams := { ctxs := [(1, { id := 1, state := x })] } }) with
    sys := { others := [(5, (0, 0, 0))] } }

/-- A stream operation with handle 1 is performed. -/
def sop (op : EngOp) (us : List StreamCtx := []) : State :=
  ev { w := 1 } (fun c => { c with streams := { queue := [op], ctxs := us.map (fun u => (u.id.toNat % 4096, u)) } })

/-- SNEW with a frame in the node ring. -/
def ringed : State := { sop { handle := 1 } with mem := [(24, 1)] }

def popped : Nat × State := (ringed.popFrame 0 false).get (by decide +kernel)

theorem popped_eq : ringed.popFrame 0 false = some (popped.1, popped.2) :=
  (Option.some_get (by decide +kernel : (ringed.popFrame 0 false).isSome = true)).symm

/-- SMAP of a fresh page of stream 1, whose root node is at 0x2000, with a frame in the page ring. -/
def rooted : StreamCtx := { id := 1, state := .idle, root := 0x2000 }
def freshPage : State :=
  { sop { handle := 1, op := 11, a := 0x100000000 } [rooted] with mem := [(34, 2), (56, 1), (0x2000, 1), (0x2001, 0x10), (0x4002, 3)], regs := { refb := 1 } }

def popped2 : Nat × State := (freshPage.popFrame 0 true).get (by decide +kernel)

theorem popped2_eq : freshPage.popFrame 0 true = some (popped2.1, popped2.2) :=
  (Option.some_get (by decide +kernel : (freshPage.popFrame 0 true).isSome = true)).symm

/-- The first page of global space is mapped, with every permission. -/
def mapped (f : Cluster → Cluster) : State := { ev {} f with mem := codeTables [], regs := { gvtbEn := true } }

theorem ringAt {s : State} {a : Word} {n key place : Nat} {leaf : Word} {level : Nat} (h : Undisturbed s) (hw : s.globalWalk a = .leaf place leaf level)
    (h' : (a.toNat % (64 * n) = 0) ∧ leaf.getLsbD 6 = true ∧ leaf.getLsbD 7 = true ∧ (leafEntry a leaf level).wr = true ∧
      (leafEntry a leaf level).own = s.sys.self ∧ key = (leafEntry a leaf level).frame + a.toNat / 8 % 2 ^ (leafEntry a leaf level).size ∧
      key + 8 * n ≤ s.memTop) : RingAt s a n key :=
  ⟨h, h'.1, place, leaf, level, hw, h'.2⟩

/-- SJOIN of stream 1, whose join group in die 1 is as given. -/
def grouped (g : JoinGroup) : State :=
  { sop { handle := 1, op := 4, a := 1 } [{ id := 1, state := .idle, jg := 0x40 }] with dies := State.reset.dies.set 1 { groups := [g] } }

/-- A population of one neuron on core 0; the same with a fan-out table in A. -/
def pop1 : Pop := { words := [0x0000010002000000] }
def pop2 : Pop := { words := [0x0000010002000000, 0, inA 0] }
def onePop : EventUnit := { pops := [(0, pop1)] }

/-- An event operation with handle 1 is performed. -/
def eop (op : EngOp) (e : EventUnit := {}) : State := ev { w := 1 } (fun c => { c with events := { e with queue := [op] } })

/-- AGO of a valid parameter record at byte 64 of global space, for stream 1. -/
def recorded : State :=
  { st (rg [(1, 512)]) (fun c => { c with streams := { ctxs := [(1, { id := 1, state := .idle })] } }) with
    mem := memSet (memSet (codeTables []) (codeBase + 64) 0x0000000100000001) (codeBase + 64 + 24) 0x3F800000
    regs := { gvtbEn := true } }

def recordRead : State × List Nat × EngRead :=
  recorded.engRead (engineAgent (recorded.rightsOf c0.cx)) 8 [] ((recorded.ctx c0.cx).readS ({ a := 1 } : Ops).a) 512

theorem triple {α β γ : Type} (p : α × β × γ) : p = (p.1, p.2.1, p.2.2) := rfl

theorem recordRead_eq : recorded.engRead (engineAgent (recorded.rightsOf c0.cx)) 8 [] ((recorded.ctx c0.cx).readS ({ a := 1 } : Ops).a) 512 =
    (recordRead.1, recordRead.2.1, recordRead.2.2) := triple recordRead

/-- An ALOAD of the first word of A. -/
def loaded : Job := { load := true, first := 2047, count := 1, src := inA 0 }

/-- The mason of cluster 0 runs a micro-instruction of this job. -/
def masonRuns (r : JobRun) : State := { ev {} (fun c => { c with mason := { run := some r } }) with cur := .mason 0 }

/-- A job whose register 1 names W. -/
def named1 : JobRun := { g := (Vector.replicate 16 0).set 1 (inW 0) }

/-- A job with a page to open, and the tree of its stream. -/
def paged : JobRun := { job := { params := [0x0000000100000001] } }
def treed : State :=
  { ev {} (fun c => { c with mason := { run := some paged }, streams := { ctxs := [(1, { id := 1, state := .idle })] } }) with
    cur := .mason 0, mem := [(0, 1), (1, 0x10), (0x1000, 3), (0x1002, 2)], regs := { refb := 1 } }
def leaf0 : TlbEntry := { stream := true, key := 2 ^ 18, sid := 1, frame := 0x20000, rd := true, dirty := true }

/-- A job of one row of 256 elements with a page open, Q in A, and its areas apart in C. -/
def oneRow : JobRun :=
  { job := { params := [1, inA 0, 0, 0x3F800000, 0, 0x0020000000000000, 0x0100020004000000] }, rows := [{}], isOpen := true }

theorem oneRow_ok (s : State) (h : s.poison = [] ∧ s.ldfes = []) : OneRow s 0 oneRow {} :=
  ⟨⟨rfl, by decide +kernel, by decide +kernel, by decide +kernel⟩,
    ⟨by decide +kernel, by decide +kernel, by decide +kernel, by decide +kernel⟩, h⟩

/-- n f32 words of −∞ from a key. -/
def infs (a : Nat) : Nat → List Host.Cell
  | 0 => []
  | n + 1 => (a + 4 * n + 2, 0x80) :: (a + 4 * n + 3, 0xFF) :: infs a n

theorem infs_bytes (a k : Nat) (h : a + 4 * k + 1 < feBase) : ∀ n, memByte (infs a n) (a + 4 * k) = 0 ∧ memByte (infs a n) (a + 4 * k + 1) = 0 ∧
    (k < n → memByte (infs a n) (a + 4 * k + 2) = 0x80 ∧ memByte (infs a n) (a + 4 * k + 3) = 0xFF) := by
  intro n
  induction n with
  | zero =>
    refine ⟨?_, ?_, fun h => absurd h (by omega)⟩ <;> exact if_neg (by omega)
  | succ n ih =>
    obtain ⟨h0, h1, h2⟩ := ih
    refine ⟨?_, ?_, ?_⟩
    · rw [infs, memByte, if_neg (by omega), memByte, if_neg (by omega), h0]
    · rw [infs, memByte, if_neg (by omega), memByte, if_neg (by omega), h1]
    · intro hk
      rcases Nat.lt_succ_iff_lt_or_eq.mp hk with hk | rfl
      · rw [infs, memByte, if_neg (by omega), memByte, if_neg (by omega), memByte, if_neg (by omega), memByte, if_neg (by omega)]
        exact h2 hk
      · exact ⟨by rw [infs, memByte, if_pos rfl], by rw [infs, memByte, if_neg (by omega), memByte, if_pos rfl]⟩

/-- The same, every score being −∞. -/
def masked : State := { masonRuns oneRow with mem := infs (windowBase + 0xC0100) 128 }

theorem allMasked (k : Nat) (h : k < 128) : codeAt masked 0 (oneRow.job.scoreAt 0 + 32 * k) = 0xFF800000 := by
  have hs : oneRow.job.scoreAt 0 = 2048 := by decide +kernel
  have hk : windowKey 0 2 (2048 + 32 * k) = windowBase + 0xC0100 + 4 * k := by simp only [windowKey]; omega
  obtain ⟨h0, h1, h2⟩ := infs_bytes (windowBase + 0xC0100) k (by simp only [windowBase, feBase]; omega) 128
  obtain ⟨h2, h3⟩ := h2 h
  simp only [codeAt, hs, hk, memBytes, masked, Nat.add_assoc] at *
  rw [h0, h1, h2, h3]
  decide

/-- CLDRAIN of cluster 1 with this action, the cluster being as given. -/
def draining (act : Word) (c : Cluster) : State :=
  { st (sup (rg [(1, 1), (2, act)])) with clusters := State.reset.clusters.set 1 c }

/-- A job of one row of 64 elements of 8 bits. -/
def narrowRow : JobRun :=
  { job := { params := [1, inA 0, 0, 0x3F800000, 0, 0x0040000000000000, 0x0100020004000000] }, rows := [{}], isOpen := true }

def narrowTile : JobRun := { narrowRow with tile := some 0 }

theorem narrowRow_ok (s : State) (h : s.poison = [] ∧ s.ldfes = []) : OneRow s 0 narrowTile {} :=
  ⟨⟨rfl, by decide +kernel, by decide +kernel, by decide +kernel⟩,
    ⟨by decide +kernel, by decide +kernel, by decide +kernel, by decide +kernel⟩, h⟩

/-- Contexts 0 to n − 1, each with a task of base priority 3 but for context 0. -/
def tasks : Nat → Assoc Ctx
  | 0 => []
  | n + 1 => (n, { csrs := { base := if n = 0 then 0 else 3 } }) :: tasks n

theorem tasks_hold : ∀ n k, k < n → (aget (tasks n) k).isSome = true
  | n + 1, k, h => by
    by_cases hk : k = n
    · rw [tasks, aget, if_pos hk]; rfl
    · rw [tasks, aget, if_neg hk]; exact tasks_hold n k (by omega)

/-- Every context of cluster 0 holds a task, and one of base priority 1 waits. -/
def crowded : State :=
  { ev { j := 2 } (fun c => { c with inService := true, yard := [(600, { place := .fresh {}, base := 1 })] }) with ctxs := tasks 512, cycle := 256 }

theorem crowded_full : ∀ k < 512, crowded.holds (0 * 512 + k) = true := fun k h => by
  rw [Nat.zero_mul, Nat.zero_add]; exact tasks_hold 512 k h

theorem crowded_victim : crowded.victim 0 2 = some 0 := by
  set_option maxRecDepth 20000 in decide +kernel

/-- A range task on context 8 with two indices left, and context 0 free. -/
def splitting : State :=
  { ev {} (fun c => { c with inService := true, yard := [(0, { kind := .range, place := .running 8 })], took := (1, 0) }) with
    ctxs := [(8, { range := some { hi := 2 } })] }

/-- A cluster whose yard is full and whose tile generator holds an instruction. -/
def full (w : List QueueWait) : State :=
  { ev { j := 1 } (fun c => { c with gen := [{}], yard := List.replicate 1024 (0, {}), waits := w }) with cycle := 1024 }

theorem records_free : ∀ n, ((List.replicate n ((0 : Nat), ({} : YRec))).filter (fun r => decide (r.1 < 1024))).length = n
  | 0 => rfl
  | n + 1 => by rw [List.replicate_succ, List.filter_cons_of_pos (by rfl), List.length_cons, records_free n]

theorem full_waits (w : List QueueWait) : (full w).waitsOn 0 1 = some (4, 0) := by
  have h : ((full w).cluster 0).freeRecs = 0 := by
    show 1024 - ((List.replicate 1024 ((0 : Nat), ({} : YRec))).filter (fun r => decide (r.1 < 1024))).length = 0
    rw [records_free]
  have h' : ((full w).cluster 0).recordFor (yardThreshold 1) 1 = none := by
    unfold Cluster.recordFor; rw [h]; rfl
  simp only [State.waitsOn, h']
  rfl

/-- An image of this kind whose signatures verify. -/
def image (k : ImageKind) : Image := { kind := k, edOk := true, mlOk := true, vendorTest := true }

theorem accepted {s : State} {k : ImageKind} {n : Nat} (h : s.fuses = {}) : Accepted s { image k with request := n } := by
  constructor <;> simp [h, image]

/-- A slice 0 of a die as given, in full service. -/
def carved (d : Die) (x : Slice) (cycle : Nat) : State :=
  { ev with dies := State.reset.dies.set 0 { d with slices := d.slices.set 0 x }, regs := { full := true }, cycle := cycle }

/-- Every torus link serves. -/
def joined : Net := { links := Vector.replicate 6 { up := true } }

/-- A packet arrives from package 1. -/
def arr (p : Packet) (f : Cluster → Cluster := id) : State :=
  { ev { pkt := p } f with sys := { ext := (2, 1, 1), others := [(1, (1, 0, 0))] }, net := joined }

theorem arrives {s : State} {x : EvArg} {p : Packet} {op : Nat} (lens : List Nat)
    (h : s.cur = .event ∧ s.arg = x ∧ x.pkt = p ∧ (s.boot.stage ≠ .off ∧ s.boot.stage ≠ .halted) ∧ s.boot.wiping = false ∧ p.spkg ≠ s.sys.self ∧
      s.knows p.spkg = true ∧ p.dpkg = s.sys.self ∧ p.ph = false)
    (hl : (s.firstLink s.sys.self p.spkg false).isSome = true ∧ (∀ k < 6, 1 < s.extentOf k → (s.net.link k).up = true) ∧
      (∀ n < 24, (s.lane n).training = false ∧ (s.lane n).replay ≤ 252) ∧ s.net.wait = [])
    (h' : (op, p.cls, lens) ∈ packetForms ∧ p.op = op ∧ p.len ∈ lens ∧ (p.cls = 1 ∨ (s.flowOf p).next.toNat = p.seq ∧ (s.flowOf p).held = [])) :
    Arrives s x p op := by
  obtain ⟨h1, h2, h3, h4, h5, h6, h7, h8, h9⟩ := h
  obtain ⟨k1, k2, k3, k4⟩ := h'
  exact ⟨⟨⟨h1, h2⟩, h3, h4, h5⟩, ⟨h6, h7, hl.1, hl.2.1, hl.2.2⟩, ⟨h8, fun h => by rw [h9] at h; cases h⟩, ⟨lens, k1, k2, k3⟩, fun h => k4.resolve_left h⟩

theorem newSlices {s : State} (h : s.dies = State.reset.dies) (n : Nat) : s.slice n = {} := by
  have hf : ∀ a < 4, ∀ b, (hb : b < 16) → (State.reset.dies[a % 4]'(Nat.mod_lt _ (by decide))).slices[b] = ({} : Slice) := by decide +kernel
  simp only [State.slice, State.die, h]
  simpa only [Nat.mod_mod] using hf (n / 16 % 4) (Nat.mod_lt _ (by decide)) (n % 16) (Nat.mod_lt _ (by decide))

theorem newWays {s : State} (h : s.dies = State.reset.dies) (n : Nat) : (s.slice n).retired = [] ∧ (s.slice n).fcur.toNat ≤ 14 ∧
    (s.slice n).moving = false := by
  rw [newSlices h]; decide

theorem noFrames {s : State} (h : s.dies = State.reset.dies) (d page : Nat) : s.frameOf d page = none := by
  simp [State.frameOf, newSlices h]

theorem here {s : State} {p : Packet} (h : p.line < s.memTop ∧ s.memTop ≤ windowBase ∧ s.boot.stackStop = [] ∧ s.moves = [] ∧
    s.regs.hotbTbl = false) (h' : p.tag = 0 ∧ s.caches.l2 = []) (hd : s.dies = State.reset.dies) (hp : s.poison = []) : Here s p :=
  ⟨Or.inl h, ⟨h'.1, h'.2, noFrames hd⟩, hp⟩

/-- An atomic of a whole word. -/
def atom : Packet := { spkg := 1, op := 4, len := 1, payload := [0, 0, 64] }

/-- A packet of a migration that comes in. -/
def inbound (p : Packet) (m : MigDst) : State := arr p (fun c => { c with streams := { inn := [m] } })

/-- The first words that a context at address 0 fetches. -/
def fetched (w : Nat) : FetchEnd := State.fetchWords 0 5 (turnTaken (State.reset.withFetchWord 16 w) []) 0 []

def wordsOf : FetchEnd → State × List IWord
  | .words s ws => (s, ws)
  | _ => (State.reset, [])

theorem words_eq {e : FetchEnd} (h : (match e with | .words _ _ => true | _ => false) = true) : e = .words (wordsOf e).1 (wordsOf e).2 := by
  cases e <;> simp_all [wordsOf]

/-- Context 0 at address 0, whose core has issued in this cycle. -/
def busy : State := { State.reset.withFetchWord 16 0xE00B with pipes := [(0, 0)] }
def busyWords : FetchEnd := State.fetchWords 0 5 (turnTaken busy []) 0 []

/-- A page that may be executed. -/
def runnable : State := { gl with caches := { tlbs := [(0, [{ ex := true }])] } }

def nextOf : Result → State
  | .next t => t
  | _ => State.reset

theorem next_eq {r : Result} (h : (match r with | .next _ => true | _ => false) = true) : r = .next (nextOf r) := by
  cases r <;> simp_all [nextOf]

theorem decode_eq {ws : List IWord} {i : Instr} {n : Nat} (h : (match decode ws with | .ok j m => decide (j = i ∧ m = n) | _ => false) = true) :
    decode ws = .ok i n := by
  cases hd : decode ws <;> simp_all

theorem turns0 {s : State} {cx : Nat} (h : (s.holds cx = true ∧ (s.ctx cx).drain = false) ∧ cx < 8192) : Turns s cx :=
  ⟨h.1, fun h' => absurd h' (by omega)⟩

/-- Context 0 at a window address, where no fetch goes. -/
def unmappedCode : State := { st { pc := 0x8000000000000000 } with agenda := [.issue 0] }
def unmappedEnd : FetchEnd := State.fetchWords 0 5 (turnTaken unmappedCode []) (unmappedCode.ctx 0).pc []

def badOf : FetchEnd → State × Trap
  | .bad s t => (s, t)
  | _ => (State.reset, { cause := 0 })

theorem bad_eq {e : FetchEnd} (h : (match e with | .bad _ _ => true | _ => false) = true) : e = .bad (badOf e).1 (badOf e).2 := by
  cases e <;> simp_all [badOf]

/-- Context 0 at address 0, the memory cores of every stack being stopped. -/
def heldCode : State :=
  { State.reset.withFetchWord 16 0 with regs := { gvtbEn := true, full := true, capStacks := 0xFFF }, boot := { wiping := false, stackStop := (List.range 12).map (fun n => (n, {})) } }
def heldEnd : FetchEnd := State.fetchWords 0 5 (turnTaken heldCode []) (heldCode.ctx 0).pc []

def waitOf : FetchEnd → State
  | .wait s => s
  | _ => State.reset

theorem wait_eq {e : FetchEnd} (h : (match e with | .wait _ => true | _ => false) = true) : e = .wait (waitOf e) := by
  cases e <;> simp_all [waitOf]

def illegalOf : Decoded → Illegal
  | .illegal x => x
  | _ => { detail := 0, base := 0, npre := 0, page := 0 }

theorem illegal_eq {d : Decoded} (h : (match d with | .illegal _ => true | _ => false) = true) : d = .illegal (illegalOf d) := by
  cases d <;> simp_all [illegalOf]

theorem turn_eq {t : MasonTurn} {i : Instr} (h : (match t with | .run j => decide (j = i) | _ => false) = true) : t = .run i := by
  cases t <;> simp_all

/-! ## One step: results that the manual works out, or that follow from its numbers by hand -/

/-- The state after an instruction that completes. -/
def after (r : Result) : Option State :=
  match r with
  | .next t => some t
  | _ => none

/-- A scalar register, the pc and the memory there. -/
def sAfter (r : Result) (d : BitVec 6) : Option Word := (after r).map (fun t => (t.ctx 0).readS d)
def pcAfter (r : Result) : Option Word := (after r).map (fun t => (t.ctx 0).pc)
def memAfter (r : Result) : Option (List Host.Cell) := (after r).map (·.mem)

/-- Context 0 with these registers and this memory. -/
def on (l : List (Nat × Word)) (m : List Host.Cell := []) : State := { st (rg l) with mem := m }

/-- Sums wrap without a flag (R179). -/
theorem test_add_wraps : sAfter (exec (.add { d := 3, a := 1, b := 2 }) (on [(1, 0xFFFFFFFFFFFFFFFF), (2, 2)])) 3 = some 1 := by
  decide +kernel

/-- The product of the manual's example, its high half unsigned and signed (R179). -/
theorem test_mul_high : sAfter (exec (.mulhn { d := 9, a := 20, b := 21 }) (on [(20, 0x9E3779B97F4A7C15), (21, 5)])) 9 = some 3 ∧
    sAfter (exec (.mulh { d := 9, a := 20, b := 21 }) (on [(20, 0x9E3779B97F4A7C15), (21, 5)])) 9 = some 0xFFFFFFFFFFFFFFFE ∧
    sAfter (exec (.mul { d := 9, a := 20, b := 21 }) (on [(20, 0x9E3779B97F4A7C15), (21, 5)])) 9 = some 0x1715609F7C746C69 := by
  decide +kernel

/-- An arithmetic shift right keeps the sign; its amount is taken modulo 64 (R179). -/
theorem test_sra : sAfter (exec (.sra { d := 3, a := 1, b := 2 }) (on [(1, 0xFFFFFFFFFFFFFFF8), (2, 65)])) 3 = some 0xFFFFFFFFFFFFFFFC := by
  decide +kernel

/-- The constant of the manual's example is completed by LIH (R180). -/
theorem test_lih : sAfter (exec (.lih { d := 12, imm := 0x9E3779B9 }) (on [(12, 0x7F4A7C15)])) 12 = some 0x9E3779B97F4A7C15 := by
  decide +kernel

/-- Field 1 of the manual's work id, with widths 4, 10 and 6 (R38, R183). -/
theorem test_wfld : sAfter (exec (.wfld { d := 4, f := 1 }) (st { csrs := { wid := 0xABC5, wfmt := 4 + 10 * 2 ^ 7 + 6 * 2 ^ 14 } })) 4 = some 700 := by
  decide +kernel

/-- The window address of the manual's example (R187). -/
theorem test_bmkl : sAfter (exec (.bmkl { d := 12, a := 10, b := 11 }) (on [(10, 0x400224D), (11, 0x12345)])) 12 = some 0x8000903000012345 := by
  decide +kernel

/-- Element 10 of a packed i6 array (R185). -/
theorem test_badv : sAfter (exec (.badv { d := 5, a := 6, f := 4 }) (on [(5, 0x10000), (6, 10)])) 5 = some 0x1003C := by
  decide +kernel

/-- A taken branch goes back ten words (R189). -/
theorem test_bne : pcAfter (exec (.bne { a := 5, b := 6, imm := -10 }) (on [(5, 1)])) = some (0x1000 - 160) := by
  decide +kernel

/-- LOOP, two words long, with the manual's offset of 3 (R191). -/
theorem test_loop : (after (exec (.loop { a := 6, imm := 3 }) { on [(6, 3)] with cur := .core { c0 with len := 2 } })).map
    (fun t => ((t.ctx 0).csrs.lcnt, (t.ctx 0).csrs.lbeg, (t.ctx 0).csrs.lend)) = some (3, 0x1020, 0x1030) := by
  decide +kernel

/-- The manual's TRAP #5 in user mode: cause 0x0D, trappc the trap's own address, trapctl 0xA1 (R193, R392). -/
theorem test_trap : (after (exec (.trap { imm := 5 }) { st with cur := .core { c0 with len := 2 } })).map
    (fun t => ((t.ctx 0).csrs.trapcause, (t.ctx 0).csrs.trappc, (t.ctx 0).csrs.trapval, (t.ctx 0).csrs.trapctl)) =
      some (0x0D, 0x1000, 5, 0xA1) := by
  decide +kernel

/-- RTT goes to trappc, in user mode with NEST clear and LEN as it was (R193, the same example). -/
theorem test_rtt : (after (exec .rtt (st { csrs := { trappc := 0x1020, trapctl := 0xA1 } }))).map
    (fun t => ((t.ctx 0).pc, (t.ctx 0).csrs.trapctl)) = some (0x1020, 0x20) := by
  decide +kernel

/-- A 12-bit store at bit 60 of a word crosses into the next (R205, R73). -/
theorem test_stf_crosses : memAfter (exec (.stf { d := 4, a := 5, f := 6 }) (on [(4, 0x765), (5, inW 60)])) =
    some [(windowBase + 7, 0x50), (windowBase + 8, 0x76)] := by
  decide +kernel

/-- LDFS of a byte of sign 1 (R205). -/
theorem test_ldfs : sAfter (exec (.ldfs { d := 4, a := 5, f := 5 }) (on [(5, inW 8)] [(windowBase + 1, 0x80)])) 4 = some 0xFFFFFFFFFFFFFF80 := by
  decide +kernel

/-- The manual's word 0xF0FE, whose upper byte is the atomic's target at class 5 (R214). -/
def atomicOn : State := on [(6, inW 8), (7, 0x113)] [(windowBase, 0xFE), (windowBase + 1, 0xF0)]

theorem test_amoadd : sAfter (exec (.amoadd { d := 5, a := 6, b := 7, cls := 5, scope := 5 }) atomicOn) 5 = some 0xF0 ∧
    memAfter (exec (.amoadd { d := 5, a := 6, b := 7, cls := 5, scope := 5 }) atomicOn) = some [(windowBase, 0xFE), (windowBase + 1, 0x03)] := by
  decide +kernel

theorem test_amomin :
    memAfter (exec (.amomin { d := 5, a := 6, b := 7, cls := 5, scope := 5 }) atomicOn) = some [(windowBase, 0xFE), (windowBase + 1, 0xF0)] ∧
    memAfter (exec (.amominn { d := 5, a := 6, b := 7, cls := 5, scope := 5 }) atomicOn) = some [(windowBase, 0xFE), (windowBase + 1, 0x13)] := by
  decide +kernel

/-- AMOFADD of 2⁻⁸ to a bf16 1.0 is a tie that goes to even, and sets NX (R215). -/
theorem test_amofadd : (after (exec (.amofadd { d := 5, a := 6, b := 7, cls := 7, scope := 5 })
      (on [(6, inW 0), (7, 0x3B80)] [(windowBase, 0x80), (windowBase + 1, 0x3F)]))).map
    (fun t => ((t.ctx 0).readS 5, t.mem, (t.ctx 0).csrs.fcsr.getLsbD 0)) = some (0x3F80, [(windowBase, 0x80), (windowBase + 1, 0x3F)], true) := by
  decide +kernel

/-- With #-1, lane 0 of a slide is 0 and lane i takes lane i − 1 (R237). -/
theorem test_vslide : (after (exec (.vslide { d := 4, a := 5, imm := -1 }) (st (shaped 0x100C0 ((({} : Ctx).writeV 5 0x70000000000000009)))))).map
    (fun t => (vlane ((t.ctx 0).readV 4) 0, vlane ((t.ctx 0).readV 4) 1, vlane ((t.ctx 0).readV 4) 2)) = some (0, 9, 7) := by
  decide +kernel

/-- From reset with NOP where the machine fetches, one step takes the pc past it (R152, R165). -/
theorem test_step_nop : (after (step (State.reset.withFetchWord 16 0xE00B))).map (fun t => (t.ctx 0).pc) = some 16 := by
  decide +kernel

/-! ## Witnesses: what the hypotheses of each part of each obligation ask for exists -/

theorem witness_RegisterOperationsWriteTheirResult :
    ∃ row ∈ binaryOps, ∃ (o : Ops) (s : State) (c : Cur), (s.Runs c [o.a, o.b]) :=
  ⟨_, List.Mem.head _, {}, st, c0, by unfold State.Runs State.Issues Ctx.NoStep Ctx.Ready; decide +kernel⟩

theorem witness_DivisionsTruncateAndFlagZeroDivisors :
    ∃ row ∈ divisionOps, ∃ (o : Ops) (s : State) (c : Cur), (s.Runs c [o.a, o.b]) :=
  ⟨_, List.Mem.head _, {}, st, c0, by unfold State.Runs State.Issues Ctx.NoStep Ctx.Ready; decide +kernel⟩

theorem witness_ImmediateFormsWriteTheirResult :
    (∃ row ∈ immediateOps, ∃ (o : Ops) (s : State) (c : Cur), (s.Runs c [o.a])) ∧
    (∃ (o : Ops) (s : State) (c : Cur), (s.Runs c [])) ∧
    (∃ (o : Ops) (s : State) (c : Cur), (s.Runs c [o.d])) := by
  refine ⟨?_, ?_, ?_⟩
  · exact ⟨_, List.Mem.head _, {}, st, c0, by unfold State.Runs State.Issues Ctx.NoStep Ctx.Ready; decide +kernel⟩
  · exact ⟨{}, st, c0, by unfold State.Runs State.Issues Ctx.NoStep Ctx.Ready; decide +kernel⟩
  · exact ⟨{}, st, c0, by unfold State.Runs State.Issues Ctx.NoStep Ctx.Ready; decide +kernel⟩

theorem witness_UnaryAndAddressOperations :
    (∃ row ∈ unaryOps, ∃ (o : Ops) (s : State) (c : Cur), (s.Runs c [o.a])) ∧
    (∃ row ∈ addressOps, ∃ (o : Ops) (s : State) (c : Cur), (s.Runs c [o.a, o.d])) ∧
    (∃ (o : Ops) (s : State) (c : Cur), (s.Runs c [o.a]) ∧ (classWidth o.f.toNat ≠ 0)) := by
  refine ⟨?_, ?_, ?_⟩
  · exact ⟨_, List.Mem.head _, {}, st, c0, by unfold State.Runs State.Issues Ctx.NoStep Ctx.Ready; decide +kernel⟩
  · exact ⟨_, List.Mem.head _, {}, st, c0, by unfold State.Runs State.Issues Ctx.NoStep Ctx.Ready; decide +kernel⟩
  · exact ⟨{}, st, c0, by unfold State.Runs State.Issues Ctx.NoStep Ctx.Ready; decide +kernel, by decide +kernel⟩

theorem witness_BitCountsAndReversal :
    ∃ (o : Ops) (s : State) (c : Cur), (s.Runs c [o.a]) ∧ ∃ x, (x = (s.ctx c.cx).readS o.a) :=
  ⟨{}, st, c0, by unfold State.Runs State.Issues Ctx.NoStep Ctx.Ready; decide +kernel, _, rfl⟩

theorem witness_BitExtractAndDeposit :
    ∃ (o : Ops) (s : State) (c : Cur), (s.Runs c [o.a, o.b]) ∧ ∃ x m, (x = (s.ctx c.cx).readS o.a) ∧ (m = (s.ctx c.cx).readS o.b) :=
  ⟨{}, st, c0, by unfold State.Runs State.Issues Ctx.NoStep Ctx.Ready; decide +kernel, _, _, rfl, rfl⟩

theorem witness_SelectAndFieldExtraction :
    (∃ (o : Ops) (s : State) (c : Cur), (s.Runs c [o.a, o.b, o.c])) ∧
    (∃ (o : Ops) (s : State) (c : Cur), (s.Runs c [])) ∧
    (∃ (o : Ops) (s : State) (c : Cur), (s.Runs c [o.a]) ∧ ∃ src fw pos, (src = (if o.a = 0 then (s.ctx c.cx).csrs.wid else (s.ctx c.cx).readS o.a)) ∧ (∀
    k, fw k = min ((s.ctx c.cx).csrs.wfmt.toNat / 2 ^ (7 * k) % 128) 64) ∧ (pos = ((List.range o.f.toNat).map fw).sum)) := by
  refine ⟨?_, ?_, ?_⟩
  · exact ⟨{}, st, c0, by unfold State.Runs State.Issues Ctx.NoStep Ctx.Ready; decide +kernel⟩
  · exact ⟨{}, st, c0, by unfold State.Runs State.Issues Ctx.NoStep Ctx.Ready; decide +kernel⟩
  · exact ⟨{}, st, c0, by unfold State.Runs State.Issues Ctx.NoStep Ctx.Ready; decide +kernel, _, _, _, rfl, fun _ => rfl, rfl⟩

theorem witness_AddressCheckWord :
    ∃ (o : Ops) (s : State) (c : Cur), (s.Runs c [o.a]) ∧ (o.f ≠ 15) ∧ ∃ x w, (x = (s.ctx c.cx).readS o.a) ∧ (w = classWidth o.f.toNat) :=
  ⟨{}, st, c0, by unfold State.Runs State.Issues Ctx.NoStep Ctx.Ready; decide +kernel, by decide +kernel, _, _, rfl, rfl⟩

theorem witness_WindowAddressBuilder :
    ∃ (o : Ops) (s : State) (c : Cur), (s.Runs c [o.a, o.b]) ∧ ∃ q b, (q = (s.ctx c.cx).readS o.a) ∧ (b = (s.ctx c.cx).readS o.b) :=
  ⟨{}, st, c0, by unfold State.Runs State.Issues Ctx.NoStep Ctx.Ready; decide +kernel, _, _, rfl, rfl⟩

theorem witness_WindowAddressReaders :
    (∃ (o : Ops) (s : State) (c : Cur), (s.Runs c [o.a]) ∧ (o.f.toNat < 4) ∧ ∃ x, (x = (s.ctx c.cx).readS o.a)) ∧
    (∃ (o : Ops) (s : State) (c : Cur), (s.Runs c [o.a]) ∧ (o.f.toNat < 4) ∧ ∃ x, (x = (s.ctx c.cx).readS o.a) ∧ (o.f.toNat < 2)) := by
  refine ⟨?_, ?_⟩
  · exact ⟨{}, st, c0, by unfold State.Runs State.Issues Ctx.NoStep Ctx.Ready; decide +kernel, by decide +kernel, _, rfl⟩
  · exact ⟨{}, st, c0, by unfold State.Runs State.Issues Ctx.NoStep Ctx.Ready; decide +kernel, by decide +kernel, _, rfl, by decide +kernel⟩

theorem witness_BranchesFollowTheirCondition :
    (∃ row ∈ branches1, ∃ (o : Ops) (s : State) (c : Cur), (s.Runs c [o.a])) ∧
    (∃ row ∈ branches2, ∃ (o : Ops) (s : State) (c : Cur), (s.Runs c [o.a, o.b])) := by
  refine ⟨?_, ?_⟩
  · exact ⟨_, List.Mem.head _, {}, st, c0, by unfold State.Runs State.Issues Ctx.NoStep Ctx.Ready; decide +kernel⟩
  · exact ⟨_, List.Mem.head _, {}, st, c0, by unfold State.Runs State.Issues Ctx.NoStep Ctx.Ready; decide +kernel⟩

theorem witness_JumpsAndCallsTransferControl :
    (∃ (o : Ops) (s : State) (c : Cur), (s.Runs c [])) ∧
    (∃ (o : Ops) (s : State) (c : Cur), (s.Runs c [o.a])) ∧
    (∃ (s : State) (c : Cur), (s.Runs c [63])) := by
  refine ⟨?_, ?_, ?_⟩
  · exact ⟨{}, st, c0, by unfold State.Runs State.Issues Ctx.NoStep Ctx.Ready; decide +kernel⟩
  · exact ⟨{}, st, c0, by unfold State.Runs State.Issues Ctx.NoStep Ctx.Ready; decide +kernel⟩
  · exact ⟨st, c0, by unfold State.Runs State.Issues Ctx.NoStep Ctx.Ready; decide +kernel⟩

theorem witness_LoopSetsUpOneLevel :
    (∃ (o : Ops) (s : State) (c : Cur), (s.Runs c [o.a]) ∧ (c.addr.extractLsb' 0 4 = 0) ∧ ∃ n next, (n = (s.ctx c.cx).readS o.a) ∧ (next = c.addr +
    BitVec.ofNat 64 (16 * c.len)) ∧ ((c.len : Int) ≤ o.imm.toInt) ∧ (n ≠ 0)) ∧
    (∃ (o : Ops) (s : State) (c : Cur), (s.Runs c [o.a]) ∧ (c.addr.extractLsb' 0 4 = 0) ∧ ∃ n next, (n = (s.ctx c.cx).readS o.a) ∧ (next = c.addr +
    BitVec.ofNat 64 (16 * c.len)) ∧ ((c.len : Int) ≤ o.imm.toInt) ∧ (n = 0) ∧ ∃ u ws, (State.fetchWords c.cx 5 s (c.addr + 16 * o.imm) [] = .words u ws)) ∧
    (∃ (o : Ops) (s : State) (c : Cur), (s.Runs c [o.a]) ∧ (c.addr.extractLsb' 0 4 = 0) ∧ ∃ n next, (n = (s.ctx c.cx).readS o.a) ∧ (next = c.addr +
    BitVec.ofNat 64 (16 * c.len)) ∧ (o.imm.toInt < (c.len : Int)) ∧ s.Handles c.cx) := by
  refine ⟨?_, ?_, ?_⟩
  · exact ⟨{ a := 1, imm := 1 }, st (rg [(1, 5)]), c0, by unfold State.Runs State.Issues Ctx.NoStep Ctx.Ready; decide +kernel, by decide +kernel, _, _, rfl, rfl,
    by decide +kernel⟩
  · exact ⟨{ a := 1, imm := 1 }, coded, { cx := 0, addr := 0 }, by unfold State.Runs State.Issues Ctx.NoStep Ctx.Ready; decide +kernel, by decide +kernel, _, _,
    rfl, rfl, by decide +kernel, rfl, words_of (by decide +kernel)⟩
  · exact ⟨{ a := 1 }, st, c0, by unfold State.Runs State.Issues Ctx.NoStep Ctx.Ready; decide +kernel, by decide +kernel, _, _, rfl, rfl, by decide +kernel,
    by unfold State.Handles; decide +kernel⟩

theorem witness_NopAndRegionMarks :
    (∃ (s : State) (c : Cur), (s.Runs c [])) ∧
    (∃ (o : Ops) (s : State) (c : Cur), (s.Runs c [o.a, o.b])) := by
  refine ⟨?_, ?_⟩
  · exact ⟨st, c0, by unfold State.Runs State.Issues Ctx.NoStep Ctx.Ready; decide +kernel⟩
  · exact ⟨{}, st, c0, by unfold State.Runs State.Issues Ctx.NoStep Ctx.Ready; decide +kernel⟩

theorem witness_CsrReads :
    (∃ row ∈ csrTable, ∃ (o : Ops) (s : State) (c : Cur), (s.Runs c []) ∧ (o.imm.toNat = row.1)) ∧
    (∃ (o : Ops) (s : State) (c : Cur), s.Issues c ∧ s.Handles c.cx ∧ (∀ row ∈ csrTable, o.imm.toNat ≠ row.1)) := by
  refine ⟨?_, ?_⟩
  · exact ⟨_, List.Mem.head _, {}, st, c0, by unfold State.Runs State.Issues Ctx.NoStep Ctx.Ready; decide +kernel, by decide +kernel⟩
  · exact ⟨{ imm := 0xFFF }, st, c0, by unfold State.Issues; decide +kernel, by unfold State.Handles; decide +kernel, by decide +kernel⟩

theorem witness_CsrWrites :
    (∃ row ∈ csrWrites, ∃ (o : Ops) (s : State) (c : Cur), (s.Runs c [o.a]) ∧ (o.imm.toNat = row.1) ∧ (row.2.1 = true → (s.ctx c.cx).super = true) ∧
    (c.addr ≠ (s.ctx c.cx).csrs.lend)) ∧
    (∃ (o : Ops) (s : State) (c : Cur), (s.Runs c [o.a]) ∧ (o.imm.toNat = 0x0B) ∧ ((s.ctx c.cx).super = true) ∧ (c.addr ≠ (s.ctx c.cx).csrs.lend) ∧ ∃ w, (w
    = (s.ctx c.cx).readS o.a) ∧ (s.poisoned (s.regs.iddb.toNat * 2 ^ 27 + 8 * (w.toNat % 2 ^ 24)) = false)) := by
  refine ⟨?_, ?_⟩
  · exact ⟨_, List.Mem.head _, {}, st, c0, by unfold State.Runs State.Issues Ctx.NoStep Ctx.Ready; decide +kernel, by decide +kernel⟩
  · exact ⟨{ imm := 0x0B }, st (sup), c0, by unfold State.Runs State.Issues Ctx.NoStep Ctx.Ready; decide +kernel, by decide +kernel, by decide +kernel,
    by decide +kernel, _, rfl, by decide +kernel⟩

theorem witness_CsrWritesRefused :
    ∃ (o : Ops) (s : State) (c : Cur), s.Issues c ∧ s.Handles c.cx ∧ ∃ n, (n = o.imm.toNat) ∧ (7 < n) ∧ (n ≠ 0x0A) ∧ ((s.ctx c.cx).super = true → n ≠ 0x08
    ∧ n ≠ 0x09 ∧ n ≠ 0x0B ∧ n ≠ 0x0C ∧ n ≠ 0x10 ∧ n ≠ 0x11 ∧ n ≠ 0x12 ∧ n ≠ 0x13) :=
  ⟨{ imm := 0xFFF }, st, c0, by unfold State.Issues; decide +kernel, by unfold State.Handles; decide +kernel, _, rfl, by decide +kernel⟩

theorem witness_TrapEntersTheHandler :
    ∃ (o : Ops) (s : State) (c : Cur), s.Issues c ∧ s.Handles c.cx :=
  ⟨{}, st, c0, by unfold State.Issues; decide +kernel, by unfold State.Handles; decide +kernel⟩

theorem witness_RttReturns :
    ∃ (s : State) (c : Cur), (s.Runs c []) ∧ ((s.ctx c.cx).super = true) :=
  ⟨st (sup), c0, by unfold State.Runs State.Issues Ctx.NoStep Ctx.Ready; decide +kernel, by decide +kernel⟩

theorem witness_PrivilegedInstructionsTrapInUserMode :
    ∃ i ∈ privileged, ∃ (o : Ops) (s : State) (c : Cur), s.Issues c ∧ s.Handles c.cx ∧ ((s.ctx c.cx).super = false) :=
  ⟨_, List.Mem.head _, {}, st, c0, by unfold State.Issues; decide +kernel, by unfold State.Handles; decide +kernel, by decide +kernel⟩

theorem witness_CoreKindsTrapOnEachOthersInstructions :
    (∃ i ∈ coresOnly, ∃ (o : Ops) (s : State) (c : Cur), s.Issues c ∧ s.Handles c.cx ∧ (8192 ≤ c.cx)) ∧
    (∃ i ∈ [Instr.mcfetch, Instr.mcsend], ∃ (o : Ops) (s : State) (c : Cur), s.Issues c ∧ s.Handles c.cx ∧ (c.cx < 8192)) := by
  refine ⟨?_, ?_⟩
  · exact ⟨_, List.Mem.head _, {}, fw, { cx := 8192 }, by unfold State.Issues; decide +kernel, by unfold State.Handles; decide +kernel, by decide +kernel⟩
  · exact ⟨_, List.Mem.head _, {}, st, c0, by unfold State.Issues; decide +kernel, by unfold State.Handles; decide +kernel, by decide +kernel⟩

theorem witness_SourcesThatAreNotReadyStopTheInstruction :
    (∃ row ∈ binaryOps, ∃ (o : Ops) (s : State) (c : Cur), s.Issues c ∧ ∃ x, (x = s.ctx c.cx) ∧ (x.failS o.a = true) ∧ s.Handles c.cx) ∧
    (∃ row ∈ binaryOps, ∃ (o : Ops) (s : State) (c : Cur), s.Issues c ∧ ∃ x, (x = s.ctx c.cx) ∧ (x.failS o.a = false) ∧ (x.fullS o.a = false) ∧ (o.ta =
    true) ∧ s.Handles c.cx) ∧
    (∃ row ∈ binaryOps, ∃ (o : Ops) (s : State) (c : Cur), s.Issues c ∧ ∃ x, (x = s.ctx c.cx) ∧ (x.failS o.a = false) ∧ (x.fullS o.a = false) ∧ (o.ta =
    false)) ∧
    (∃ row ∈ binaryOps, ∃ (o : Ops) (s : State) (c : Cur), s.Issues c ∧ ∃ x, (x = s.ctx c.cx) ∧ x.Ready o.a ∧ (x.failS o.b = false) ∧ (x.fullS o.b = false)
    ∧ (o.tb = false)) ∧
    (∃ row ∈ binaryOps, ∃ (o : Ops) (s : State) (c : Cur), s.Issues c ∧ ∃ x, (x = s.ctx c.cx) ∧ x.Ready o.a ∧ (x.failS o.b = false) ∧ (x.fullS o.b = false)
    ∧ (o.tb = true) ∧ s.Handles c.cx) := by
  refine ⟨?_, ?_, ?_, ?_, ?_⟩
  · exact ⟨_, List.Mem.head _, { a := 1 }, st (reg1 { fail := true }), c0, by unfold State.Issues; decide +kernel, _, rfl, by decide +kernel,
    by unfold State.Handles; decide +kernel⟩
  · exact ⟨_, List.Mem.head _, { a := 1, ta := true }, st (reg1 { full := false }), c0, by unfold State.Issues; decide +kernel, _, rfl, by decide +kernel,
    by decide +kernel, by decide +kernel, by unfold State.Handles; decide +kernel⟩
  · exact ⟨_, List.Mem.head _, { a := 1 }, st (reg1 { full := false }), c0, by unfold State.Issues; decide +kernel, _, rfl, by decide +kernel⟩
  · exact ⟨_, List.Mem.head _, { b := 1 }, st (reg1 { full := false }), c0, by unfold State.Issues; decide +kernel, _, rfl, by unfold Ctx.Ready; decide +kernel,
    by decide +kernel⟩
  · exact ⟨_, List.Mem.head _, { b := 1, tb := true }, st (reg1 { full := false }), c0, by unfold State.Issues; decide +kernel, _, rfl,
    by unfold Ctx.Ready; decide +kernel, by decide +kernel, by decide +kernel, by decide +kernel, by unfold State.Handles; decide +kernel⟩

theorem witness_BreakpointFollowsACompletedInstruction :
    ∃ (s : State) (c : Cur), s.Issues c ∧ s.Handles c.cx ∧ ((s.ctx c.cx).super = false) ∧ ((s.ctx c.cx).csrs.trapctl.getLsbD 2 = true) ∧ (c.addr ≠ (s.ctx
    c.cx).csrs.lend) :=
  ⟨st { csrs := { trapctl := 4 } }, c0, by unfold State.Issues; decide +kernel, by unfold State.Handles; decide +kernel, by decide +kernel⟩

theorem witness_WaitiAndSleepEnd :
    (∃ (o : Ops) (s : State) (c : Cur), (s.Runs c []) ∧ ((s.ctx c.cx).super = true) ∧ ((s.ctx c.cx).ntf = true ∨ ∃ n, (s.ctx c.cx).pause = .waiti (some n)
    ∧ n ≤ s.cycle)) ∧
    (∃ (o : Ops) (s : State) (c : Cur), (s.Runs c []) ∧ ((s.ctx c.cx).super = true) ∧ ((s.ctx c.cx).ntf = false) ∧ ((s.ctx c.cx).pause = .none)) ∧
    (∃ (o : Ops) (s : State) (c : Cur), (s.Runs c []) ∧ ((s.ctx c.cx).super = true) ∧ (∃ n, (s.ctx c.cx).pause = .sleep n ∧ n ≤ s.cycle)) ∧
    (∃ (o : Ops) (s : State) (c : Cur), (s.Runs c []) ∧ ((s.ctx c.cx).super = true) ∧ ((s.ctx c.cx).pause = .none)) := by
  refine ⟨?_, ?_, ?_, ?_⟩
  · exact ⟨{}, st { sup with pause := .waiti (some 0) }, c0, by unfold State.Runs State.Issues Ctx.NoStep Ctx.Ready; decide +kernel, by decide +kernel,
    Or.inr ⟨0, by decide +kernel, by decide +kernel⟩⟩
  · exact ⟨{}, st (sup), c0, by unfold State.Runs State.Issues Ctx.NoStep Ctx.Ready; decide +kernel, by decide +kernel⟩
  · exact ⟨{}, st { sup with pause := .sleep 0 }, c0, by unfold State.Runs State.Issues Ctx.NoStep Ctx.Ready; decide +kernel, by decide +kernel,
    ⟨0, by decide +kernel, by decide +kernel⟩⟩
  · exact ⟨{}, st (sup), c0, by unfold State.Runs State.Issues Ctx.NoStep Ctx.Ready; decide +kernel, by decide +kernel⟩

theorem witness_SpawnAndRangeMakeATask :
    (∃ (o : Ops) (s : State) (c : Cur) (k : Nat), ((s.ctx c.cx).rcount = 0) ∧ CanSplit s c.cx ∧ NewRecord s c.cx k ∧ ∃ x, (x = s.ctx c.cx) ∧ (s.Runs c
    [o.a, o.b, o.d, 61])) ∧
    (∃ (o : Ops) (s : State) (c : Cur) (k : Nat), ((s.ctx c.cx).rcount = 0) ∧ CanSplit s c.cx ∧ NewRecord s c.cx k ∧ ∃ x, (x = s.ctx c.cx) ∧ (s.Runs c
    [o.a, o.b, o.c, o.c + 1, o.d, 61])) := by
  refine ⟨?_, ?_⟩
  · exact ⟨{}, st, c0, 0, by decide +kernel, fun h => absurd rfl h, by unfold NewRecord; decide +kernel, _, rfl,
    by unfold State.Runs State.Issues Ctx.NoStep Ctx.Ready; decide +kernel⟩
  · exact ⟨{}, st, c0, 0, by decide +kernel, fun h => absurd rfl h, by unfold NewRecord; decide +kernel, _, rfl,
    by unfold State.Runs State.Issues Ctx.NoStep Ctx.Ready; decide +kernel⟩

theorem witness_RnextReturnsTheNextIndex :
    (∃ (o : Ops) (s : State) (c : Cur), (s.Runs c []) ∧ ((s.cycle, (s.ctx c.cx).uid) ∈ s.splits.map (·.2))) ∧
    (∃ (o : Ops) (s : State) (c : Cur), (s.Runs c []) ∧ ((s.cycle, (s.ctx c.cx).uid) ∉ s.splits.map (·.2))) := by
  refine ⟨?_, ?_⟩
  · exact ⟨{}, { st with splits := [(0, (0, 0))] }, c0, by unfold State.Runs State.Issues Ctx.NoStep Ctx.Ready; decide +kernel, by decide +kernel⟩
  · exact ⟨{}, st, c0, by unfold State.Runs State.Issues Ctx.NoStep Ctx.Ready; decide +kernel, by decide +kernel⟩

theorem witness_KsetAllocatesAKeystone :
    (∃ (o : Ops) (s : State) (c : Cur), (s.Runs c []) ∧ ∃ n, (n = (if 8192 ≤ c.cx then 8 else 64)) ∧ ∃ i < n, (aget s.keystones (slotHandle c.cx i) = none)
    ∧ (∀ j < i, aget s.keystones (slotHandle c.cx j) ≠ none)) ∧
    (∃ (o : Ops) (s : State) (c : Cur), (s.Runs c []) ∧ ∃ n, (n = (if 8192 ≤ c.cx then 8 else 64)) ∧ (∀ i < n, aget s.keystones (slotHandle c.cx i) ≠ none)) := by
  refine ⟨?_, ?_⟩
  · exact ⟨{}, st, c0, by unfold State.Runs State.Issues Ctx.NoStep Ctx.Ready; decide +kernel, _, rfl, 0, by decide +kernel, by decide +kernel⟩
  · exact ⟨{}, { st with keystones := (List.range 64).map (fun i => (0x8000 + i, {})) }, c0,
    by unfold State.Runs State.Issues Ctx.NoStep Ctx.Ready; decide +kernel, _, rfl, by decide +kernel⟩

theorem witness_KwaitReturnsWeight :
    (∃ (o : Ops) (s : State) (c : Cur), (s.Runs c [o.a]) ∧ ∃ x k, (x = s.ctx c.cx) ∧ (k = x.csrs.kst.toNat) ∧ (x.readS o.a ≠ x.csrs.kst ∨ k = 0 ∨ k ∉
    (s.recOf c.cx).ksets)) ∧
    (∃ (o : Ops) (s : State) (c : Cur), (s.Runs c [o.a]) ∧ ∃ x k, (x = s.ctx c.cx) ∧ (k = x.csrs.kst.toNat) ∧ (x.readS o.a = x.csrs.kst) ∧ (k ≠ 0) ∧ (k ∈
    (s.recOf c.cx).ksets) ∧ (0x8000 ≤ k ∧ k < 0x8400 ∧ (k - 0x8000) / 64 ∈ s.boot.left)) ∧
    (∃ (o : Ops) (s : State) (c : Cur), (s.Runs c [o.a]) ∧ ∃ x k, (x = s.ctx c.cx) ∧ (k = x.csrs.kst.toNat) ∧ (x.readS o.a = x.csrs.kst) ∧ (k ≠ 0) ∧ (k ∈
    (s.recOf c.cx).ksets) ∧ (¬ (0x8000 ≤ k ∧ k < 0x8400 ∧ (k - 0x8000) / 64 ∈ s.boot.left)) ∧ ∃ K, (aget s.keystones k = some K) ∧ (K.launch = none) ∧
    (K.orphan = false) ∧ (K.returned + x.csrs.twt = K.issued)) ∧
    (∃ (o : Ops) (s : State) (c : Cur), (s.Runs c [o.a]) ∧ ∃ x k, (x = s.ctx c.cx) ∧ (k = x.csrs.kst.toNat) ∧ (x.readS o.a = x.csrs.kst) ∧ (k ≠ 0) ∧ (k ∈
    (s.recOf c.cx).ksets) ∧ (¬ (0x8000 ≤ k ∧ k < 0x8400 ∧ (k - 0x8000) / 64 ∈ s.boot.left)) ∧ ∃ K, (aget s.keystones k = some K) ∧ (K.launch = none) ∧
    (K.orphan = false) ∧ (K.returned + x.csrs.twt ≠ K.issued)) := by
  refine ⟨?_, ?_, ?_, ?_⟩
  · exact ⟨{ a := 1 }, st (rg [(1, 5)]), c0, by unfold State.Runs State.Issues Ctx.NoStep Ctx.Ready; decide +kernel, _, _, rfl, rfl, by decide +kernel⟩
  · exact ⟨{ a := 1 }, { keyed 0 with boot := { left := [0] } }, c0, by unfold State.Runs State.Issues Ctx.NoStep Ctx.Ready; decide +kernel, _, _, rfl, rfl,
    by decide +kernel⟩
  · exact ⟨{ a := 1 }, keyed (2 ^ 62), c0, by unfold State.Runs State.Issues Ctx.NoStep Ctx.Ready; decide +kernel, _, _, rfl, rfl, by decide +kernel,
    by decide +kernel, by decide +kernel, by decide +kernel, { issued := 2 ^ 62 }, by decide +kernel⟩
  · exact ⟨{ a := 1 }, keyed 5, c0, by unfold State.Runs State.Issues Ctx.NoStep Ctx.Ready; decide +kernel, _, _, rfl, rfl, by decide +kernel, by decide +kernel,
    by decide +kernel, by decide +kernel, { issued := 2 ^ 62 }, by decide +kernel⟩

theorem witness_BarvReadsTheVotes :
    (∃ (o : Ops) (s : State) (c : Cur), (s.Runs c [o.a]) ∧ ∃ r, (r = s.recOf c.cx) ∧ (r.launch = none)) ∧
    (∃ (o : Ops) (s : State) (c : Cur), (s.Runs c [o.a]) ∧ ∃ r, (r = s.recOf c.cx) ∧ ∃ l num inst b v, (r.launch = some l) ∧ (aget r.joins o.f.toNat = some
    (num, inst)) ∧ ((s.cluster (c.cx / 512)).barriers = [b]) ∧ (b.launch = (if 3 ≤ o.f.toNat then some l else none)) ∧ (b.scope = o.f.toNat) ∧ (b.inst =
    inst) ∧ (b.num = num) ∧ ((s.ctx c.cx).uid ∈ b.joined) ∧ (b.result = some v)) ∧
    (∃ (o : Ops) (s : State) (c : Cur), (s.Runs c [o.a]) ∧ ∃ r, (r = s.recOf c.cx) ∧ ∃ l la, (r.launch = some l) ∧ (c.cx < 8192) ∧ (3 ≤ o.f.toNat) ∧ (aget
    r.joins o.f.toNat = none) ∧ ((s.ctx c.cx).rcount = 0) ∧ (aget s.launches l = some la) ∧ (la.total = la.exited + 1) ∧ ((s.cluster (c.cx /
    512)).barriers = []) ∧ (aget (s.cluster (c.cx / 512)).yard (s.ctx c.cx).yr = some r) ∧ (r.uid = (s.ctx c.cx).uid) ∧ (r.kind ≠ .tile)) := by
  refine ⟨?_, ?_, ?_⟩
  · exact ⟨{}, st, c0, by unfold State.Runs State.Issues Ctx.NoStep Ctx.Ready; decide +kernel, _, rfl, by decide +kernel⟩
  · exact ⟨{ f := 3 },
    st {} (fun c => { c with yard := [(0, { launch := some 7, joins := [(3, (1, 0))] })], barriers := [{ launch := some 7, scope := 3, joined := [0], result := some 5 }] }),
    c0, by unfold State.Runs State.Issues Ctx.NoStep Ctx.Ready; decide +kernel, _, rfl, 7, 1, 0,
    { launch := some 7, scope := 3, joined := [0], result := some 5 }, 5, by decide +kernel⟩
  · exact ⟨{ f := 3 }, { st {} (fun c => { c with yard := [(0, { launch := some 7 })] }) with launches := [(7, { total := 1 })] }, c0,
    by unfold State.Runs State.Issues Ctx.NoStep Ctx.Ready; decide +kernel, _, rfl, 7, { total := 1 }, by decide +kernel⟩

theorem witness_ExitEndsTheTask :
    (∃ (s : State) (c : Cur), (s.Runs c []) ∧ ∃ x, (x = s.ctx c.cx) ∧ (x.rcount = 0)) ∧
    (∃ (s : State) (c : Cur), (s.Runs c []) ∧ ∃ x, (x = s.ctx c.cx) ∧ (x.rcount ≠ 0)) := by
  refine ⟨?_, ?_⟩
  · exact ⟨st, c0, by unfold State.Runs State.Issues Ctx.NoStep Ctx.Ready; decide +kernel, _, rfl, by decide +kernel⟩
  · exact ⟨st { rcount := 1 }, c0, by unfold State.Runs State.Issues Ctx.NoStep Ctx.Ready; decide +kernel, _, rfl, by decide +kernel⟩

theorem witness_YieldReturnsToTheYard :
    ∃ (o : Ops) (s : State) (c : Cur) (r : YRec), (s.Runs c []) ∧ (c.cx < 8192) ∧ (aget (s.yardOf c.cx) (s.ctx c.cx).yr = some r) ∧ (s.boot.stackStop =
    []) :=
  ⟨{}, st {} (fun c => { c with yard := [(0, {})] }), c0, {}, by unfold State.Runs State.Issues Ctx.NoStep Ctx.Ready; decide +kernel, by decide +kernel⟩

theorem witness_YieldSavesEveryRegister :
    ∃ (o : Ops) (s : State) (c : Cur) (r : YRec), (s.Runs c []) ∧ (c.cx < 8192) ∧ (aget (s.yardOf c.cx) (s.ctx c.cx).yr = some r) ∧ (s.boot.stackStop =
    []) :=
  ⟨{}, st {} (fun c => { c with yard := [(0, {})] }), c0, {}, by unfold State.Runs State.Issues Ctx.NoStep Ctx.Ready; decide +kernel, by decide +kernel⟩

theorem witness_FutureTests :
    (∃ (o : Ops) (s : State) (c : Cur), (s.Runs c []) ∧ ∃ x, (x = s.ctx c.cx) ∧ x.Ready o.a) ∧
    (∃ (o : Ops) (s : State) (c : Cur), (s.Runs c []) ∧ ∃ x, (x = s.ctx c.cx) ∧ (x.failS o.a = false) ∧ (x.fullS o.a = false)) ∧
    (∃ (o : Ops) (s : State) (c : Cur), (s.Runs c []) ∧ ∃ x, (x = s.ctx c.cx) ∧ (x.failS o.a = true) ∧ s.Handles c.cx) ∧
    (∃ (o : Ops) (s : State) (c : Cur), (s.Runs c []) ∧ ∃ x, (x = s.ctx c.cx)) := by
  refine ⟨?_, ?_, ?_, ?_⟩
  · exact ⟨{}, st, c0, by unfold State.Runs State.Issues Ctx.NoStep Ctx.Ready; decide +kernel, _, rfl, by unfold Ctx.Ready; decide +kernel⟩
  · exact ⟨{ a := 1 }, st (reg1 { full := false }), c0, by unfold State.Runs State.Issues Ctx.NoStep Ctx.Ready; decide +kernel, _, rfl, by decide +kernel⟩
  · exact ⟨{ a := 1 }, st (reg1 { fail := true }), c0, by unfold State.Runs State.Issues Ctx.NoStep Ctx.Ready; decide +kernel, _, rfl, by decide +kernel,
    by unfold State.Handles; decide +kernel⟩
  · exact ⟨{}, st, c0, by unfold State.Runs State.Issues Ctx.NoStep Ctx.Ready; decide +kernel, _, rfl⟩

theorem witness_FcancelAsksTheEngineToStop :
    (∃ (o : Ops) (s : State) (c : Cur), (s.Runs c []) ∧ ∃ x, (x = s.ctx c.cx) ∧ (x.fullS o.a = true)) ∧
    (∃ (o : Ops) (s : State) (c : Cur), (s.Runs c []) ∧ ∃ x, (x = s.ctx c.cx) ∧ (x.fullS o.a = false)) := by
  refine ⟨?_, ?_⟩
  · exact ⟨{}, st, c0, by unfold State.Runs State.Issues Ctx.NoStep Ctx.Ready; decide +kernel, _, rfl, by decide +kernel⟩
  · exact ⟨{ a := 1 }, st (reg1 { full := false }), c0, by unfold State.Runs State.Issues Ctx.NoStep Ctx.Ready; decide +kernel, _, rfl, by decide +kernel⟩

theorem witness_WindowLoads :
    (∃ row ∈ loads, ∃ (o : Ops) (s : State) (c : Cur) (a : Word), (s.Runs c [o.a]) ∧ (a = addressOf (s.ctx c.cx) o (row.2.1 o)) ∧ (0 < row.2.1 o) ∧
    (row.2.1 o ≤ 64) ∧ (InWindows s c.cx a (row.2.1 o)) ∧ Quiet s c.cx) ∧
    (∃ (o : Ops) (s : State) (c : Cur) (a : Word), (s.Runs c [o.a]) ∧ (a = addressOf (s.ctx c.cx) o 128) ∧ (InWindows s c.cx a 128) ∧ Quiet s c.cx) ∧
    (∃ (o : Ops) (s : State) (c : Cur) (a : Word), (s.Runs c [o.a]) ∧ (a = addressOf (s.ctx c.cx) o 64) ∧ (a.extractLsb' 0 6 = 0) ∧ (InWindows s c.cx a 64)
    ∧ Quiet s c.cx) := by
  refine ⟨?_, ?_, ?_⟩
  · exact ⟨_, List.Mem.head _, { a := 1 }, st (rg [(1, inW 0x3FFFC0)]), c0, _, by unfold State.Runs State.Issues Ctx.NoStep Ctx.Ready; decide +kernel, rfl,
    by decide +kernel, by decide +kernel, by unfold InWindows InRange; decide +kernel, by unfold Quiet; decide +kernel⟩
  · exact ⟨{ a := 1 }, st (rg [(1, inW 0x3FFF80)]), c0, _, by unfold State.Runs State.Issues Ctx.NoStep Ctx.Ready; decide +kernel, rfl,
    by unfold InWindows InRange; decide +kernel, by unfold Quiet; decide +kernel⟩
  · exact ⟨{ a := 1 }, st (rg [(1, inC 0x1FFFC0)]), c0, _, by unfold State.Runs State.Issues Ctx.NoStep Ctx.Ready; decide +kernel, rfl, by decide +kernel,
    by unfold InWindows InRange; decide +kernel, by unfold Quiet; decide +kernel⟩

theorem witness_OwnWindowStores :
    (∃ row ∈ stores, ∃ (o : Ops) (s : State) (c : Cur) (a : Word), (s.Runs c [o.a, o.d]) ∧ (a = addressOf (s.ctx c.cx) o (row.2 o)) ∧ (0 < row.2 o) ∧
    (row.2 o ≤ 64) ∧ (InOwnWindows s c.cx a (row.2 o)) ∧ (winOf a ≠ 3) ∧ Quiet s c.cx ∧ ((s.ctx c.cx).rcount ≤ 512)) ∧
    (∃ (o : Ops) (s : State) (c : Cur) (a : Word), (s.Runs c [o.a, o.d, o.d + 1]) ∧ (a = addressOf (s.ctx c.cx) o 128) ∧ (InOwnWindows s c.cx a 128) ∧
    (winOf a ≠ 3) ∧ Quiet s c.cx ∧ ((s.ctx c.cx).rcount ≤ 512)) ∧
    (∃ (o : Ops) (s : State) (c : Cur) (a : Word), (s.Runs c [o.a, o.d]) ∧ (a = addressOf (s.ctx c.cx) o 64) ∧ (a.extractLsb' 0 6 = 0) ∧ (InOwnWindows s
    c.cx a 64) ∧ (winOf a ≠ 3) ∧ Quiet s c.cx ∧ ((s.ctx c.cx).rcount = 0)) := by
  refine ⟨?_, ?_, ?_⟩
  · exact ⟨_, List.Mem.head _, { a := 1 }, st { rg [(1, inW 0x3FFFC0)] with rcount := 512 }, c0, _,
    by unfold State.Runs State.Issues Ctx.NoStep Ctx.Ready; decide +kernel, rfl, by decide +kernel, by decide +kernel,
    by unfold InOwnWindows InWindows InRange; decide +kernel, by decide +kernel, by unfold Quiet; decide +kernel, by decide +kernel⟩
  · exact ⟨{ a := 1 }, st (rg [(1, inA 0x1FFF80)]), c0, _, by unfold State.Runs State.Issues Ctx.NoStep Ctx.Ready; decide +kernel, rfl,
    by unfold InOwnWindows InWindows InRange; decide +kernel, by decide +kernel, by unfold Quiet; decide +kernel, by decide +kernel⟩
  · exact ⟨{ a := 1 }, st (rg [(1, inC 0)]), c0, _, by unfold State.Runs State.Issues Ctx.NoStep Ctx.Ready; decide +kernel, rfl, by decide +kernel,
    by unfold InOwnWindows InWindows InRange; decide +kernel, by decide +kernel, by unfold Quiet; decide +kernel, by decide +kernel⟩

theorem witness_RemoteStores :
    ∃ (o : Ops) (s : State) (c : Cur) (a : Word), (s.Runs c [o.a, o.d]) ∧ (a = addressOf (s.ctx c.cx) o 64) ∧ (a.extractLsb' 0 6 = 0) ∧ (InWindows s c.cx
    a 64) ∧ (8192 ≤ c.cx ∨ (coreAt a).toNat ≠ c.cx / 8) ∧ (winOf a ≠ 3) ∧ Quiet s c.cx ∧ ((s.ctx c.cx).rcount < 512) :=
  ⟨{ a := 1 }, st { rg [(1, inW 0x4000000000)] with rcount := 511 }, c0, _, by unfold State.Runs State.Issues Ctx.NoStep Ctx.Ready; decide +kernel, rfl,
    by decide +kernel, by unfold InWindows InRange; decide +kernel, by decide +kernel, by decide +kernel, by unfold Quiet; decide +kernel,
    by decide +kernel⟩

theorem witness_WindowFaults :
    (∃ (o : Ops) (s : State) (c : Cur) (a : Word), (a = addressOf (s.ctx c.cx) o 64) ∧ (a.extractLsb' 0 6 = 0) ∧ (a.getLsbD 63 = true) ∧ (¬ InRange s a) ∧
    Quiet s c.cx ∧ s.Handles c.cx ∧ (s.Runs c [o.a])) ∧
    (∃ (o : Ops) (s : State) (c : Cur) (a : Word), (a = addressOf (s.ctx c.cx) o 64) ∧ (a.extractLsb' 0 6 = 0) ∧ (a.getLsbD 63 = true) ∧ (¬ InRange s a) ∧
    Quiet s c.cx ∧ s.Handles c.cx ∧ (s.Runs c [o.a, o.d])) := by
  refine ⟨?_, ?_⟩
  · exact ⟨{ a := 1 }, st (rg [(1, inA 0x200000)]), c0, _, rfl, by decide +kernel, by decide +kernel, by unfold InRange; decide +kernel,
    by unfold Quiet; decide +kernel, by unfold State.Handles; decide +kernel, by unfold State.Runs State.Issues Ctx.NoStep Ctx.Ready; decide +kernel⟩
  · exact ⟨{ a := 1 }, st (rg [(1, inA 0x200000)]), c0, _, rfl, by decide +kernel, by decide +kernel, by unfold InRange; decide +kernel,
    by unfold Quiet; decide +kernel, by unfold State.Handles; decide +kernel, by unfold State.Runs State.Issues Ctx.NoStep Ctx.Ready; decide +kernel⟩

theorem witness_GlobalAccesses :
    (∃ (o : Ops) (s : State) (c : Cur) (a : Word) (e : TlbEntry) (b : Nat), (c.cx < 8192) ∧ (a = addressOf (s.ctx c.cx) o 64) ∧ (a.extractLsb' 0 6 = 0) ∧
    (a.extractLsb' 60 4 = 0) ∧ (s.regs.gvtbEn = true) ∧ (aget s.caches.tlbs (c.cx / 8) = some [e]) ∧ (e.stream = false) ∧ (e.key = a.toNat / 8 / 2 ^
    e.size) ∧ (e.own = s.sys.self) ∧ (e.s = false) ∧ (b = e.frame + a.toNat / 8 % 2 ^ e.size) ∧ (b % 8 = 0) ∧ (b < s.memTop) ∧ (s.movedOn b = none) ∧
    (s.inTransit b = false) ∧ (s.boot.stackStop = []) ∧ (s.lineTag (s.ctxAgent c.cx) b e.tag = 0) ∧ Quiet s c.cx ∧ (s.Runs c [o.a]) ∧ (e.rd = true)) ∧
    (∃ (o : Ops) (s : State) (c : Cur) (a : Word) (e : TlbEntry) (b : Nat), (c.cx < 8192) ∧ (a = addressOf (s.ctx c.cx) o 64) ∧ (a.extractLsb' 0 6 = 0) ∧
    (a.extractLsb' 60 4 = 0) ∧ (s.regs.gvtbEn = true) ∧ (aget s.caches.tlbs (c.cx / 8) = some [e]) ∧ (e.stream = false) ∧ (e.key = a.toNat / 8 / 2 ^
    e.size) ∧ (e.own = s.sys.self) ∧ (e.s = false) ∧ (b = e.frame + a.toNat / 8 % 2 ^ e.size) ∧ (b % 8 = 0) ∧ (b < s.memTop) ∧ (s.movedOn b = none) ∧
    (s.inTransit b = false) ∧ (s.boot.stackStop = []) ∧ (s.lineTag (s.ctxAgent c.cx) b e.tag = 0) ∧ Quiet s c.cx ∧ (s.Runs c [o.a, o.d]) ∧ (e.wr = true) ∧
    (e.dirty = true) ∧ ((s.ctx c.cx).rcount ≤ 512) ∧ (s.regs.full = true ∨ s.homeDie (b / 128 * 128) = c.cx / 2048)) := by
  refine ⟨?_, ?_⟩
  · exact ⟨{ a := 1 }, gl (rg [(1, 0x7FFC0)]), c0, _, page0, _, by decide +kernel, rfl,
    and6 (by decide +kernel)
      ⟨by decide +kernel, by decide +kernel, rfl, and6 (by decide +kernel)
      ⟨by unfold Quiet; decide +kernel, by unfold State.Runs State.Issues Ctx.NoStep Ctx.Ready; decide +kernel, by decide +kernel⟩⟩⟩
  · exact ⟨{ a := 1 }, gl { rg [(1, 0x7FFC0)] with rcount := 512 }, c0, _, page0, _, by decide +kernel, rfl,
    and6 (by decide +kernel)
      ⟨by decide +kernel, by decide +kernel, rfl, and6 (by decide +kernel)
      ⟨by unfold Quiet; decide +kernel, by unfold State.Runs State.Issues Ctx.NoStep Ctx.Ready; decide +kernel, by decide +kernel⟩⟩⟩

theorem witness_FullEmptyAccesses :
    (∃ (o : Ops) (s : State) (c : Cur) (a : Word), Quiet s c.cx ∧ ∃ w, (w = 16 * 2 ^ (o.f.toNat % 4)) ∧ (s.Runs c [o.a]) ∧ (a = addressOf (s.ctx c.cx) o w)
    ∧ InWindows s c.cx a w ∧ (winOf a ≠ 3) ∧ OneGranule a w ∧ ((memByte s.mem (feBase + granuleAt a / 8)).getLsbD (granuleAt a % 8) = true)) ∧
    (∃ (o : Ops) (s : State) (c : Cur) (a : Word), Quiet s c.cx ∧ ∃ w, (w = 16 * 2 ^ (o.f.toNat % 4)) ∧ (s.Runs c [o.a]) ∧ (a = addressOf (s.ctx c.cx) o w)
    ∧ InWindows s c.cx a w ∧ (winOf a ≠ 3) ∧ OneGranule a w ∧ ((memByte s.mem (feBase + granuleAt a / 8)).getLsbD (granuleAt a % 8) = false) ∧
    (o.f.getLsbD 2 = false)) ∧
    (∃ (o : Ops) (s : State) (c : Cur) (a : Word), Quiet s c.cx ∧ ∃ w, (w = 16 * 2 ^ (o.f.toNat % 4)) ∧ (s.Runs c [o.a]) ∧ (a = addressOf (s.ctx c.cx) o w)
    ∧ InWindows s c.cx a w ∧ (winOf a ≠ 3) ∧ OneGranule a w ∧ ((memByte s.mem (feBase + granuleAt a / 8)).getLsbD (granuleAt a % 8) = false) ∧
    (o.f.getLsbD 2 = true) ∧ s.Handles c.cx) ∧
    (∃ (o : Ops) (s : State) (c : Cur) (a : Word), Quiet s c.cx ∧ (s.Runs c [o.a, o.d]) ∧ (a = addressOf (s.ctx c.cx) o 64) ∧ (a.extractLsb' 0 6 = 0) ∧
    (InOwnWindows s c.cx a 64) ∧ (winOf a ≠ 3) ∧ ((s.ctx c.cx).rcount ≤ 512)) ∧
    (∃ (o : Ops) (s : State) (c : Cur) (a : Word), Quiet s c.cx ∧ ∃ w, (w = 16 * 2 ^ (o.f.toNat % 4)) ∧ (s.Runs c [o.a]) ∧ (a = addressOf (s.ctx c.cx) o w)
    ∧ (a.getLsbD 63 = false ∨ 3 ≤ winOf a ∨ ¬ OneGranule a w) ∧ s.Handles c.cx) ∧
    (∃ (o : Ops) (s : State) (c : Cur) (a : Word), Quiet s c.cx ∧ (s.Runs c [o.a, o.d]) ∧ (a = addressOf (s.ctx c.cx) o 64) ∧ (a.getLsbD 63 = false ∨ 3 ≤
    winOf a ∨ ¬ OneGranule a 64) ∧ s.Handles c.cx) := by
  refine ⟨?_, ?_, ?_, ?_, ?_, ?_⟩
  · exact ⟨{ a := 1, f := 2 }, st (rg [(1, inW 0)]), c0, _, by unfold Quiet; decide +kernel, _, rfl,
    by unfold State.Runs State.Issues Ctx.NoStep Ctx.Ready; decide +kernel, rfl, by unfold InWindows InRange; decide +kernel, by decide +kernel,
    by unfold OneGranule; decide +kernel, by decide +kernel⟩
  · exact ⟨{ a := 1, f := 2 }, emptied, c0, _, by unfold Quiet; decide +kernel, _, rfl, by unfold State.Runs State.Issues Ctx.NoStep Ctx.Ready; decide +kernel,
    rfl, by unfold InWindows InRange; decide +kernel, by decide +kernel, by unfold OneGranule; decide +kernel, by decide +kernel⟩
  · exact ⟨{ a := 1, f := 6 }, emptied, c0, _, by unfold Quiet; decide +kernel, _, rfl, by unfold State.Runs State.Issues Ctx.NoStep Ctx.Ready; decide +kernel,
    rfl, by unfold InWindows InRange; decide +kernel, by decide +kernel, by unfold OneGranule; decide +kernel, by decide +kernel, by decide +kernel,
    by unfold State.Handles; decide +kernel⟩
  · exact ⟨{ a := 1 }, st (rg [(1, inC 0x1FFFC0)]), c0, _, by unfold Quiet; decide +kernel,
    by unfold State.Runs State.Issues Ctx.NoStep Ctx.Ready; decide +kernel, rfl, by decide +kernel,
    by unfold InOwnWindows InWindows InRange; decide +kernel, by decide +kernel⟩
  · exact ⟨{}, st, c0, _, by unfold Quiet; decide +kernel, _, rfl, by unfold State.Runs State.Issues Ctx.NoStep Ctx.Ready; decide +kernel, rfl,
    by unfold OneGranule; decide +kernel, by unfold State.Handles; decide +kernel⟩
  · exact ⟨{}, st, c0, _, by unfold Quiet; decide +kernel, by unfold State.Runs State.Issues Ctx.NoStep Ctx.Ready; decide +kernel, rfl,
    by unfold OneGranule; decide +kernel, by unfold State.Handles; decide +kernel⟩

theorem witness_WaitingLoads :
    (∃ (s : State) (g : Nat), (s.poison = []) ∧ (∀ e ∈ s.ldfes, e.gran = g ∧ e.got = .pending ∧ s.ldfeLive e = true ∧ 0 < e.w ∧ e.off + e.w ≤ 64 ∧ e.key +
    8 ≤ feBase)) ∧
    (∃ (s : State) (g : Nat), (s.poison = []) ∧ (∀ e ∈ s.ldfes, e.gran = g ∧ e.got = .pending ∧ s.ldfeLive e = true ∧ 0 < e.w ∧ e.off + e.w ≤ 64 ∧ e.key +
    8 ≤ feBase) ∧ ∃ (i : Nat) (e : LdfeWait), (s.ldfes[i]? = some e)) ∧
    (∃ (o : Ops) (s : State) (c : Cur) (e : LdfeWait) (n : Nat) (r : WaitRec), (s.Runs c [o.a]) ∧ (s.ldfes = [e]) ∧ (e.req = none) ∧ (e.uid = (s.ctx
    c.cx).uid) ∧ (e.pc = c.addr) ∧ (e.got = .value n) ∧ ((s.ctx c.cx).wait = some r) ∧ (r.kind = .granule) ∧ (r.pc = c.addr)) := by
  refine ⟨?_, ?_, ?_⟩
  · exact ⟨waitingLdfe, 0, by decide +kernel⟩
  · exact ⟨waitingLdfe, 0, by decide +kernel, by decide +kernel, 0, { uid := 1, w := 64 }, by decide +kernel⟩
  · exact ⟨{ a := 1, f := 2 }, servedLdfe, c0, { uid := 7, pc := 0x1000, got := .value 5 }, 5, { kind := .granule, pc := 0x1000 },
    by unfold State.Runs State.Issues Ctx.NoStep Ctx.Ready; decide +kernel, by decide +kernel⟩

theorem witness_Fences :
    (∃ (o : Ops) (s : State) (c : Cur), (s.Runs c [])) ∧
    (∃ (o : Ops) (s : State) (c : Cur), (s.Runs c []) ∧ ∃ i ∈ releases, (o.f = 0 ∨ (s.ctx c.cx).rcount = 0)) ∧
    (∃ (o : Ops) (s : State) (c : Cur), (s.Runs c []) ∧ ∃ i ∈ releases, (o.f ≠ 0) ∧ ((s.ctx c.cx).rcount ≠ 0)) ∧
    (∃ (o : Ops) (s : State) (c : Cur), (s.Runs c []) ∧ ((s.ctx c.cx).rcount = 0)) ∧
    (∃ (o : Ops) (s : State) (c : Cur), (s.Runs c []) ∧ ((s.ctx c.cx).rcount ≠ 0)) := by
  refine ⟨?_, ?_, ?_, ?_, ?_⟩
  · exact ⟨{}, st, c0, by unfold State.Runs State.Issues Ctx.NoStep Ctx.Ready; decide +kernel⟩
  · exact ⟨{}, st, c0, by unfold State.Runs State.Issues Ctx.NoStep Ctx.Ready; decide +kernel, _, List.Mem.head _, by decide +kernel⟩
  · exact ⟨{ f := 5 }, st { rcount := 1 }, c0, by unfold State.Runs State.Issues Ctx.NoStep Ctx.Ready; decide +kernel, _, List.Mem.head _, by decide +kernel⟩
  · exact ⟨{}, st, c0, by unfold State.Runs State.Issues Ctx.NoStep Ctx.Ready; decide +kernel, by decide +kernel⟩
  · exact ⟨{}, st { rcount := 1 }, c0, by unfold State.Runs State.Issues Ctx.NoStep Ctx.Ready; decide +kernel, by decide +kernel⟩

theorem witness_CacheOperations :
    (∃ (o : Ops) (s : State) (c : Cur) (a : Word) (w : Nat), (s.Runs c [o.a]) ∧ (w = classWidth o.f.toNat) ∧ (a = addressOf (s.ctx c.cx) o w)) ∧
    (∃ (o : Ops) (s : State) (c : Cur) (a : Word) (w : Nat), (s.Runs c [o.a]) ∧ (w = classWidth o.f.toNat) ∧ (a = addressOf (s.ctx c.cx) o w) ∧ ∃ (e :
    TlbEntry) (b : Nat), (c.cx < 8192) ∧ (w = 1024) ∧ (a.extractLsb' 0 10 = 0) ∧ (a.extractLsb' 60 4 = 0) ∧ (s.regs.gvtbEn = true) ∧ (aget s.caches.tlbs
    (c.cx / 8) = some [e]) ∧ (e.stream = false) ∧ (e.key = a.toNat / 8 / 2 ^ e.size) ∧ (e.own = s.sys.self) ∧ (e.s = false) ∧ (b = e.frame + a.toNat / 8 %
    2 ^ e.size) ∧ (b % 128 = 0) ∧ (b < s.memTop) ∧ (s.movedOn b = none) ∧ (s.inTransit b = false) ∧ (s.boot.stackStop = []) ∧ (s.lineTag (s.ctxAgent c.cx)
    b e.tag = 0) ∧ Quiet s c.cx ∧ (e.rd = true)) ∧
    (∃ (o : Ops) (s : State) (c : Cur) (a : Word) (w : Nat), (s.Runs c [o.a]) ∧ (w = classWidth o.f.toNat) ∧ (a = addressOf (s.ctx c.cx) o w) ∧ ∃ (e :
    TlbEntry) (b : Nat), (c.cx < 8192) ∧ (w = 1024) ∧ (a.extractLsb' 0 10 = 0) ∧ (a.extractLsb' 60 4 = 0) ∧ (s.regs.gvtbEn = true) ∧ (aget s.caches.tlbs
    (c.cx / 8) = some [e]) ∧ (e.stream = false) ∧ (e.key = a.toNat / 8 / 2 ^ e.size) ∧ (e.own = s.sys.self) ∧ (e.s = false) ∧ (b = e.frame + a.toNat / 8 %
    2 ^ e.size) ∧ (b % 128 = 0) ∧ (b < s.memTop) ∧ (s.movedOn b = none) ∧ (s.inTransit b = false) ∧ (s.boot.stackStop = []) ∧ (s.lineTag (s.ctxAgent c.cx)
    b e.tag = 0) ∧ Quiet s c.cx) := by
  refine ⟨?_, ?_, ?_⟩
  · exact ⟨{ a := 1 }, st (rg [(1, inW 0)]), c0, _, _, by unfold State.Runs State.Issues Ctx.NoStep Ctx.Ready; decide +kernel, rfl, rfl⟩
  · exact ⟨{ a := 1, f := 13 }, gl (rg [(1, 0x7FC00)]), c0, _, _, by unfold State.Runs State.Issues Ctx.NoStep Ctx.Ready; decide +kernel, rfl, rfl, page0, _,
    by decide +kernel, rfl,
    and6 (by decide +kernel)
      ⟨by decide +kernel, by decide +kernel, rfl, and6 (by decide +kernel)
      ⟨by unfold Quiet; decide +kernel, by decide +kernel⟩⟩⟩
  · exact ⟨{ a := 1, f := 13 }, gl (rg [(1, 0x7FC00)]), c0, _, _, by unfold State.Runs State.Issues Ctx.NoStep Ctx.Ready; decide +kernel, rfl, rfl, page0, _,
    by decide +kernel, rfl,
    and6 (by decide +kernel)
      ⟨by decide +kernel, by decide +kernel, rfl, and6 (by decide +kernel)
      (by unfold Quiet; decide +kernel)⟩⟩

theorem witness_Atomics :
    (∃ (o : Ops) (s : State) (c : Cur) (a : Word) (w : Nat), (a = (s.ctx c.cx).readS o.a) ∧ Quiet s c.cx ∧ (o.scope = 0 ∨ (s.ctx c.cx).rcount = 0) ∧ (winOf
    a ≠ 3) ∧ (w = classWidth o.cls.toNat) ∧ (0 < w) ∧ (a.toNat % 64 + w ≤ 64) ∧ InWindows s c.cx a w ∧ ∃ old y, ReadsAs s a w old ∧ (y = ((s.ctx
    c.cx).readS o.b).toNat % 2 ^ w) ∧ (s.Runs c [o.a, o.b])) ∧
    (∃ (o : Ops) (s : State) (c : Cur) (a : Word) (w : Nat), (a = (s.ctx c.cx).readS o.a) ∧ Quiet s c.cx ∧ (o.scope = 0 ∨ (s.ctx c.cx).rcount = 0) ∧ (winOf
    a ≠ 3) ∧ (w = classWidth o.cls.toNat) ∧ (0 < w) ∧ (a.toNat % 64 + w ≤ 64) ∧ InWindows s c.cx a w ∧ ∃ old y, ReadsAs s a w old ∧ (y = ((s.ctx
    c.cx).readS o.b).toNat % 2 ^ w) ∧ (s.Runs c [o.a, o.b, o.c])) ∧
    (∃ (o : Ops) (s : State) (c : Cur) (a : Word) (w : Nat), (a = (s.ctx c.cx).readS o.a) ∧ Quiet s c.cx ∧ (o.scope = 0 ∨ (s.ctx c.cx).rcount = 0) ∧ (winOf
    a ≠ 3) ∧ (a.extractLsb' 0 7 = 0) ∧ (InWindows s c.cx a 128) ∧ (s.Runs c [o.a, o.b, o.b + 1, o.c, o.c + 1]) ∧ ∃ old, (ReadsAs s a 128 old)) := by
  refine ⟨?_, ?_, ?_⟩
  · exact ⟨{ a := 1, b := 2, cls := 11 }, st (rg [(1, inW 0x3FFFC0), (2, 3)]), c0, _, _, rfl, by unfold Quiet; decide +kernel, by decide +kernel,
    by decide +kernel, rfl, by decide +kernel, by decide +kernel, by unfold InWindows InRange; decide +kernel, 0, _, by unfold ReadsAs; decide +kernel,
    rfl, by unfold State.Runs State.Issues Ctx.NoStep Ctx.Ready; decide +kernel⟩
  · exact ⟨{ a := 1, b := 2, cls := 11 }, st (rg [(1, inW 0x3FFFC0), (2, 3)]), c0, _, _, rfl, by unfold Quiet; decide +kernel, by decide +kernel,
    by decide +kernel, rfl, by decide +kernel, by decide +kernel, by unfold InWindows InRange; decide +kernel, 0, _, by unfold ReadsAs; decide +kernel,
    rfl, by unfold State.Runs State.Issues Ctx.NoStep Ctx.Ready; decide +kernel⟩
  · exact ⟨{ a := 1, b := 2 }, st (rg [(1, inA 0x1FFF80)]), c0, _, 128, rfl, by unfold Quiet; decide +kernel, by decide +kernel, by decide +kernel,
    by decide +kernel, by unfold InWindows InRange; decide +kernel, by unfold State.Runs State.Issues Ctx.NoStep Ctx.Ready; decide +kernel, 0,
    by unfold ReadsAs; decide +kernel⟩

theorem witness_CopyIssue :
    (∃ row ∈ copyPlans, ∃ (o : Ops) (s : State) (c : Cur) (P : CopyPlan), (s.Runs c ([o.a, o.b, o.c] ++ if row.2.1 then [o.c + 1] else [])) ∧ (c.cx < 8192)
    ∧ (P = row.2.2 s ((s.ctx c.cx).readS o.a) ((s.ctx c.cx).readS o.b) ((s.ctx c.cx).readS o.c) ((s.ctx c.cx).readS (o.c + 1))) ∧ (P.bits < 2 ^ 56) ∧
    (P.op.cls < 14) ∧ ((s.ctx c.cx).rcount = 0) ∧ ((s.cluster (c.cx / 512)).copies.length < 64) ∧ ((s.cluster (c.cx / 512)).lockFree P.locks = true) ∧
    CopyOperands s P.windows ∧ (P.bits ≠ 0)) ∧
    (∃ row ∈ copyPlans, ∃ (o : Ops) (s : State) (c : Cur) (P : CopyPlan), (s.Runs c ([o.a, o.b, o.c] ++ if row.2.1 then [o.c + 1] else [])) ∧ (c.cx < 8192)
    ∧ (P = row.2.2 s ((s.ctx c.cx).readS o.a) ((s.ctx c.cx).readS o.b) ((s.ctx c.cx).readS o.c) ((s.ctx c.cx).readS (o.c + 1))) ∧ (P.bits < 2 ^ 56) ∧
    (P.op.cls < 14) ∧ ((s.ctx c.cx).rcount = 0) ∧ ((s.cluster (c.cx / 512)).copies.length < 64) ∧ ((s.cluster (c.cx / 512)).lockFree P.locks = true) ∧
    CopyOperands s P.windows ∧ (P.bits = 0)) ∧
    (∃ row ∈ copyPlans, ∃ (o : Ops) (s : State) (c : Cur) (P : CopyPlan), (s.Runs c ([o.a, o.b, o.c] ++ if row.2.1 then [o.c + 1] else [])) ∧ (c.cx < 8192)
    ∧ (P = row.2.2 s ((s.ctx c.cx).readS o.a) ((s.ctx c.cx).readS o.b) ((s.ctx c.cx).readS o.c) ((s.ctx c.cx).readS (o.c + 1))) ∧ (P.bits < 2 ^ 56) ∧
    (P.op.cls < 14) ∧ ((s.ctx c.cx).rcount = 0) ∧ ((s.cluster (c.cx / 512)).copies.length < 64) ∧ ((s.cluster (c.cx / 512)).lockFree P.locks = true) ∧ (∃
    a ∈ P.windows, a.getLsbD 63 = true ∧ 2 ≤ winOf a)) := by
  refine ⟨?_, ?_, ?_⟩
  · exact ⟨_, List.Mem.head _, { a := 1, b := 2, c := 3 }, st (rg [(1, inW 0), (2, inA 0), (3, 64)]), c0, _,
    by unfold State.Runs State.Issues Ctx.NoStep Ctx.Ready; decide +kernel, by decide +kernel, rfl, by decide +kernel, by decide +kernel,
    by decide +kernel, by decide +kernel, by decide +kernel, operands_of (by decide +kernel), by decide +kernel⟩
  · exact ⟨_, List.Mem.head _, { a := 1, b := 2, c := 3 }, st (rg [(1, inW 0), (2, inA 0)]), c0, _,
    by unfold State.Runs State.Issues Ctx.NoStep Ctx.Ready; decide +kernel, by decide +kernel, rfl, by decide +kernel, by decide +kernel,
    by decide +kernel, by decide +kernel, by decide +kernel, operands_of (by decide +kernel), by decide +kernel⟩
  · exact ⟨_, List.Mem.head _, { a := 1, b := 2, c := 3 }, st (rg [(1, inC 0), (2, inA 0), (3, 64)]), c0, _,
    by unfold State.Runs State.Issues Ctx.NoStep Ctx.Ready; decide +kernel, by decide +kernel, rfl, by decide +kernel, by decide +kernel,
    by decide +kernel, by decide +kernel, by decide +kernel, ⟨_, List.Mem.head _, by decide +kernel, by decide +kernel⟩⟩

theorem witness_MemoryCoreCopies :
    ∃ (o : Ops) (s : State) (c : Cur) (n : Nat), (s.Runs c [o.a, o.b, o.c]) ∧ (8192 ≤ c.cx) ∧ (n = ((s.ctx c.cx).readS o.c).toNat) ∧ (0 < n) ∧ (n < 2 ^
    56) ∧ (s.regs.full = true) ∧ ((s.ctx c.cx).rcount = 0) ∧ ((s.mcore ((c.cx - 8192) / 8)).copies.length < 64) ∧ (CopyOperands s [(s.ctx c.cx).readS
    o.a]) ∧ (((s.ctx c.cx).readS o.b).toNat + n ≤ 8 * s.memTop) :=
  ⟨{ a := 1, b := 2, c := 3 }, { fw with ctxs := [(8192, rg [(1, inW 0), (2, 0), (3, 64)])], regs := { full := true, capStacks := 1 } }, { cx := 8192 },
    _, by unfold State.Runs State.Issues Ctx.NoStep Ctx.Ready; decide +kernel, by decide +kernel, rfl, by decide +kernel, by decide +kernel,
    by decide +kernel, by decide +kernel, by decide +kernel, operands_of (by decide +kernel), by decide +kernel⟩

theorem witness_MulticastIssue :
    (∃ (o : Ops) (s : State) (c : Cur) (n set : Nat) (a b v : Word), (s.Runs c [o.a, o.b, o.c, o.c + 1]) ∧ (c.cx < 8192) ∧ (a = (s.ctx c.cx).readS o.a) ∧
    (b = (s.ctx c.cx).readS o.b) ∧ (v = (s.ctx c.cx).readS (o.c + 1)) ∧ (n = ((s.ctx c.cx).readS o.c).toNat) ∧ (0 < n) ∧ (n < 2 ^ 56) ∧ (CopyOperands s
    [a, b, v]) ∧ (a.getLsbD 63 = true) ∧ (a.getLsbD 37 = false) ∧ (a.extractLsb' 23 13 = 0) ∧ ((ofsOf a).toNat + n ≤ windowSpan (winOf a)) ∧ (v.getLsbD 63
    = true) ∧ (InWindows s c.cx v 1024) ∧ (s.poison = []) ∧ (∀ r ∈ s.rstores, r.uid ≠ (s.ctx c.cx).uid) ∧ (ReadsAs s v 1024 set) ∧ ((s.ctx c.cx).rcount =
    0) ∧ ((s.cluster (c.cx / 512)).copies.length < 64) ∧ ((s.cluster (c.cx / 512)).lockFree [s.lockEntry false b n, s.lockEntry false v 1024] = true) ∧
    (set ≠ 0)) ∧
    (∃ (o : Ops) (s : State) (c : Cur) (n set : Nat) (a b v : Word), (s.Runs c [o.a, o.b, o.c, o.c + 1]) ∧ (c.cx < 8192) ∧ (a = (s.ctx c.cx).readS o.a) ∧
    (b = (s.ctx c.cx).readS o.b) ∧ (v = (s.ctx c.cx).readS (o.c + 1)) ∧ (n = ((s.ctx c.cx).readS o.c).toNat) ∧ (0 < n) ∧ (n < 2 ^ 56) ∧ (CopyOperands s
    [a, b, v]) ∧ (a.getLsbD 63 = true) ∧ (a.getLsbD 37 = false) ∧ (a.extractLsb' 23 13 = 0) ∧ ((ofsOf a).toNat + n ≤ windowSpan (winOf a)) ∧ (v.getLsbD 63
    = true) ∧ (InWindows s c.cx v 1024) ∧ (s.poison = []) ∧ (∀ r ∈ s.rstores, r.uid ≠ (s.ctx c.cx).uid) ∧ (ReadsAs s v 1024 set) ∧ ((s.ctx c.cx).rcount =
    0) ∧ ((s.cluster (c.cx / 512)).copies.length < 64) ∧ ((s.cluster (c.cx / 512)).lockFree [s.lockEntry false b n, s.lockEntry false v 1024] = true) ∧
    (set = 0)) := by
  refine ⟨?_, ?_⟩
  · exact ⟨{ a := 1, b := 2, c := 3 }, { st (rg [(1, inW 0), (2, 0), (3, 64), (4, inA 0)]) with mem := [(windowBase + 2 ^ 19, 1)] }, c0, _, 1, _, _, _,
    by unfold State.Runs State.Issues Ctx.NoStep Ctx.Ready; decide +kernel, by decide +kernel, rfl, rfl, rfl, rfl, by decide +kernel, by decide +kernel,
    operands_of (by decide +kernel), by decide +kernel, by decide +kernel, by decide +kernel, by decide +kernel, by decide +kernel,
    by unfold InWindows InRange; decide +kernel, by decide +kernel, by decide +kernel, by unfold ReadsAs; decide +kernel, by decide +kernel⟩
  · exact ⟨{ a := 1, b := 2, c := 3 }, st (rg [(1, inW 0), (2, 0), (3, 64), (4, inA 0)]), c0, _, 0, _, _, _,
    by unfold State.Runs State.Issues Ctx.NoStep Ctx.Ready; decide +kernel, by decide +kernel, rfl, rfl, rfl, rfl, by decide +kernel, by decide +kernel,
    operands_of (by decide +kernel), by decide +kernel, by decide +kernel, by decide +kernel, by decide +kernel, by decide +kernel,
    by unfold InWindows InRange; decide +kernel, by decide +kernel, by decide +kernel, by unfold ReadsAs; decide +kernel, by decide +kernel⟩

theorem witness_CopyEvents :
    (∃ (s : State) (x : EvArg) (pre post : List CopyOp) (p : CopyOp), s.Happens x ∧ (x.i < 16) ∧ ((s.cluster x.i).copies = pre ++ p :: post) ∧ (∀ q ∈ pre,
    q.running = true) ∧ (pre.length + post.countP (·.running) < 8) ∧ (p.running = false) ∧ (p.kind ≠ .mcast) ∧ (p.handle = x.w) ∧ (∀ q ∈ pre ++ post,
    q.handle ≠ p.handle)) ∧
    (∃ (s : State) (x : EvArg) (p : CopyOp), s.Happens x ∧ (x.i < 16) ∧ ((s.cluster x.i).copies.find? (fun q => q.handle == x.w) = some p) ∧ (p.kind ≠
    .mcast) ∧ (p.failed = none) ∧ (s.engSettled p.handle = true) ∧ (p.rights.cx < 8192) ∧ (p.rights.cx / 512 = x.i) ∧ NoneSuspended s ∧ ((p.running = true
    ∧ p.written.length = p.units) ∨ p.cancel = true) ∧ ∃ cxl, (cxl = (p.cancel && !(p.running && p.written.length == p.units)))) ∧
    (∃ (s : State) (x : EvArg) (p : CopyOp), s.Happens x ∧ (x.i < 16) ∧ ((s.cluster x.i).copies.find? (fun q => q.handle == x.w) = some p) ∧ (p.kind =
    .mcast) ∧ (p.running = true) ∧ (p.failed = none) ∧ (p.dests = []) ∧ (p.rights.cx < 8192) ∧ (p.rights.cx / 512 = x.i) ∧ NoneSuspended s) := by
  refine ⟨?_, ?_, ?_⟩
  · exact ⟨ev { w := 1 } (fun c => { c with copies := [{ handle := 1 }] }), { w := 1 }, [], [], { handle := 1 }, by unfold State.Happens; decide +kernel,
    by decide +kernel, rfl, by decide +kernel⟩
  · exact ⟨ev { w := 1 } (fun c => { c with copies := [{ handle := 1, cancel := true }] }), { w := 1 }, { handle := 1, cancel := true },
    by unfold State.Happens; decide +kernel,
    and6 (by decide +kernel)
      ⟨by decide +kernel, by unfold NoneSuspended; decide +kernel, by decide +kernel, _, rfl⟩⟩
  · exact ⟨ev { w := 1 } (fun c => { c with copies := [{ handle := 1, kind := .mcast, running := true }] }), { w := 1 },
    { handle := 1, kind := .mcast, running := true }, by unfold State.Happens; decide +kernel,
    and6 (by decide +kernel)
      ⟨by decide +kernel, by decide +kernel, by unfold NoneSuspended; decide +kernel⟩⟩

theorem witness_CopyMovesBits :
    (∃ (s : State) (x : EvArg) (p : CopyOp), s.Happens x ∧ (x.i < 16) ∧ ((s.cluster x.i).copies = [p]) ∧ (p.handle = x.w) ∧ (p.kind = .cp) ∧ (p.rows = 1) ∧
    (0 < p.len) ∧ (p.dst.toNat % 1024 + p.len ≤ 1024) ∧ (p.running = true) ∧ (p.cancel = false) ∧ (p.failed = none) ∧ (p.written = []) ∧ (p.undo = []) ∧
    (x.k = 0) ∧ (s.poison = []) ∧ (s.ldfes = []) ∧ (s.rstores = []) ∧ (s.net.fwds = []) ∧ InWindows s p.rights.cx p.dst p.len ∧ InWindows s p.rights.cx
    p.src p.len ∧ (CopyOperands s [p.dst, p.src]) ∧ (p.rights.cx < 8192)) ∧
    (∃ (s : State) (x : EvArg) (p : CopyOp), s.Happens x ∧ (x.i < 16) ∧ ((s.cluster x.i).copies = [p]) ∧ (p.handle = x.w) ∧ (p.kind = .mcast) ∧ (p.running
    = true) ∧ (p.failed = none) ∧ (x.k ∈ p.dests) ∧ (x.k < 1024) ∧ (s.poison = []) ∧ (s.rstores = []) ∧ (p.bad = []) ∧ (p.snap < 2 ^ p.len) ∧ (0 < p.len)
    ∧ InWindows s p.rights.cx p.dst p.len ∧ (p.dst.getLsbD 37 = false) ∧ (p.dst.getLsbD 36 = true) ∧ (winOf p.dst < 2) ∧ (x.k / 64 ∉ s.boot.left) ∧
    (p.rights.cx < 8192)) := by
  refine ⟨?_, ?_⟩
  · exact ⟨ev { w := 1 } (fun c => { c with copies := [oneBlock] }), { w := 1 }, oneBlock, by unfold State.Happens; decide +kernel,
    and6 (by decide +kernel)
      (and6 (by decide +kernel)
      ⟨by decide +kernel, by decide +kernel, by decide +kernel, by decide +kernel, by decide +kernel, by unfold InWindows InRange; decide +kernel, by unfold InWindows InRange; decide +kernel, operands_of (by decide +kernel), by decide +kernel⟩)⟩
  · exact ⟨ev { w := 1 } (fun c => { c with copies := [delivered] }), { w := 1 }, delivered, by unfold State.Happens; decide +kernel,
    and6 (by decide +kernel)
      (and6 (by decide +kernel)
      ⟨by decide +kernel, by unfold InWindows InRange; decide +kernel, by decide +kernel⟩)⟩

theorem witness_Pins :
    (∃ (o : Ops) (s : State) (c : Cur) (n : Nat), (s.Runs c [o.a, o.b]) ∧ (n = ((s.ctx c.cx).readS o.b).toNat) ∧ ((s.ctx c.cx).rcount = 0) ∧ (n ≠ 0) ∧
    (8192 ≤ c.cx ∨ (s.cluster (c.cx / 512)).locks.length ≤ 256)) ∧
    (∃ (o : Ops) (s : State) (c : Cur) (n : Nat), (s.Runs c [o.a, o.b]) ∧ (n = ((s.ctx c.cx).readS o.b).toNat) ∧ ((s.ctx c.cx).rcount = 0) ∧ (n = 0)) ∧
    (∃ (o : Ops) (s : State) (c : Cur) (n : Nat), (s.Runs c [o.a, o.b]) ∧ (n = ((s.ctx c.cx).readS o.b).toNat) ∧ (n = 0)) ∧
    (∃ (o : Ops) (s : State) (c : Cur) (n : Nat), (s.Runs c [o.a, o.b]) ∧ (n = ((s.ctx c.cx).readS o.b).toNat) ∧ (s.boot.stackStop = []) ∧ (((s.ctx
    c.cx).readS o.a).toNat + n ≤ 2 ^ 62)) ∧
    (∃ (s : State) (x : EvArg) (p : PinOp), s.Happens x ∧ (s.pins = [p]) ∧ (s.regs.full = true) ∧ (p.handle = x.w) ∧ (p.quota = false) ∧ (p.cancel = false)
    ∧ (p.len ≠ 0) ∧ (p.lo.getLsbD 63 = true) ∧ (p.next < (p.lo.toNat % 1024 + p.len + 1023) / 1024) ∧ ((p.lo.toNat / 1024 + p.next) * 1024 < 2 ^ 64)) ∧
    (∃ (s : State) (x : EvArg) (p : PinOp), s.Happens x ∧ (s.pins = [p]) ∧ (p.handle = x.w) ∧ (p.len ≠ 0) ∧ (p.cancel = false) ∧ (p.next = (p.lo.toNat %
    1024 + p.len + 1023) / 1024) ∧ NoneSuspended s) := by
  refine ⟨?_, ?_, ?_, ?_, ?_, ?_⟩
  · exact ⟨{ a := 1, b := 2 }, st (rg [(1, inW 0), (2, 1)]), c0, _, by unfold State.Runs State.Issues Ctx.NoStep Ctx.Ready; decide +kernel, rfl,
    by decide +kernel⟩
  · exact ⟨{}, st, c0, _, by unfold State.Runs State.Issues Ctx.NoStep Ctx.Ready; decide +kernel, rfl, by decide +kernel, rfl⟩
  · exact ⟨{}, st, c0, _, by unfold State.Runs State.Issues Ctx.NoStep Ctx.Ready; decide +kernel, rfl, rfl⟩
  · exact ⟨{}, st, c0, _, by unfold State.Runs State.Issues Ctx.NoStep Ctx.Ready; decide +kernel, rfl, by decide +kernel⟩
  · exact ⟨{ ev { w := 1 } with pins := [{ handle := 1, lo := inW 0, len := 1 }], regs := { full := true } }, { w := 1 }, { handle := 1, lo := inW 0, len := 1 },
    by unfold State.Happens; decide +kernel, by decide +kernel⟩
  · exact ⟨{ ev { w := 1 } with pins := [{ handle := 1, lo := inW 0, len := 1, next := 1 }] }, { w := 1 }, { handle := 1, lo := inW 0, len := 1, next := 1 },
    by unfold State.Happens; decide +kernel, by decide +kernel, by decide +kernel, by decide +kernel, by decide +kernel, by decide +kernel,
    by unfold NoneSuspended; decide +kernel⟩

theorem witness_VectorIntegers :
    (∃ row ∈ exactOps, ∃ (o : Ops) (s : State) (c : Cur) (x : Ctx) (t : Nat), (s.Runs c (maskSrc o)) ∧ (x = s.ctx c.cx) ∧ (t = vtypeOf x) ∧ (t ∈
    integerTypes) ∧ ∃ E : Nat → Nat → Int, (∀ i j, E i j = row.2 (valueOf t (elemAt t (laneAt (x.readV o.a) i) j)) (valueOf t (elemAt t (laneAt (x.readV
    o.b) i) j)) (valueOf t (elemAt t (laneAt (x.readV (o.e.setWidth 6)) i) j)))) ∧
    (∃ row ∈ codeOps, ∃ (o : Ops) (s : State) (c : Cur) (x : Ctx) (t : Nat), (s.Runs c (maskSrc o)) ∧ (x = s.ctx c.cx) ∧ (t = vtypeOf x) ∧ (t ∈ row.2.1)) ∧
    (∃ (o : Ops) (s : State) (c : Cur) (x : Ctx) (t : Nat), (s.Runs c (maskSrc o)) ∧ (x = s.ctx c.cx) ∧ (t = vtypeOf x) ∧ (t ∈ integerTypes) ∧ (o.sat =
    false)) := by
  refine ⟨?_, ?_, ?_⟩
  · exact ⟨_, List.Mem.head _, {}, st (shaped 10), c0, _, _, by unfold State.Runs State.Issues Ctx.NoStep Ctx.Ready; decide +kernel, rfl, rfl, by decide +kernel,
    _, fun _ _ => rfl⟩
  · exact ⟨_, List.Mem.head _, {}, st (shaped 10), c0, _, _, by unfold State.Runs State.Issues Ctx.NoStep Ctx.Ready; decide +kernel, rfl, rfl, by decide +kernel⟩
  · exact ⟨{}, st (shaped 10), c0, _, _, by unfold State.Runs State.Issues Ctx.NoStep Ctx.Ready; decide +kernel, rfl, rfl, by decide +kernel⟩

theorem witness_VectorFloats :
    (∃ row ∈ floatOps, ∃ (o : Ops) (s : State) (c : Cur) (x : Ctx) (t : Nat), (s.Runs c (maskSrc o)) ∧ (x = s.ctx c.cx) ∧ (t = vtypeOf x) ∧ (t ≤ 6) ∧ ∃ R :
    Nat → Nat → Fv × Flags, (∀ i j, R i j = row.2.2 (floatCtl o row.2.1).mode ((formatOf t).read o.fzi (elemAt t (laneAt (x.readV o.a) i) j)) ((formatOf
    t).read o.fzi (elemAt t (laneAt (x.readV o.b) i) j)) ((formatOf t).read o.fzi (elemAt t (laneAt (x.readV (o.e.setWidth 6)) i) j)))) ∧
    (∃ (o : Ops) (s : State) (c : Cur) (x : Ctx), (s.Runs c (maskSrc o)) ∧ (x = s.ctx c.cx) ∧ (vtypeOf x = 0)) ∧
    (∃ row ∈ typedOps, ∃ (o : Ops) (s : State) (c : Cur), s.Issues c ∧ s.Handles c.cx ∧ (vtypeOf (s.ctx c.cx) ∉ row.2)) := by
  refine ⟨?_, ?_, ?_⟩
  · exact ⟨_, List.Mem.head _, {}, st, c0, _, _, by unfold State.Runs State.Issues Ctx.NoStep Ctx.Ready; decide +kernel, rfl, rfl, by decide +kernel, _,
    fun _ _ => rfl⟩
  · exact ⟨{}, st, c0, _, by unfold State.Runs State.Issues Ctx.NoStep Ctx.Ready; decide +kernel, rfl, by decide +kernel⟩
  · exact ⟨_, List.Mem.head _, {}, st (shaped 18), c0, by unfold State.Issues; decide +kernel, by unfold State.Handles; decide +kernel, by decide +kernel⟩

theorem witness_VectorMoves :
    (∃ row ∈ laneOps, ∃ (o : Ops) (s : State) (c : Cur) (x : Ctx), (s.Runs c (maskSrc o)) ∧ (x = s.ctx c.cx)) ∧
    (∃ (o : Ops) (s : State) (c : Cur) (x : Ctx), (s.Runs c (maskSrc o)) ∧ (x = s.ctx c.cx)) ∧
    (∃ (o : Ops) (s : State) (c : Cur) (x : Ctx), (s.Runs c (o.a :: maskSrc o)) ∧ (x = s.ctx c.cx)) ∧
    (∃ (o : Ops) (s : State) (c : Cur), (s.Runs c (o.b :: maskSrc o))) ∧
    (∃ (o : Ops) (s : State) (c : Cur) (x : Ctx), (s.Runs c ([o.a, o.b] ++ maskSrc o)) ∧ (x = s.ctx c.cx)) := by
  refine ⟨?_, ?_, ?_, ?_, ?_⟩
  · exact ⟨_, List.Mem.head _, {}, st, c0, _, by unfold State.Runs State.Issues Ctx.NoStep Ctx.Ready; decide +kernel, rfl⟩
  · exact ⟨{}, st, c0, _, by unfold State.Runs State.Issues Ctx.NoStep Ctx.Ready; decide +kernel, rfl⟩
  · exact ⟨{}, st, c0, _, by unfold State.Runs State.Issues Ctx.NoStep Ctx.Ready; decide +kernel, rfl⟩
  · exact ⟨{}, st, c0, by unfold State.Runs State.Issues Ctx.NoStep Ctx.Ready; decide +kernel⟩
  · exact ⟨{}, st, c0, _, by unfold State.Runs State.Issues Ctx.NoStep Ctx.Ready; decide +kernel, rfl⟩

theorem witness_VectorCompares :
    (∃ row ∈ compareOps, ∃ (o : Ops) (s : State) (c : Cur) (x : Ctx) (t : Nat), (s.Runs c (maskSrc o)) ∧ (x = s.ctx c.cx) ∧ (t = vtypeOf x) ∧ (t ∈
    integerTypes)) ∧
    (∃ (o : Ops) (s : State) (c : Cur) (x : Ctx) (t : Nat), (s.Runs c (maskSrc o)) ∧ (x = s.ctx c.cx) ∧ (t = vtypeOf x) ∧ (t ∈ integerTypes) ∧ (o.sat =
    false)) ∧
    (∃ (o : Ops) (s : State) (c : Cur) (x : Ctx) (t : Nat), (s.Runs c (maskSrc o)) ∧ (x = s.ctx c.cx) ∧ (t = vtypeOf x) ∧ (t ∈ integerTypes) ∧ (o.sat =
    false) ∧ (activeCodes x o = [])) ∧
    (∃ (o : Ops) (s : State) (c : Cur) (x : Ctx) (t : Nat), (s.Runs c (maskSrc o)) ∧ (x = s.ctx c.cx) ∧ (t = vtypeOf x) ∧ (t ∈ integerTypes) ∧ (o.sat =
    false) ∧ (activeCodes x o ≠ [])) ∧
    (∃ row ∈ floatCompares, ∃ (o : Ops) (s : State) (c : Cur) (x : Ctx) (t : Nat), (s.Runs c (maskSrc o)) ∧ (x = s.ctx c.cx) ∧ (t = vtypeOf x) ∧ (t ≤ 6) ∧
    ∃ X Y : Nat → Nat → Fv, (∀ i j, X i j = (formatOf t).read o.fzi (elemAt t (laneAt (x.readV o.a) i) j)) ∧ (∀ i j, Y i j = (formatOf t).read o.fzi
    (elemAt t (laneAt (x.readV o.b) i) j))) ∧
    (∃ (o : Ops) (s : State) (c : Cur) (x : Ctx) (t : Nat), (s.Runs c (maskSrc o)) ∧ (x = s.ctx c.cx) ∧ (t = vtypeOf x) ∧ (t ≤ 6) ∧ (activeCodes x o = [])) ∧
    (∃ (o : Ops) (s : State) (c : Cur) (x : Ctx) (t : Nat), (s.Runs c (maskSrc o)) ∧ (x = s.ctx c.cx) ∧ (t = vtypeOf x) ∧ (t ≤ 6) ∧ (activeCodes x o ≠ [])
    ∧ ∃ r, (r = Fv.sum (modeOf o.rnd.toNat) ((activeCodes x o).map ((formatOf t).read o.fzi))) ∧ ∃ g, (g = (formatOf t).give { mode := modeOf o.rnd.toNat, fzo := o.fzo, fzi := o.fzi }
    r.1)) ∧
    (∃ (o : Ops) (s : State) (c : Cur) (x : Ctx) (t : Nat), (s.Runs c (maskSrc o)) ∧ (x = s.ctx c.cx) ∧ (t = vtypeOf x) ∧ (t ≤ 6) ∧ ∃ m ms, ((activeCodes x
    o).map ((formatOf t).read o.fzi) = m :: ms) ∧ ∃ row ∈ [((Instr.vredmin : Ops → Instr), false), (Instr.vredmax, true)], ∃ g, (g = (formatOf t).give
    (floatCtl o false) (ms.foldl (Fv.pick row.2) m))) ∧
    (∃ (o : Ops) (s : State) (c : Cur) (x : Ctx), (s.Runs c (maskSrc o)) ∧ (x = s.ctx c.cx)) := by
  refine ⟨?_, ?_, ?_, ?_, ?_, ?_, ?_, ?_, ?_⟩
  · exact ⟨_, List.Mem.head _, {}, st (shaped 10), c0, _, _, by unfold State.Runs State.Issues Ctx.NoStep Ctx.Ready; decide +kernel, rfl, rfl, by decide +kernel⟩
  · exact ⟨{}, st (shaped 10), c0, _, _, by unfold State.Runs State.Issues Ctx.NoStep Ctx.Ready; decide +kernel, rfl, rfl, by decide +kernel⟩
  · exact ⟨{ mask := 1 }, st (shaped 10), c0, _, _, by unfold State.Runs State.Issues Ctx.NoStep Ctx.Ready; decide +kernel, rfl, rfl, by decide +kernel⟩
  · exact ⟨{}, st (shaped 10), c0, _, _, by unfold State.Runs State.Issues Ctx.NoStep Ctx.Ready; decide +kernel, rfl, rfl, by decide +kernel⟩
  · exact ⟨_, List.Mem.head _, {}, st, c0, _, _, by unfold State.Runs State.Issues Ctx.NoStep Ctx.Ready; decide +kernel, rfl, rfl, by decide +kernel, _, _,
    fun _ _ => rfl, fun _ _ => rfl⟩
  · exact ⟨{ mask := 1 }, st, c0, _, _, by unfold State.Runs State.Issues Ctx.NoStep Ctx.Ready; decide +kernel, rfl, rfl, by decide +kernel⟩
  · exact ⟨{}, st, c0, _, _, by unfold State.Runs State.Issues Ctx.NoStep Ctx.Ready; decide +kernel, rfl, rfl, by decide +kernel, by decide +kernel, _, rfl, _,
    rfl⟩
  · exact ⟨{}, st, c0, _, _, by unfold State.Runs State.Issues Ctx.NoStep Ctx.Ready; decide +kernel, rfl, rfl, by decide +kernel,
    cons_of (by decide +kernel) (fun _ _ => ⟨_, List.Mem.head _, _, rfl⟩)⟩
  · exact ⟨{}, st, c0, _, by unfold State.Runs State.Issues Ctx.NoStep Ctx.Ready; decide +kernel, rfl⟩

theorem witness_VectorMemory :
    (∃ row ∈ vectorLoads, ∃ (o : Ops) (s : State) (c : Cur) (x : Ctx), (s.Runs c (addressSrcs o row.2.1 ++ maskSrc o)) ∧ (x = s.ctx c.cx) ∧ (0 < row.2.2 x)
    ∧ (∀ i < 64, isActive x o i = true → InWindows s c.cx (laneAddress x o row.2.1 i) (row.2.2 x)) ∧ Quiet s c.cx) ∧
    (∃ row ∈ vectorStores, ∃ (o : Ops) (s : State) (c : Cur) (x : Ctx), (s.Runs c (addressSrcs o row.2.1 ++ maskSrc o)) ∧ (x = s.ctx c.cx) ∧ (0 < row.2.2
    x) ∧ (∀ i < 64, isActive x o i = true → InOwnWindows s c.cx (laneAddress x o row.2.1 i) (row.2.2 x) ∧ winOf (laneAddress x o row.2.1 i) ≠ 3) ∧ Quiet s
    c.cx ∧ (x.rcount ≤ 512)) := by
  refine ⟨?_, ?_⟩
  · exact ⟨_, List.Mem.head _, { a := 1 }, st (shaped 0x100A (rg [(1, inW 0x3FFFC0)])), c0, _,
    by unfold State.Runs State.Issues Ctx.NoStep Ctx.Ready; decide +kernel, rfl, by decide +kernel,
    lane0 (by decide +kernel) (by unfold InWindows InRange; decide +kernel), by unfold Quiet; decide +kernel⟩
  · exact ⟨_, List.Mem.head _, { a := 1 }, st (shaped 0x100A { rg [(1, inW 0x3FFFC0)] with rcount := 512 }), c0, _,
    by unfold State.Runs State.Issues Ctx.NoStep Ctx.Ready; decide +kernel, rfl, by decide +kernel,
    lane0 (by decide +kernel) (by unfold InOwnWindows InWindows InRange; decide +kernel), by unfold Quiet; decide +kernel, by decide +kernel⟩

theorem witness_VectorAtomics :
    ∃ row ∈ [((Instr.vaor : Ops → Instr), fun (_ : Nat) (old y : Nat) => old ||| y), (Instr.vaadd, fun w old y => (old + y) % 2 ^ w)], ∃ (o : Ops) (s :
    State) (c : Cur) (x : Ctx) (w : Nat), (s.Runs c (o.a :: maskSrc o)) ∧ (x = s.ctx c.cx) ∧ (vtypeOf x ∈ integerTypes) ∧ (w = typeWidth (vtypeOf x)) ∧
    (o.imm = 0 ∨ x.rcount = 0) ∧ Quiet s c.cx ∧ (s.net.fwds = []) ∧ (∀ i < 64, isActive x o i = true → InWindows s c.cx (laneAddress x o 2 i) w ∧
    (laneAddress x o 2 i).toNat % 64 + w ≤ 64 ∧ winOf (laneAddress x o 2 i) ≠ 3) ∧ (∀ i < 64, ∀ m < 64, isActive x o i = true → isActive x o m = true → i
    ≠ m → (placeByte (laneAddress x o 2 i)).1 / 8 ≠ (placeByte (laneAddress x o 2 m)).1 / 8) :=
  ⟨_, List.Mem.head _, { a := 1 }, st (shaped 0x100A (rg [(1, inW 0x3FFFE0)])), c0, _, _,
    by unfold State.Runs State.Issues Ctx.NoStep Ctx.Ready; decide +kernel, rfl, by decide +kernel, rfl, by decide +kernel,
    by unfold Quiet; decide +kernel, by decide +kernel, lane0 (by decide +kernel) (by unfold InWindows InRange; decide +kernel),
    fun i hi m hm a b n => absurd ((only0 i hi a).trans (only0 m hm b).symm) n⟩

theorem witness_VectorConversions :
    (∃ (o : Ops) (s : State) (c : Cur) (x : Ctx) (t u : Nat), (s.Runs c (maskSrc o)) ∧ (x = s.ctx c.cx) ∧ (t = vtypeOf x) ∧ (t ≤ 17) ∧ (u ≤ 17) ∧ (u =
    o.f.toNat + 16 * (o.imm.toNat % 2)) ∧ ∃ F : Nat → Nat × Flags, (∀ e, F e = partOf (o.imm.toNat / 2) (64 * typeLane t) (64 * typeLane u) (fun k =>
    converted (floatCtl o true) t u (elemOf t (x.readV o.a) k)) (elemOf u (x.readV o.d)) e)) ∧
    (∃ (o : Ops) (s : State) (c : Cur), (s.Runs c ([o.a, o.b] ++ maskSrc o)) ∧ ∃ ty r k, (ty = ((s.ctx c.cx).readS o.a).toNat % 32) ∧ (r = ((s.ctx
    c.cx).readS o.b).toNat / 256 % 256) ∧ (k = ((s.ctx c.cx).readS o.b).toNat % 256) ∧ (ty ≤ 18 ∧ 1 ≤ r ∧ 1 ≤ k ∧ r * k ≤ 64)) ∧
    (∃ (o : Ops) (s : State) (c : Cur), (s.Runs c ([o.a, o.b] ++ maskSrc o)) ∧ ∃ ty r k, (ty = ((s.ctx c.cx).readS o.a).toNat % 32) ∧ (r = ((s.ctx
    c.cx).readS o.b).toNat / 256 % 256) ∧ (k = ((s.ctx c.cx).readS o.b).toNat % 256) ∧ (¬ (ty ≤ 18 ∧ 1 ≤ r ∧ 1 ≤ k ∧ r * k ≤ 64))) := by
  refine ⟨?_, ?_, ?_⟩
  · exact ⟨{ f := 10 }, st (shaped 10), c0, _, _, _, by unfold State.Runs State.Issues Ctx.NoStep Ctx.Ready; decide +kernel, rfl, rfl, by decide +kernel,
    by decide +kernel, rfl, _, fun _ => rfl⟩
  · exact ⟨{ a := 1, b := 2 }, st (rg [(1, 18), (2, 0x4001)]), c0, by unfold State.Runs State.Issues Ctx.NoStep Ctx.Ready; decide +kernel, _, _, _, rfl, rfl, rfl,
    by decide +kernel⟩
  · exact ⟨{ a := 1, b := 2 }, st (rg [(1, 18), (2, 0x4101)]), c0, by unfold State.Runs State.Issues Ctx.NoStep Ctx.Ready; decide +kernel, _, _, _, rfl, rfl, rfl,
    by decide +kernel⟩

theorem witness_VectorQuantisation :
    (∃ (o : Ops) (s : State) (c : Cur) (x : Ctx) (t n kb : Nat), (s.Runs c []) ∧ (x = s.ctx c.cx) ∧ (t = vtypeOf x) ∧ (t ≤ 2) ∧ (n = 64 * typeLane t) ∧ (kb
    = 2 ^ o.f.toNat) ∧ ((o.imm.toNat / 16 + 1) * n ≤ 1024) ∧ (kb ≤ n) ∧ ∃ Q : Nat → Nat × List Nat × Flags, (∀ b, Q b = quantise (modeOf o.rnd.toNat) (if
    o.imm.toNat % 16 = 0 then [0, 1, 2, 3] else [0, 1, 2, 3].filter (fun T => o.imm.toNat.testBit T)) ((List.range kb).map (fun j => (formatOf t).read
    o.fzi (elemAt t (laneAt (x.readV o.a) ((b * kb + j) / typeLane t)) ((b * kb + j) % typeLane t))))) ∧ (o.d.toNat % 32 ≠ (o.d + 1).toNat % 32)) ∧
    (∃ (o : Ops) (s : State) (c : Cur) (x : Ctx) (t n kb : Nat), (s.Runs c []) ∧ (x = s.ctx c.cx) ∧ (t = vtypeOf x) ∧ (t ≤ 2) ∧ (n = 64 * typeLane t) ∧ (kb
    = 2 ^ o.f.toNat) ∧ ((o.imm.toNat / 16 + 1) * n ≤ 1024) ∧ (kb ≤ 1024)) := by
  refine ⟨?_, ?_⟩
  · exact ⟨{ f := 7 }, st, c0, _, _, _, _, by unfold State.Runs State.Issues Ctx.NoStep Ctx.Ready; decide +kernel, rfl, rfl, by decide +kernel, rfl, rfl,
    by decide +kernel, by decide +kernel, _, fun _ => rfl, by decide +kernel⟩
  · exact ⟨{ f := 10 }, st, c0, _, _, _, _, by unfold State.Runs State.Issues Ctx.NoStep Ctx.Ready; decide +kernel, rfl, rfl, by decide +kernel, rfl, rfl,
    by decide +kernel⟩

theorem witness_MatrixIssue :
    (∃ row ∈ mmaForms, ∃ (o : Ops) (s : State) (c : Cur) (m : MapSlot) (p : MmaOp), (s.Runs c (mmaSources (s.ctx c.cx) o (row.2.2.1 || row.2.2.2) false)) ∧
    (c.cx < 8192) ∧ (p = mmaRecord s c o row.2.1 row.2.2.1 row.2.2.2 m) ∧ ∃ okA okB : Prop, (okA = OperandOk s (c.cx / 512) p.a (shapeM p.mshape) (pairOf
    p.fmt).a.width row.2.2.1 p.mshape) ∧ (okB = OperandOk s (c.cx / 512) p.b (shapeN p.mshape) (pairOf p.fmt).b.width row.2.2.2 p.mshape) ∧ (MapNamed s
    (c.cx / 512) (s.ctx c.cx).uid (o.imm.toNat % 64) m) ∧ okA ∧ okB ∧ OutFits p.mshape m p.wout ∧ (Clear s c (p.locks s))) ∧
    (∃ row ∈ mmaForms, ∃ (o : Ops) (s : State) (c : Cur) (m : MapSlot) (p : MmaOp), (s.Runs c (mmaSources (s.ctx c.cx) o (row.2.2.1 || row.2.2.2) false)) ∧
    (c.cx < 8192) ∧ (p = mmaRecord s c o row.2.1 row.2.2.1 row.2.2.2 m) ∧ ∃ okA okB : Prop, (okA = OperandOk s (c.cx / 512) p.a (shapeM p.mshape) (pairOf
    p.fmt).a.width row.2.2.1 p.mshape) ∧ (okB = OperandOk s (c.cx / 512) p.b (shapeN p.mshape) (pairOf p.fmt).b.width row.2.2.2 p.mshape) ∧ (MapNamed s
    (c.cx / 512) (s.ctx c.cx).uid (o.imm.toNat % 64) m) ∧ (¬ (okA ∧ okB)) ∧ ((s.ctx c.cx).rcount = 0)) ∧
    (∃ row ∈ mmaForms, ∃ (o : Ops) (s : State) (c : Cur) (m : MapSlot) (p : MmaOp), (s.Runs c (mmaSources (s.ctx c.cx) o (row.2.2.1 || row.2.2.2) false)) ∧
    (c.cx < 8192) ∧ (p = mmaRecord s c o row.2.1 row.2.2.1 row.2.2.2 m) ∧ ∃ okA okB : Prop, (okA = OperandOk s (c.cx / 512) p.a (shapeM p.mshape) (pairOf
    p.fmt).a.width row.2.2.1 p.mshape) ∧ (okB = OperandOk s (c.cx / 512) p.b (shapeN p.mshape) (pairOf p.fmt).b.width row.2.2.2 p.mshape) ∧ (MapNamed s
    (c.cx / 512) (s.ctx c.cx).uid (o.imm.toNat % 64) m) ∧ okA ∧ okB ∧ (¬ OutFits p.mshape m p.wout) ∧ ((s.ctx c.cx).rcount = 0)) ∧
    (∃ row ∈ mmaForms, ∃ (o : Ops) (s : State) (c : Cur) (m : MapSlot) (p : MmaOp), (s.Runs c (mmaSources (s.ctx c.cx) o (row.2.2.1 || row.2.2.2) false)) ∧
    (c.cx < 8192) ∧ (p = mmaRecord s c o row.2.1 row.2.2.1 row.2.2.2 m) ∧ ∃ okA okB : Prop, (okA = OperandOk s (c.cx / 512) p.a (shapeM p.mshape) (pairOf
    p.fmt).a.width row.2.2.1 p.mshape) ∧ (okB = OperandOk s (c.cx / 512) p.b (shapeN p.mshape) (pairOf p.fmt).b.width row.2.2.2 p.mshape) ∧ (∀ m', ¬
    MapNamed s (c.cx / 512) (s.ctx c.cx).uid (o.imm.toNat % 64) m') ∧ ((s.ctx c.cx).rcount = 0)) := by
  refine ⟨?_, ?_, ?_, ?_⟩
  · exact ⟨_, List.Mem.head _, {}, st, c0, {}, _, by unfold State.Runs State.Issues Ctx.NoStep Ctx.Ready; decide +kernel, by decide +kernel, rfl, _, _, rfl, rfl,
    by unfold MapNamed; decide +kernel, Or.inl (by decide +kernel), Or.inl (by decide +kernel), outFits0, by unfold Clear; decide +kernel⟩
  · exact ⟨_, List.Mem.head _, { a := 1 }, st (rg [(1, inC 0)]), c0, {}, _, by unfold State.Runs State.Issues Ctx.NoStep Ctx.Ready; decide +kernel,
    by decide +kernel, rfl, _, _, rfl, rfl, by unfold MapNamed; decide +kernel, notOperand (by decide +kernel) (by decide +kernel), by decide +kernel⟩
  · exact ⟨_, List.Mem.head _, { imm := 1 }, st {} (fun c => { c with maps := [(1, { ob := 2 ^ 21 })] }), c0, { ob := 2 ^ 21 }, _,
    by unfold State.Runs State.Issues Ctx.NoStep Ctx.Ready; decide +kernel, by decide +kernel, rfl, _, _, rfl, rfl, by unfold MapNamed; decide +kernel,
    Or.inl (by decide +kernel), Or.inl (by decide +kernel), fun h => absurd (h 0 (by decide +kernel) 0 (by decide +kernel)) (by decide +kernel),
    by decide +kernel⟩
  · exact ⟨_, List.Mem.head _, { imm := 1 }, st, c0, {}, _, by unfold State.Runs State.Issues Ctx.NoStep Ctx.Ready; decide +kernel, by decide +kernel, rfl, _, _,
    rfl, rfl, unmapped (by decide +kernel) (by decide +kernel), by decide +kernel⟩

theorem witness_SparseIssue :
    ∃ row ∈ smmaForms, ∃ (o : Ops) (s : State) (c : Cur) (m : MapSlot) (p : MmaOp) (rowp coli vals first last : Nat), (s.Runs c (mmaSources (s.ctx c.cx) o
    (row.2.2.1 || row.2.2.2) true)) ∧ (p = { mmaRecord s c o row.2.1 row.2.2.1 row.2.2.2 m with rowp := BitVec.ofNat 64 rowp, coli := BitVec.ofNat 64 coli, vals := BitVec.ofNat 64 vals })
    ∧ (∀ k v, (k, v) ∈ [(0, rowp), (64, coli), (128, vals)] → InWindows s c.cx (p.b + BitVec.ofNat 64 k) 64 ∧ InCluster (c.cx / 512) (p.b + BitVec.ofNat
    64 k) 64 ∧ ReadsAs s (p.b + BitVec.ofNat 64 k) 64 v) ∧ (p.b.getLsbD 63 = true) ∧ (p.rowp.getLsbD 63 = true) ∧ ((p.rowp + BitVec.ofNat 64 (32 * shapeN
    p.mshape)).getLsbD 63 = true) ∧ (InWindows s c.cx p.rowp 32) ∧ (InCluster (c.cx / 512) p.rowp 32) ∧ (ReadsAs s p.rowp 32 first) ∧ (InWindows s c.cx
    (p.rowp + BitVec.ofNat 64 (32 * shapeN p.mshape)) 32) ∧ (InCluster (c.cx / 512) (p.rowp + BitVec.ofNat 64 (32 * shapeN p.mshape)) 32) ∧ (ReadsAs s
    (p.rowp + BitVec.ofNat 64 (32 * shapeN p.mshape)) 32 last) ∧ (s.poison = []) ∧ (s.rstores = []) ∧ (MapNamed s (c.cx / 512) (s.ctx c.cx).uid
    (o.imm.toNat % 64) m) ∧ (OperandOk s (c.cx / 512) p.a (shapeM p.mshape) (pairOf p.fmt).a.width row.2.2.1 p.mshape) ∧ OutFits p.mshape m p.wout ∧
    (Clear s c (p.locks s ++ p.csrLocks s first last)) :=
  ⟨_, List.Mem.head _, { a := 0, b := 1 }, sparse, c0, {}, _, 0x8000001000020000, 0, 0, 0, 0,
    by unfold State.Runs State.Issues Ctx.NoStep Ctx.Ready; decide +kernel, rfl, sparseWords, by decide +kernel, by decide +kernel, by decide +kernel,
    by unfold InWindows InRange; decide +kernel, by unfold InCluster; decide +kernel, by unfold ReadsAs; decide +kernel,
    by unfold InWindows InRange; decide +kernel, by unfold InCluster; decide +kernel, by unfold ReadsAs; decide +kernel, by decide +kernel,
    by decide +kernel, by unfold MapNamed; decide +kernel, Or.inl (by decide +kernel), outFits0, by unfold Clear; decide +kernel⟩

theorem witness_ShapeAndZero :
    (∃ (o : Ops) (s : State) (c : Cur) (m : MapSlot) (p : MmaOp), (s.Runs c [o.a]) ∧ (p = { mmaRecord s c o 32 false false m with b := 0, sa := 0, sb := 0 })
    ∧ (MapNamed s (c.cx / 512) (s.ctx c.cx).uid (o.imm.toNat % 64) m) ∧ (OutFits p.mshape m (if p.mshape.getLsbD 5 then 16 else 32)) ∧ (Clear s c [])) ∧
    (∃ (o : Ops) (s : State) (c : Cur) (v : Word), (s.Runs c [o.a]) ∧ (c.cx < 8192) ∧ (v = (s.ctx c.cx).readS o.a)) := by
  refine ⟨?_, ?_⟩
  · exact ⟨{}, st, c0, {}, _, by unfold State.Runs State.Issues Ctx.NoStep Ctx.Ready; decide +kernel, rfl, by unfold MapNamed; decide +kernel, outFits0,
    by unfold Clear; decide +kernel⟩
  · exact ⟨{}, st, c0, _, by unfold State.Runs State.Issues Ctx.NoStep Ctx.Ready; decide +kernel, by decide +kernel, rfl⟩

theorem witness_MapSlots :
    (∃ (o : Ops) (s : State) (c : Cur) (a b : Word) (cl : Nat) (maps : Assoc MapSlot), (s.Runs c [o.a, o.b]) ∧ (c.cx < 8192) ∧ (a = (s.ctx c.cx).readS o.a)
    ∧ (b = (s.ctx c.cx).readS o.b) ∧ (cl = c.cx / 512) ∧ (maps = (s.cluster cl).maps) ∧ (a.getLsbD 63 = false) ∧ ∃ k, (1 ≤ k) ∧ (k ≤ 63) ∧ (aget maps k =
    none) ∧ (∀ j, 1 ≤ j → j < k → (aget maps j).isSome = true)) ∧
    (∃ (o : Ops) (s : State) (c : Cur) (a b : Word) (cl : Nat) (maps : Assoc MapSlot), (s.Runs c [o.a, o.b]) ∧ (c.cx < 8192) ∧ (a = (s.ctx c.cx).readS o.a)
    ∧ (b = (s.ctx c.cx).readS o.b) ∧ (cl = c.cx / 512) ∧ (maps = (s.cluster cl).maps) ∧ (a.getLsbD 63 = false) ∧ (∀ j, 1 ≤ j → j ≤ 63 → (aget maps
    j).isSome = true)) ∧
    (∃ (o : Ops) (s : State) (c : Cur) (a b : Word) (cl : Nat) (maps : Assoc MapSlot), (s.Runs c [o.a, o.b]) ∧ (c.cx < 8192) ∧ (a = (s.ctx c.cx).readS o.a)
    ∧ (b = (s.ctx c.cx).readS o.b) ∧ (cl = c.cx / 512) ∧ (maps = (s.cluster cl).maps) ∧ (a.getLsbD 63 = true) ∧ ∃ m, (aget maps (b.toNat % 64) = some m) ∧
    (m.owner = (s.ctx c.cx).uid)) ∧
    (∃ (o : Ops) (s : State) (c : Cur) (a b : Word) (cl : Nat) (maps : Assoc MapSlot), (s.Runs c [o.a, o.b]) ∧ (c.cx < 8192) ∧ (a = (s.ctx c.cx).readS o.a)
    ∧ (b = (s.ctx c.cx).readS o.b) ∧ (cl = c.cx / 512) ∧ (maps = (s.cluster cl).maps) ∧ (a.getLsbD 63 = true) ∧ (∀ m, aget maps (b.toNat % 64) = some m →
    m.owner ≠ (s.ctx c.cx).uid)) := by
  refine ⟨?_, ?_, ?_, ?_⟩
  · exact ⟨{}, st, c0, _, _, _, _, by unfold State.Runs State.Issues Ctx.NoStep Ctx.Ready; decide +kernel, by decide +kernel, rfl, rfl, rfl, rfl,
    by decide +kernel, 1, by decide +kernel, by decide +kernel, by decide +kernel, fun j h h' => absurd h' (by omega)⟩
  · exact ⟨{}, st {} (fun c => { c with maps := (List.range 64).map (fun i => (i, {})) }), c0, _, _, _, _,
    by unfold State.Runs State.Issues Ctx.NoStep Ctx.Ready; decide +kernel, by decide +kernel, rfl, rfl, rfl, rfl, by decide +kernel,
    fun j _ h => allMaps j (by omega)⟩
  · exact ⟨{ a := 1, b := 2 }, st (rg [(1, 2 ^ 63), (2, 63)]) (fun c => { c with maps := [(63, {})] }), c0, _, _, _, _,
    by unfold State.Runs State.Issues Ctx.NoStep Ctx.Ready; decide +kernel, by decide +kernel, rfl, rfl, rfl, rfl, by decide +kernel, {},
    by decide +kernel⟩
  · exact ⟨{ a := 1 }, st (rg [(1, 2 ^ 63)]), c0, _, _, _, _, by unfold State.Runs State.Issues Ctx.NoStep Ctx.Ready; decide +kernel, by decide +kernel, rfl, rfl,
    rfl, rfl, by decide +kernel, fun m h => nomatch (show (none : Option MapSlot) = some m from h)⟩

theorem witness_TileTasks :
    (∃ (s : State) (x : EvArg) (p : MmaOp) (k : Nat), s.Happens x ∧ ((s.cluster x.i).gen = [p]) ∧ (p.cancel = false) ∧ (p.failed = none) ∧ (p.placed <
    shapeTiles p.mshape) ∧ ((s.cluster x.i).took.1 ≠ s.cycle) ∧ (32 < (s.cluster x.i).freeRecs) ∧ (k < 1024) ∧ (aget (s.cluster x.i).yard k = none) ∧ (∀ j
    < k, (aget (s.cluster x.i).yard j).isSome = true)) ∧
    (∃ (s : State) (x : EvArg) (p : MmaOp) (u : Tile) (e : Fin 4), s.Happens x ∧ ((s.cluster x.i).gen = [p]) ∧ ((s.cluster x.i).tiles = [u]) ∧ (u.handle =
    p.handle) ∧ (p.cancel = false) ∧ (p.failed = none) ∧ (p.fmt = 32 ∨ (p.a.getLsbD 63 = false ∧ (p.b.getLsbD 63 = false ∨ 16 ≤ p.fmt))) ∧ ((s.cluster
    x.i).engines[e] = none) ∧ (∀ f : Fin 4, f < e → (s.cluster x.i).engines[f] ≠ none) ∧ (∀ (f : Fin 4) v, (s.cluster x.i).engines[f] = some v → u.ord ≤
    v.ord)) ∧
    (∃ (s : State) (x : EvArg) (p : MmaOp) (u : Tile) (e : Fin 4) (w row : Nat), s.Happens x ∧ (x.i < 16) ∧ (x.k = e.val) ∧ ((s.cluster x.i).gen = [p]) ∧
    ((s.cluster x.i).engines[e] = some u) ∧ (u.handle = p.handle) ∧ (u.stop = false) ∧ (u.row < 128) ∧ (p.fmt = 32) ∧ (w = (if p.mshape.getLsbD 5 then 16
    else 32)) ∧ (row = 128 * u.tm + u.row) ∧ (row < shapeM p.mshape) ∧ (128 * u.tn + 127 < shapeN p.mshape) ∧ (p.rights.cx / 512 = x.i) ∧ (p.rights.cx <
    8192) ∧ (p.map.ob % 128 = 0) ∧ (p.map.rs % 128 = 0) ∧ OutFits p.mshape p.map w ∧ (s.poison = []) ∧ (s.ldfes = []) ∧ (s.rstores = []) ∧ (x.i ∉
    s.boot.left) ∧ (∀ m < shapeM p.mshape, m ≠ row → ∀ n < shapeN p.mshape, ∀ n' < shapeN p.mshape, (outPlace p.mshape p.map w m n).1 ≠ (outPlace p.mshape
    p.map w row n').1 ∨ (outPlace p.mshape p.map w m n).2 ≠ (outPlace p.mshape p.map w row n').2)) := by
  refine ⟨?_, ?_, ?_⟩
  · exact ⟨ev {} (fun c => { c with gen := [{}], took := (1, 0) }), {}, {}, 0, by unfold State.Happens; decide +kernel, by decide +kernel⟩
  · exact ⟨ready, {}, { fmt := 32 }, {}, 0, by unfold State.Happens; decide +kernel,
    and6 (by decide +kernel)
      ⟨by decide +kernel, by decide +kernel, fun f v h => by rw [idle f] at h; cases h⟩⟩
  · exact ⟨ev {} (fun c => { c with gen := [{ fmt := 32 }], engines := c.engines.set 0 (some {}) }), {}, { fmt := 32 }, {}, 0, _, _,
    by unfold State.Happens; decide +kernel,
    and6 (by decide +kernel)
      ⟨by decide +kernel, by decide +kernel, rfl, rfl, and6 (by decide +kernel)
      ⟨outFits0, by decide +kernel, by decide +kernel, by decide +kernel, by decide +kernel, apart⟩⟩⟩

theorem witness_TileTaskEnds :
    ∃ (s : State) (x : EvArg) (p : MmaOp) (u : Tile) (e : Fin 4), s.Happens x ∧ (x.i < 16) ∧ (x.k = e.val) ∧ ((s.cluster x.i).gen = [p]) ∧ ((s.cluster
    x.i).tiles = []) ∧ ((s.cluster x.i).engines[e] = some u) ∧ (∀ f, f ≠ e → (s.cluster x.i).engines[f] = none) ∧ (u.handle = p.handle) ∧ (u.stop = false)
    ∧ (u.row = 128) ∧ (p.cancel = false) ∧ (p.failed = none) ∧ (p.tainted = false) ∧ (p.placed = shapeTiles p.mshape) ∧ (p.rights.cx / 512 = x.i) ∧
    (p.rights.cx < 8192) ∧ NoneSuspended s ∧ ((s.cluster x.i).streams.closure = []) ∧ ((s.cluster x.i).streams.herdq = []) :=
  ⟨ev {} (fun c => { c with gen := [{ placed := 1 }], engines := c.engines.set 0 (some { row := 128 }) }), {}, { placed := 1 }, { row := 128 }, 0,
    by unfold State.Happens; decide +kernel,
    and6 (by decide +kernel)
      (and6 (by decide +kernel)
      ⟨by decide +kernel, by decide +kernel, by decide +kernel, by unfold NoneSuspended; decide +kernel, by decide +kernel⟩)⟩

theorem witness_IntegerElements :
    ∃ (p : MmaOp) (f g : Nat → Nat) (prior : Nat), (p.fmt = 0x6) ∧ (p.sat = false) ∧ (p.mshape.toNat % 16 ≤ 6) ∧ (prior < 2 ^ 32) :=
  ⟨{ fmt := 6 }, fun _ => 0, fun _ => 0, 2 ^ 32 - 1, by decide +kernel⟩

theorem witness_StreamIssue :
    ∃ row ∈ streamForms, ∃ (o : Ops) (s : State) (c : Cur) (x y : Word), (s.Runs c (row.2.2.2 o)) ∧ StreamRoom s c ∧ (x = (s.ctx c.cx).readS o.a) ∧ (y =
    (s.ctx c.cx).readS o.b) ∧ (row.2.1 = 3 → (s.die ((y.toNat / 64) % 4)).groups.length < 4096) :=
  ⟨_, List.Mem.head _, {}, st, c0, _, _, by unfold State.Runs State.Issues Ctx.NoStep Ctx.Ready; decide +kernel, by unfold StreamRoom; decide +kernel,
    rfl, rfl, by decide +kernel⟩

theorem witness_MigrationIssue :
    (∃ (o : Ops) (s : State) (c : Cur) (x y : Word) (cl pkg slot : Nat) (id : BitVec 32), (s.Runs c [o.a, o.b]) ∧ StreamRoom s c ∧ (cl = c.cx / 512) ∧ (x =
    (s.ctx c.cx).readS o.a) ∧ (y = (s.ctx c.cx).readS o.b) ∧ (x ≠ 0) ∧ (x.toNat < 2 ^ 32) ∧ (id = x.setWidth 32) ∧ (slot = id.toNat % 4096) ∧ (pkg =
    y.toNat % 4096) ∧ (∀ q ∈ (s.cluster cl).streams.queue, id ∉ q.streams) ∧ (∀ q ∈ (s.cluster cl).streams.cows, q.sid ≠ id) ∧ (s.rstores = []) ∧ ∃ u,
    (u.id = id) ∧ Live s cl slot u ∧ (u.state = .idle) ∧ (pkg ≠ s.sys.self) ∧ (s.knows pkg = true)) ∧
    (∃ (o : Ops) (s : State) (c : Cur) (x y : Word) (cl pkg slot : Nat) (id : BitVec 32), (s.Runs c [o.a, o.b]) ∧ StreamRoom s c ∧ (cl = c.cx / 512) ∧ (x =
    (s.ctx c.cx).readS o.a) ∧ (y = (s.ctx c.cx).readS o.b) ∧ (x ≠ 0) ∧ (x.toNat < 2 ^ 32) ∧ (id = x.setWidth 32) ∧ (slot = id.toNat % 4096) ∧ (pkg =
    y.toNat % 4096) ∧ (∀ q ∈ (s.cluster cl).streams.queue, id ∉ q.streams) ∧ (∀ q ∈ (s.cluster cl).streams.cows, q.sid ≠ id) ∧ (s.rstores = []) ∧ NotLive
    s cl id) ∧
    (∃ (o : Ops) (s : State) (c : Cur) (x y : Word) (cl pkg slot : Nat) (id : BitVec 32), (s.Runs c [o.a, o.b]) ∧ StreamRoom s c ∧ (cl = c.cx / 512) ∧ (x =
    (s.ctx c.cx).readS o.a) ∧ (y = (s.ctx c.cx).readS o.b) ∧ (x ≠ 0) ∧ (x.toNat < 2 ^ 32) ∧ (id = x.setWidth 32) ∧ (slot = id.toNat % 4096) ∧ (pkg =
    y.toNat % 4096) ∧ (∀ q ∈ (s.cluster cl).streams.queue, id ∉ q.streams) ∧ (∀ q ∈ (s.cluster cl).streams.cows, q.sid ≠ id) ∧ (s.rstores = []) ∧ ∃ u,
    (u.id = id) ∧ Live s cl slot u ∧ (u.state ≠ .idle)) ∧
    (∃ (o : Ops) (s : State) (c : Cur) (x y : Word) (cl pkg slot : Nat) (id : BitVec 32), (s.Runs c [o.a, o.b]) ∧ StreamRoom s c ∧ (cl = c.cx / 512) ∧ (x =
    (s.ctx c.cx).readS o.a) ∧ (y = (s.ctx c.cx).readS o.b) ∧ (x ≠ 0) ∧ (x.toNat < 2 ^ 32) ∧ (id = x.setWidth 32) ∧ (slot = id.toNat % 4096) ∧ (pkg =
    y.toNat % 4096) ∧ (∀ q ∈ (s.cluster cl).streams.queue, id ∉ q.streams) ∧ (∀ q ∈ (s.cluster cl).streams.cows, q.sid ≠ id) ∧ (s.rstores = []) ∧ ∃ u,
    (u.id = id) ∧ Live s cl slot u ∧ (u.state = .idle) ∧ (pkg = s.sys.self ∨ s.knows pkg = false)) := by
  refine ⟨?_, ?_, ?_, ?_⟩
  · exact ⟨{ a := 1, b := 2 }, migrating .idle 5, c0, _, _, _, _, _, _, by unfold State.Runs State.Issues Ctx.NoStep Ctx.Ready; decide +kernel,
    by unfold StreamRoom; decide +kernel, rfl, rfl, rfl, by decide +kernel, by decide +kernel, rfl, rfl, rfl, by decide +kernel, by decide +kernel,
    by decide +kernel, { id := 1, state := .idle }, by decide +kernel, by unfold Live; decide +kernel, by decide +kernel⟩
  · exact ⟨{ a := 1, b := 2 }, st (rg [(1, 1), (2, 5)]), c0, _, _, _, _, _, _, by unfold State.Runs State.Issues Ctx.NoStep Ctx.Ready; decide +kernel,
    by unfold StreamRoom; decide +kernel, rfl, rfl, rfl, by decide +kernel, by decide +kernel, rfl, rfl, rfl, by decide +kernel, by decide +kernel,
    by decide +kernel, notLive (by decide +kernel)⟩
  · exact ⟨{ a := 1, b := 2 }, migrating .arrived 5, c0, _, _, _, _, _, _, by unfold State.Runs State.Issues Ctx.NoStep Ctx.Ready; decide +kernel,
    by unfold StreamRoom; decide +kernel, rfl, rfl, rfl, by decide +kernel, by decide +kernel, rfl, rfl, rfl, by decide +kernel, by decide +kernel,
    by decide +kernel, { id := 1, state := .arrived }, by decide +kernel, by unfold Live; decide +kernel, by decide +kernel⟩
  · exact ⟨{ a := 1, b := 2 }, migrating .idle 0, c0, _, _, _, _, _, _, by unfold State.Runs State.Issues Ctx.NoStep Ctx.Ready; decide +kernel,
    by unfold StreamRoom; decide +kernel, rfl, rfl, rfl, by decide +kernel, by decide +kernel, rfl, rfl, rfl, by decide +kernel, by decide +kernel,
    by decide +kernel, { id := 1, state := .idle }, by decide +kernel, by unfold Live; decide +kernel, by decide +kernel⟩

theorem witness_StreamAnswers :
    (∃ (s : State) (x : EvArg) (op : EngOp), OnlyOp s x op ∧ (op.op ∈ needLive) ∧ (op.a ≠ 0) ∧ (op.a.toNat < 2 ^ 32) ∧ (NotLive s x.i (op.a.setWidth 32))) ∧
    (∃ (s : State) (x : EvArg) (op : EngOp) (u : StreamCtx) (slot : Nat), OnlyOp s x op ∧ (op.a = u.id.setWidth 64) ∧ Live s x.i slot u ∧ (op.op = 0x8)) ∧
    (∃ (s : State) (x : EvArg) (op : EngOp) (u : StreamCtx) (slot : Nat), OnlyOp s x op ∧ (op.a = u.id.setWidth 64) ∧ Live s x.i slot u ∧ (op.op = 0x9) ∧ ∃
    hz, (hz = BitVec.ofNat 32 (u.hz.toNat - 1))) ∧
    (∃ (s : State) (x : EvArg) (op : EngOp) (u : StreamCtx) (slot : Nat), OnlyOp s x op ∧ (op.a = u.id.setWidth 64) ∧ Live s x.i slot u ∧ (op.op = 0x6) ∧
    (u.aqn = 0 ∨ u.qtail = u.qhead)) ∧
    (∃ (s : State) (x : EvArg) (op : EngOp) (u : StreamCtx) (slot : Nat), OnlyOp s x op ∧ (op.a = u.id.setWidth 64) ∧ Live s x.i slot u ∧ (op.op = 0x7) ∧
    (op.b = -1)) ∧
    (∃ (s : State) (x : EvArg) (op : EngOp) (u : StreamCtx) (slot : Nat), OnlyOp s x op ∧ (op.a = u.id.setWidth 64) ∧ Live s x.i slot u ∧ (op.op = 0x7) ∧
    (op.b ≠ -1) ∧ (u.aqn = 0 ∨ (u.qtail - u.qhead).toNat = 2 ^ u.aqn.toNat)) ∧
    (∃ (s : State) (x : EvArg) (op : EngOp) (u : StreamCtx) (slot : Nat), OnlyOp s x op ∧ (op.a = u.id.setWidth 64) ∧ Live s x.i slot u ∧ (op.op = 0x5) ∧
    (u.state = .arrived ∨ u.state = .migrating)) ∧
    (∃ (s : State) (x : EvArg) (op : EngOp) (u : StreamCtx) (slot : Nat), OnlyOp s x op ∧ (op.a = u.id.setWidth 64) ∧ Live s x.i slot u ∧ (op.op = 0xC) ∧
    (u.state ≠ .herded)) ∧
    (∃ (s : State) (x : EvArg) (op : EngOp) (u : StreamCtx) (slot : Nat), OnlyOp s x op ∧ (op.a = u.id.setWidth 64) ∧ Live s x.i slot u ∧ (op.op = 0xC) ∧
    (u.state = .herded) ∧ ((s.cluster x.i).events.boundTo u.id = []) ∧ ((s.cluster x.i).streams.closure = []) ∧ ((s.cluster x.i).streams.herdq = [])) ∧
    (∃ (s : State) (x : EvArg) (op : EngOp) (u : StreamCtx) (slot : Nat), OnlyOp s x op ∧ (op.a = u.id.setWidth 64) ∧ Live s x.i slot u ∧ (op.op = 0x2) ∧
    (u.state = .migrating)) ∧
    (∃ (s : State) (x : EvArg) (op : EngOp) (u : StreamCtx) (slot : Nat), OnlyOp s x op ∧ (op.a = u.id.setWidth 64) ∧ Live s x.i slot u ∧ (op.op = 0x1) ∧
    (u.state = .migrating)) ∧
    (∃ (s : State) (x : EvArg) (op : EngOp) (u : StreamCtx) (slot : Nat), OnlyOp s x op ∧ (op.a = u.id.setWidth 64) ∧ Live s x.i slot u ∧ (op.op = 0x4) ∧
    (u.jg = 0)) ∧
    (∃ (s : State) (x : EvArg) (op : EngOp), OnlyOp s x op ∧ (op.op = 0xA) ∧ ∃ v, ((op.posts, v) ∈ [(1, (-1 : Word)), (2, 0x8000000000000000), (3,
    0xC000000000000000)])) := by
  refine ⟨?_, ?_, ?_, ?_, ?_, ?_, ?_, ?_, ?_, ?_, ?_, ?_, ?_⟩
  · exact ⟨sop { handle := 1, op := 1, a := 1 }, { w := 1 }, { handle := 1, op := 1, a := 1 }, by unfold OnlyOp State.Happens NoneSuspended; decide +kernel,
    by decide +kernel, by decide +kernel, by decide +kernel, notLive (by decide +kernel)⟩
  · exact ⟨sop { handle := 1, op := 8, a := 1 } [{ id := 1, state := .idle }], { w := 1 }, { handle := 1, op := 8, a := 1 }, { id := 1, state := .idle }, 1,
    by unfold OnlyOp State.Happens NoneSuspended; decide +kernel, by decide +kernel, by unfold Live; decide +kernel, by decide +kernel⟩
  · exact ⟨sop { handle := 1, op := 9, a := 1 } [{ id := 1, state := .idle }], { w := 1 }, { handle := 1, op := 9, a := 1 }, { id := 1, state := .idle }, 1,
    by unfold OnlyOp State.Happens NoneSuspended; decide +kernel, by decide +kernel, by unfold Live; decide +kernel, by decide +kernel, _, rfl⟩
  · exact ⟨sop { handle := 1, op := 6, a := 1 } [{ id := 1, state := .idle, aqn := 1 }], { w := 1 }, { handle := 1, op := 6, a := 1 },
    { id := 1, state := .idle, aqn := 1 }, 1, by unfold OnlyOp State.Happens NoneSuspended; decide +kernel, by decide +kernel,
    by unfold Live; decide +kernel, by decide +kernel⟩
  · exact ⟨sop { handle := 1, op := 7, a := 1, b := -1 } [{ id := 1, state := .idle }], { w := 1 }, { handle := 1, op := 7, a := 1, b := -1 },
    { id := 1, state := .idle }, 1, by unfold OnlyOp State.Happens NoneSuspended; decide +kernel, by decide +kernel, by unfold Live; decide +kernel,
    by decide +kernel⟩
  · exact ⟨sop { handle := 1, op := 7, a := 1 } [{ id := 1, state := .idle, aqn := 1, qtail := 2 }], { w := 1 }, { handle := 1, op := 7, a := 1 },
    { id := 1, state := .idle, aqn := 1, qtail := 2 }, 1, by unfold OnlyOp State.Happens NoneSuspended; decide +kernel, by decide +kernel,
    by unfold Live; decide +kernel, by decide +kernel⟩
  · exact ⟨sop { handle := 1, op := 5, a := 1 } [{ id := 1, state := .arrived }], { w := 1 }, { handle := 1, op := 5, a := 1 }, { id := 1, state := .arrived }, 1,
    by unfold OnlyOp State.Happens NoneSuspended; decide +kernel, by decide +kernel, by unfold Live; decide +kernel, by decide +kernel⟩
  · exact ⟨sop { handle := 1, op := 12, a := 1 } [{ id := 1, state := .idle }], { w := 1 }, { handle := 1, op := 12, a := 1 }, { id := 1, state := .idle }, 1,
    by unfold OnlyOp State.Happens NoneSuspended; decide +kernel, by decide +kernel, by unfold Live; decide +kernel, by decide +kernel⟩
  · exact ⟨sop { handle := 1, op := 12, a := 1 } [{ id := 1, state := .herded }], { w := 1 }, { handle := 1, op := 12, a := 1 }, { id := 1, state := .herded }, 1,
    by unfold OnlyOp State.Happens NoneSuspended; decide +kernel, by decide +kernel, by unfold Live; decide +kernel, by decide +kernel⟩
  · exact ⟨sop { handle := 1, op := 2, a := 1 } [{ id := 1, state := .migrating }], { w := 1 }, { handle := 1, op := 2, a := 1 },
    { id := 1, state := .migrating }, 1, by unfold OnlyOp State.Happens NoneSuspended; decide +kernel, by decide +kernel, by unfold Live; decide +kernel,
    by decide +kernel⟩
  · exact ⟨sop { handle := 1, op := 1, a := 1 } [{ id := 1, state := .migrating }], { w := 1 }, { handle := 1, op := 1, a := 1 },
    { id := 1, state := .migrating }, 1, by unfold OnlyOp State.Happens NoneSuspended; decide +kernel, by decide +kernel, by unfold Live; decide +kernel,
    by decide +kernel⟩
  · exact ⟨sop { handle := 1, op := 4, a := 1 } [{ id := 1, state := .idle }], { w := 1 }, { handle := 1, op := 4, a := 1 }, { id := 1, state := .idle }, 1,
    by unfold OnlyOp State.Happens NoneSuspended; decide +kernel, by decide +kernel, by unfold Live; decide +kernel, by decide +kernel⟩
  · exact ⟨sop { handle := 1, op := 10, posts := 1 }, { w := 1 }, { handle := 1, op := 10, posts := 1 },
    by unfold OnlyOp State.Happens NoneSuspended; decide +kernel, by decide +kernel, -1, by decide +kernel⟩

theorem witness_StreamSteps :
    (∃ (s : State) (x : EvArg) (op : EngOp) (u : StreamCtx) (slot : Nat), OnlyOp s x op ∧ (op.a = u.id.setWidth 64) ∧ Live s x.i slot u ∧ (u.state ≠
    .migrating) ∧ Undisturbed s ∧ ∃ key, (op.op = 0x6) ∧ (u.aqn ≠ 0) ∧ (u.qtail ≠ u.qhead) ∧ ActionAt s op u u.qhead key) ∧
    (∃ (s : State) (x : EvArg) (op : EngOp) (u : StreamCtx) (slot : Nat), OnlyOp s x op ∧ (op.a = u.id.setWidth 64) ∧ Live s x.i slot u ∧ (u.state ≠
    .migrating) ∧ Undisturbed s ∧ ∃ key, (op.op = 0x7) ∧ (op.b ≠ -1) ∧ (u.aqn ≠ 0) ∧ ((u.qtail - u.qhead).toNat ≠ 2 ^ u.aqn.toNat) ∧ ActionAt s op u
    u.qtail key) ∧
    (∃ (s : State) (x : EvArg) (op : EngOp) (u : StreamCtx) (slot : Nat), OnlyOp s x op ∧ (op.a = u.id.setWidth 64) ∧ Live s x.i slot u ∧ (u.state ≠
    .migrating) ∧ (op.op = 0x5) ∧ (u.state ≠ .arrived) ∧ (s.layer x.i (op.b.toNat / 2 ^ 16 % 2 ^ 16) (op.b.toNat % 2 ^ 16) = .invalid)) ∧
    (∃ (s : State) (x : EvArg) (op : EngOp) (u : StreamCtx) (slot : Nat), OnlyOp s x op ∧ (op.a = u.id.setWidth 64) ∧ Live s x.i slot u ∧ (u.state ≠
    .migrating) ∧ ∃ entry args size stack v, (op.op = 0x5) ∧ (u.state ≠ .arrived) ∧ (s.layer x.i (op.b.toNat / 2 ^ 16 % 2 ^ 16) (op.b.toNat % 2 ^ 16) =
    .valid entry args size stack) ∧ (2 ≤ size) ∧ ((s.cluster x.i).streams.arrivedAt ≠ s.cycle) ∧ ((s.cluster x.i).streams.closure = []) ∧ ((s.cluster
    x.i).streams.herdq = []) ∧ (v = { u with p := op.b.extractLsb' 16 16, l := op.b.extractLsb' 0 16, state := .arrived, herd := none })) := by
  refine ⟨?_, ?_, ?_, ?_⟩
  · exact ⟨{ sop { handle := 1, op := 6, a := 1 } [{ id := 1, state := .idle, aqn := 1, qtail := 2 }] with mem := [(0, 1), (1, 0x10), (0x1000, 7), (0x1002, 2)], regs := { refb := 1 } },
    { w := 1 }, { handle := 1, op := 6, a := 1 }, { id := 1, state := .idle, aqn := 1, qtail := 2 }, 1,
    by unfold OnlyOp State.Happens NoneSuspended; decide +kernel, by decide +kernel, by unfold Live; decide +kernel, by decide +kernel,
    by unfold Undisturbed; decide +kernel, 0x20000, by decide +kernel, by decide +kernel, by decide +kernel, by unfold ActionAt OwnTree; decide +kernel⟩
  · exact ⟨{ sop { handle := 1, op := 7, a := 1 } [{ id := 1, state := .idle, aqn := 1 }] with mem := [(0, 1), (1, 0x10), (0x1000, 7), (0x1002, 2)], regs := { refb := 1 } },
    { w := 1 }, { handle := 1, op := 7, a := 1 }, { id := 1, state := .idle, aqn := 1 }, 1, by unfold OnlyOp State.Happens NoneSuspended; decide +kernel,
    by decide +kernel, by unfold Live; decide +kernel, by decide +kernel, by unfold Undisturbed; decide +kernel, 0x20000, by decide +kernel,
    by decide +kernel, by decide +kernel, by decide +kernel, by unfold ActionAt OwnTree; decide +kernel⟩
  · exact ⟨sop { handle := 1, op := 5, a := 1 } [{ id := 1, state := .idle }], { w := 1 }, { handle := 1, op := 5, a := 1 }, { id := 1, state := .idle }, 1,
    by unfold OnlyOp State.Happens NoneSuspended; decide +kernel, by decide +kernel, by unfold Live; decide +kernel, by decide +kernel, by decide +kernel,
    by decide +kernel, rfl⟩
  · exact ⟨{ sop { handle := 1, op := 5, a := 1 } [{ id := 1, state := .idle }] with mem := [(1, 0x80), (0x1000, 16)], cycle := 1 }, { w := 1 },
    { handle := 1, op := 5, a := 1 }, { id := 1, state := .idle }, 1, by unfold OnlyOp State.Happens NoneSuspended; decide +kernel, by decide +kernel,
    by unfold Live; decide +kernel, by decide +kernel, 16, 0, 256, 0, { id := 1, state := .arrived }, by decide +kernel, by decide +kernel, rfl,
    by decide +kernel⟩

theorem witness_PageMaps :
    (∃ (s : State) (x : EvArg) (op : EngOp) (u : StreamCtx) (slot page : Nat), OnlyOp s x op ∧ (op.op = 0xB) ∧ (op.a.extractLsb' 32 32 = u.id) ∧ Live s x.i
    slot u ∧ (page = op.a.toNat % 2 ^ 18) ∧ (u.state = .migrating)) ∧
    (∃ (s : State) (x : EvArg) (op : EngOp) (u : StreamCtx) (slot page : Nat), OnlyOp s x op ∧ (op.op = 0xB) ∧ (op.a.extractLsb' 32 32 = u.id) ∧ Live s x.i
    slot u ∧ (page = op.a.toNat % 2 ^ 18) ∧ (u.state ≠ .migrating) ∧ (s.poison = []) ∧ (s.rstores = []) ∧ (op.a.toNat / 2 ^ 30 % 4 = 1) ∧ (NotLive s x.i
    (op.b.extractLsb' 32 32))) ∧
    (∃ (s : State) (x : EvArg) (op : EngOp) (u : StreamCtx) (slot page : Nat), OnlyOp s x op ∧ (op.op = 0xB) ∧ (op.a.extractLsb' 32 32 = u.id) ∧ Live s x.i
    slot u ∧ (page = op.a.toNat % 2 ^ 18) ∧ (u.state ≠ .migrating) ∧ (s.poison = []) ∧ (s.rstores = []) ∧ (op.a.toNat / 2 ^ 30 % 4 = 3) ∧ (s.refCount
    (op.b.toNat / 2 ^ 16 % 2 ^ 24 * 2 ^ 16) = 0)) ∧
    (∃ (s : State) (x : EvArg) (op : EngOp) (u : StreamCtx) (slot page : Nat), OnlyOp s x op ∧ (op.op = 0xB) ∧ (op.a.extractLsb' 32 32 = u.id) ∧ Live s x.i
    slot u ∧ (page = op.a.toNat % 2 ^ 18) ∧ (u.state ≠ .migrating) ∧ (s.poison = []) ∧ (s.rstores = []) ∧ (op.a.toNat / 2 ^ 30 % 4 = 2) ∧ (s.refCount
    u.root ≤ 1) ∧ ((s.phys (rootAt u page)).getLsbD 0 = false)) ∧
    (∃ (s : State) (x : EvArg) (op : EngOp) (u : StreamCtx) (slot page : Nat), OnlyOp s x op ∧ (op.op = 0xB) ∧ (op.a.extractLsb' 32 32 = u.id) ∧ Live s x.i
    slot u ∧ (page = op.a.toNat % 2 ^ 18) ∧ (u.state ≠ .migrating) ∧ (s.poison = []) ∧ (s.rstores = []) ∧ OwnTree s u page ∧ ∃ p l, (l = leafAt s u page)
    ∧ (op.a.toNat / 2 ^ 30 % 4 = 2) ∧ ((s.phys l).getLsbD 0 = true) ∧ (p = pageFrame (s.phys l)) ∧ (p ∉ s.frozen) ∧ (2 ≤ s.refCount p) ∧ (s.refAddr p ≠ l)) ∧
    (∃ (s : State) (x : EvArg) (op : EngOp) (u : StreamCtx) (slot page : Nat), OnlyOp s x op ∧ (op.op = 0xB) ∧ (op.a.extractLsb' 32 32 = u.id) ∧ Live s x.i
    slot u ∧ (page = op.a.toNat % 2 ^ 18) ∧ (u.state ≠ .migrating) ∧ (s.poison = []) ∧ (s.rstores = []) ∧ OwnTree s u page ∧ ∃ p l, (l = leafAt s u page)
    ∧ (op.a.toNat / 2 ^ 30 % 4 = 0) ∧ (op.b.toNat % 2 ^ 20 = 0) ∧ ∃ s1 s2, (s.popFrame x.i true = some (p, s1)) ∧ (s2 = (s1.zeroFrame p 65536).setRef p 0
    1) ∧ (s2.phys (rootAt u page) = s.phys (rootAt u page)) ∧ ((s2.phys l).getLsbD 0 = false)) ∧
    (∃ (s : State) (x : EvArg) (op : EngOp) (u : StreamCtx) (slot page : Nat), OnlyOp s x op ∧ (op.op = 0xB) ∧ (op.a.extractLsb' 32 32 = u.id) ∧ Live s x.i
    slot u ∧ (page = op.a.toNat % 2 ^ 18) ∧ (u.state ≠ .migrating) ∧ (s.poison = []) ∧ (s.rstores = []) ∧ OwnTree s u page ∧ ∃ p l, (l = leafAt s u page)
    ∧ MapSource s x op p ∧ ((s.phys l).getLsbD 0 = false) ∧ (p ∉ s.frozen) ∧ (s.refCount p + 2 < 2 ^ 32) ∧ (s.refAddr p ≠ l) ∧ (s.refAddr p ≠ rootAt u
    page)) := by
  refine ⟨?_, ?_, ?_, ?_, ?_, ?_, ?_⟩
  · exact ⟨{ sop { handle := 1, op := 11, a := 0x100000000 } [{ id := 1, state := .migrating }] with regs := { refb := 1 } }, { w := 1 },
    { handle := 1, op := 11, a := 0x100000000 }, { id := 1, state := .migrating }, 1, 0, by unfold OnlyOp State.Happens NoneSuspended; decide +kernel,
    by decide +kernel, by decide +kernel, by unfold Live; decide +kernel, by decide +kernel⟩
  · exact ⟨{ sop { handle := 1, op := 11, a := 0x140000000, b := 0x200000000 } [{ id := 1, state := .idle }] with regs := { refb := 1 } }, { w := 1 },
    { handle := 1, op := 11, a := 0x140000000, b := 0x200000000 }, { id := 1, state := .idle }, 1, 0,
    by unfold OnlyOp State.Happens NoneSuspended; decide +kernel, by decide +kernel, by decide +kernel, by unfold Live; decide +kernel, by decide +kernel,
    by decide +kernel, by decide +kernel, by decide +kernel, by decide +kernel, notLive (by decide +kernel)⟩
  · exact ⟨{ sop { handle := 1, op := 11, a := 0x1c0000000 } [{ id := 1, state := .idle }] with regs := { refb := 1 } }, { w := 1 },
    { handle := 1, op := 11, a := 0x1c0000000 }, { id := 1, state := .idle }, 1, 0, by unfold OnlyOp State.Happens NoneSuspended; decide +kernel,
    by decide +kernel, by decide +kernel, by unfold Live; decide +kernel, by decide +kernel⟩
  · exact ⟨{ sop { handle := 1, op := 11, a := 0x180000000 } [{ id := 1, state := .idle }] with regs := { refb := 1 } }, { w := 1 },
    { handle := 1, op := 11, a := 0x180000000 }, { id := 1, state := .idle }, 1, 0, by unfold OnlyOp State.Happens NoneSuspended; decide +kernel,
    by decide +kernel, by decide +kernel, by unfold Live; decide +kernel, by decide +kernel⟩
  · exact ⟨{ sop { handle := 1, op := 11, a := 0x180000000 } [{ id := 1, state := .idle }] with mem := [(0, 1), (1, 0x10), (0x1000, 7), (0x1002, 2), (0x80000100, 2)], regs := { refb := 1 } },
    { w := 1 }, { handle := 1, op := 11, a := 0x180000000 }, { id := 1, state := .idle }, 1, 0,
    by unfold OnlyOp State.Happens NoneSuspended; decide +kernel, by decide +kernel, by decide +kernel, by unfold Live; decide +kernel, by decide +kernel,
    by decide +kernel, by decide +kernel, by decide +kernel, by unfold OwnTree; decide +kernel, 0x20000, 0x1000, by decide +kernel⟩
  · exact ⟨freshPage, { w := 1 }, { handle := 1, op := 11, a := 0x100000000 }, rooted, 1, 0, by unfold OnlyOp State.Happens NoneSuspended; decide +kernel,
    by decide +kernel, by decide +kernel, by unfold Live; decide +kernel, by decide +kernel, by decide +kernel, by decide +kernel, by decide +kernel,
    by unfold OwnTree; decide +kernel, popped2.1, 0x1000, by decide +kernel, by decide +kernel, by decide +kernel, popped2.2, _, popped2_eq, rfl,
    by decide +kernel⟩
  · exact ⟨{ sop { handle := 1, op := 11, a := 0x1c0000000, b := 0x30000 } [{ id := 1, state := .idle }] with mem := [(0, 1), (1, 0x10), (0x80000180, 1)], regs := { refb := 1 } },
    { w := 1 }, { handle := 1, op := 11, a := 0x1c0000000, b := 0x30000 }, { id := 1, state := .idle }, 1, 0,
    by unfold OnlyOp State.Happens NoneSuspended; decide +kernel, by decide +kernel, by decide +kernel, by unfold Live; decide +kernel, by decide +kernel,
    by decide +kernel, by decide +kernel, by decide +kernel, by unfold OwnTree; decide +kernel, 0x30000, 0x1000, by decide +kernel,
    Or.inr (by decide +kernel), by decide +kernel⟩

theorem witness_StreamsComeAndGo :
    (∃ (s : State) (x : EvArg) (op : EngOp) (u : StreamCtx) (slot k : Nat), OnlyOp s x op ∧ (op.op = 0x1) ∧ (op.a = u.id.setWidth 64) ∧ Live s x.i slot u ∧
    (u.state ≠ .migrating) ∧ FreeSlot s x.i k ∧ (s.poison = []) ∧ (s.rstores = []) ∧ (u.root ∉ s.frozen) ∧ (s.refCount u.root + 2 < 2 ^ 32) ∧ (s.refAddr
    u.root < windowBase)) ∧
    (∃ (s : State) (x : EvArg) (op : EngOp) (k root : Nat) (s' : State), OnlyOp s x op ∧ (op.op = 0x0) ∧ FreeSlot s x.i k ∧ (s.popFrame x.i false = some
    (root, s'))) ∧
    (∃ (s : State) (x : EvArg) (op : EngOp) (u : StreamCtx) (slot : Nat), OnlyOp s x op ∧ (op.op = 0x2) ∧ (op.a = u.id.setWidth 64) ∧ Live s x.i slot u ∧
    (u.state ≠ .migrating) ∧ (u.jg = 0) ∧ ((s.cluster x.i).jobsOn u.id = false) ∧ (s.poison = []) ∧ (s.rstores = []) ∧ (u.root ∉ s.frozen) ∧ (2 ≤
    s.refCount u.root) ∧ (s.refAddr u.root < windowBase)) := by
  refine ⟨?_, ?_, ?_⟩
  · exact ⟨sop { handle := 1, op := 1, a := 1 } [{ id := 1, state := .idle }], { w := 1 }, { handle := 1, op := 1, a := 1 }, { id := 1, state := .idle }, 1, 0,
    by unfold OnlyOp State.Happens NoneSuspended; decide +kernel, by decide +kernel, by decide +kernel, by unfold Live; decide +kernel, by decide +kernel,
    freeSlot (by decide +kernel) (by decide +kernel), by decide +kernel⟩
  · exact ⟨ringed, { w := 1 }, { handle := 1 }, 0, popped.1, popped.2, by unfold OnlyOp State.Happens NoneSuspended; decide +kernel, by decide +kernel,
    freeSlot (by decide +kernel) (by decide +kernel), popped_eq⟩
  · exact ⟨{ sop { handle := 1, op := 2, a := 1 } [{ id := 1, state := .idle }] with mem := [(0, 2)] }, { w := 1 }, { handle := 1, op := 2, a := 1 },
    { id := 1, state := .idle }, 1, by unfold OnlyOp State.Happens NoneSuspended; decide +kernel, by decide +kernel, by decide +kernel,
    by unfold Live; decide +kernel, by decide +kernel⟩

theorem witness_JoinGroups :
    (∃ (s : State) (x : EvArg) (op : EngOp) (d : Nat), OnlyOp s x op ∧ (op.op = 0x3) ∧ (d = op.b.toNat / 64 % 4) ∧ (op.b.toNat % 64 = 0) ∧ (∀ g, ¬ GroupAt
    s op.b g) ∧ ((s.die d).joinUp = true) ∧ ((s.die d).groups.length < 4096) ∧ (op.a.toNat / 2 ^ 28 = 0) ∧ (op.a.getLsbD 11 = false) ∧ (op.a.toNat / 2 ^
    12 % 2 ^ 16 ≠ 0) ∧ (op.a.toNat % 256 ≠ 0) ∧ (op.a.toNat / 2 ^ 8 % 4 ≠ 3)) ∧
    (∃ (s : State) (x : EvArg) (op : EngOp), OnlyOp s x op ∧ (op.op = 0x3) ∧ (op.b.toNat % 64 ≠ 0 ∨ op.a.toNat / 2 ^ 12 % 2 ^ 16 = 0 ∨ op.a.toNat % 256 = 0
    ∨ op.a.toNat / 2 ^ 8 % 4 = 3 ∨ op.a.getLsbD 11 = true ∨ (∃ g, GroupAt s op.b g))) ∧
    (∃ (s : State) (x : EvArg) (op : EngOp) (u : StreamCtx) (slot : Nat) (g : JoinGroup), OnlyOp s x op ∧ (op.op = 0x4) ∧ (op.a = u.id.setWidth 64) ∧ Live
    s x.i slot u ∧ (u.jg ≠ 0) ∧ GroupAt s u.jg g ∧ (g.returns.length + g.wdr ≠ g.policy.toNat / 2 ^ 12 % 2 ^ 16) ∧ (u.id ∉ g.returns.map (·.id)) ∧ (u.id ∉
    g.gone)) ∧
    (∃ (s : State) (x : EvArg) (op : EngOp) (u : StreamCtx) (slot : Nat) (g : JoinGroup), OnlyOp s x op ∧ (op.op = 0x4) ∧ (op.a = u.id.setWidth 64) ∧ Live
    s x.i slot u ∧ (u.jg ≠ 0) ∧ GroupAt s u.jg g ∧ (g.returns.length + g.wdr ≠ g.policy.toNat / 2 ^ 12 % 2 ^ 16) ∧ (u.id ∈ g.returns.map (·.id) ∨ u.id ∈
    g.gone)) ∧
    (∃ (s : State) (x : EvArg) (g : JoinGroup), s.Happens x ∧ GroupAt s x.w g ∧ (g.word = none) ∧ (s.boot.stackStop = []) ∧ (s.moves = []) ∧ (s.rstores =
    []) ∧ (g.returns.length + g.wdr = g.policy.toNat / 2 ^ 12 % 2 ^ 16) ∧ (g.policy.toNat / 2 ^ 8 % 4 = 0) ∧ ((g.returns.map (·.id)).Nodup)) ∧
    (∃ (s : State) (x : EvArg) (g : JoinGroup) (word : Word), s.Happens x ∧ GroupAt s x.w g ∧ (g.word = some word) ∧ (g.skims = []) ∧ (s.rstores = []) ∧
    NoneSuspended s) := by
  refine ⟨?_, ?_, ?_, ?_, ?_, ?_⟩
  · exact ⟨sop { handle := 1, op := 3, a := 0x1001, b := 0x40 }, { w := 1 }, { handle := 1, op := 3, a := 0x1001, b := 0x40 }, _,
    by unfold OnlyOp State.Happens NoneSuspended; decide +kernel, by decide +kernel, rfl, by decide +kernel,
    (by intro g h; cases (show (none : Option JoinGroup) = some g from h)), by decide +kernel⟩
  · exact ⟨sop { handle := 1, op := 3, a := 0x1001, b := 1 }, { w := 1 }, { handle := 1, op := 3, a := 0x1001, b := 1 },
    by unfold OnlyOp State.Happens NoneSuspended; decide +kernel, by decide +kernel, Or.inl (by decide +kernel)⟩
  · exact ⟨grouped { key := 0x40, policy := 0x1001 }, { w := 1 }, { handle := 1, op := 4, a := 1 }, { id := 1, state := .idle, jg := 0x40 }, 1,
    { key := 0x40, policy := 0x1001 }, by unfold OnlyOp State.Happens NoneSuspended; decide +kernel, by decide +kernel, by decide +kernel,
    by unfold Live; decide +kernel, by decide +kernel, by unfold GroupAt; decide +kernel, by decide +kernel⟩
  · exact ⟨grouped { key := 0x40, policy := 0x2001, returns := [{ id := 1 }] }, { w := 1 }, { handle := 1, op := 4, a := 1 },
    { id := 1, state := .idle, jg := 0x40 }, 1, { key := 0x40, policy := 0x2001, returns := [{ id := 1 }] },
    by unfold OnlyOp State.Happens NoneSuspended; decide +kernel, by decide +kernel, by decide +kernel, by unfold Live; decide +kernel, by decide +kernel,
    by unfold GroupAt; decide +kernel, by decide +kernel⟩
  · exact ⟨{ grouped { key := 0x40, policy := 0x1001, returns := [{ id := 1 }] } with arg := { w := 0x40 } }, { w := 0x40 },
    { key := 0x40, policy := 0x1001, returns := [{ id := 1 }] }, by unfold State.Happens; decide +kernel, by unfold GroupAt; decide +kernel,
    by decide +kernel⟩
  · exact ⟨{ grouped { key := 0x40, word := some 5 } with arg := { w := 0x40 } }, { w := 0x40 }, { key := 0x40, word := some 5 }, 5,
    by unfold State.Happens; decide +kernel, by unfold GroupAt; decide +kernel, by decide +kernel, by decide +kernel, by decide +kernel,
    by unfold NoneSuspended; decide +kernel⟩

theorem witness_WalksAndHerds :
    (∃ (s : State) (x : EvArg) (q : CowReq), s.Happens x ∧ (x.i < 16) ∧ (x.j = 0) ∧ ((s.cluster x.i).streams.cows = [q]) ∧ NotLive s x.i q.sid) ∧
    (∃ (s : State) (x : EvArg) (q : CowReq) (u : StreamCtx) (slot : Nat), s.Happens x ∧ (x.i < 16) ∧ (x.j = 0) ∧ ((s.cluster x.i).streams.cows = [q]) ∧
    ((s.cluster x.i).streams.queue = []) ∧ (q.sid = u.id) ∧ Live s x.i slot u ∧ (u.state ≠ .migrating) ∧ (s.poison = []) ∧ (s.rstores = []) ∧ (s.refCount
    u.root ≤ 1) ∧ (∀ a l, a = u.root + 8 * (q.off / 2 ^ 25 % 512) → l = leafFrame (s.phys a) + 8 * (q.off / 2 ^ 16 % 512) → ((s.phys a).getLsbD 0 = true →
    s.refCount (leafFrame (s.phys a)) ≤ 1 ∧ ((s.phys l).getLsbD 0 = true → s.refCount (pageFrame (s.phys l)) ≤ 1)))) ∧
    (∃ (s : State) (x : EvArg) (g : Group) (u : StreamCtx) (slot k yr : Nat), s.Happens x ∧ (x.i < 16) ∧ ((s.cluster x.i).streams.open_ = [g]) ∧ (g.first +
    4096 ≤ s.cycle) ∧ ((s.cluster x.i).drained = false) ∧ ((s.cluster x.i).streams.closure = []) ∧ ((s.cluster x.i).streams.herdq = []) ∧ (0 < (s.cluster
    x.i).freeRecs) ∧ ((s.cluster x.i).took.1 ≠ s.cycle) ∧ (g.members = [u.id]) ∧ ((s.cluster x.i).streams.ctxs = [(slot, u)]) ∧ Live s x.i slot u ∧
    (u.state = .arrived) ∧ (k < 4096) ∧ (aget (s.cluster x.i).streams.slots k = none) ∧ (∀ j < k, (aget (s.cluster x.i).streams.slots j).isSome = true) ∧
    (yr < 1024) ∧ (aget (s.cluster x.i).yard yr = none) ∧ (∀ j < yr, (aget (s.cluster x.i).yard j).isSome = true)) := by
  refine ⟨?_, ?_, ?_⟩
  · exact ⟨ev {} (fun c => { c with streams := { cows := [{ sid := 1 }] } }), {}, { sid := 1 }, by unfold State.Happens; decide +kernel, by decide +kernel,
    by decide +kernel, by decide +kernel, notLive (by decide +kernel)⟩
  · exact ⟨ev {} (fun c => { c with streams := { cows := [{ sid := 1 }], ctxs := [(1, { id := 1, state := .idle })] } }), {}, { sid := 1 },
    { id := 1, state := .idle }, 1, by unfold State.Happens; decide +kernel, by decide +kernel, by decide +kernel, by decide +kernel, by decide +kernel,
    by decide +kernel, by unfold Live; decide +kernel, by decide +kernel, by decide +kernel, by decide +kernel, by decide +kernel,
    fun a l ha _ h => absurd h (by subst ha; decide +kernel)⟩
  · exact ⟨{ ev {} (fun c => { c with streams := { open_ := [{ members := [1] }], ctxs := [(1, { id := 1, state := .arrived })] } }) with cycle := 4096 }, {},
    { members := [1] }, { id := 1, state := .arrived }, 1, 0, 0, by unfold State.Happens; decide +kernel,
    and6 (by decide +kernel)
      ⟨by decide +kernel, by decide +kernel, by decide +kernel, by decide +kernel, by unfold Live; decide +kernel, by decide +kernel⟩⟩

theorem witness_EventIssue :
    (∃ (o : Ops) (s : State) (c : Cur) (x y : Word) (n : Nat), (x = (s.ctx c.cx).readS o.a) ∧ (y = (s.ctx c.cx).readS o.b) ∧ (n = (aget s.posts c.cx).getD
    0) ∧ (s.Runs c [o.a, o.b]) ∧ (EventRoom s c (x.toNat / 2 ^ 8 % 16))) ∧
    (∃ (o : Ops) (s : State) (c : Cur) (x y : Word) (n : Nat), (x = (s.ctx c.cx).readS o.a) ∧ (y = (s.ctx c.cx).readS o.b) ∧ (n = (aget s.posts c.cx).getD
    0) ∧ (s.Runs c [o.a]) ∧ (EventRoom s c (x.toNat / 2 ^ 8 % 16))) ∧
    (∃ (o : Ops) (s : State) (c : Cur) (x y : Word) (n : Nat), (x = (s.ctx c.cx).readS o.a) ∧ (y = (s.ctx c.cx).readS o.b) ∧ (n = (aget s.posts c.cx).getD
    0) ∧ (s.Runs c [o.a, o.b]) ∧ (EventRoom s c (x.toNat / 2 ^ 60))) ∧
    (∃ (o : Ops) (s : State) (c : Cur) (x y : Word) (n : Nat), (x = (s.ctx c.cx).readS o.a) ∧ (y = (s.ctx c.cx).readS o.b) ∧ (n = (aget s.posts c.cx).getD
    0) ∧ (s.Runs c [o.a]) ∧ (EventRoom s c (x.toNat / 2 ^ 60))) := by
  refine ⟨?_, ?_, ?_, ?_⟩
  · exact ⟨{}, st, c0, _, _, _, rfl, rfl, rfl, by unfold State.Runs State.Issues Ctx.NoStep Ctx.Ready; decide +kernel, by unfold EventRoom; decide +kernel⟩
  · exact ⟨{}, st, c0, _, _, _, rfl, rfl, rfl, by unfold State.Runs State.Issues Ctx.NoStep Ctx.Ready; decide +kernel, by unfold EventRoom; decide +kernel⟩
  · exact ⟨{}, st, c0, _, _, _, rfl, rfl, rfl, by unfold State.Runs State.Issues Ctx.NoStep Ctx.Ready; decide +kernel, by unfold EventRoom; decide +kernel⟩
  · exact ⟨{}, st, c0, _, _, _, rfl, rfl, rfl, by unfold State.Runs State.Issues Ctx.NoStep Ctx.Ready; decide +kernel, by unfold EventRoom; decide +kernel⟩

theorem witness_EventAnswers :
    (∃ (s : State) (x : EvArg) (op : EngOp) (e : EventUnit), OnlyEventOp s x op ∧ (e = (s.cluster x.i).events) ∧ (op.op = 4) ∧ (aget e.pops (op.a.toNat %
    256) = none)) ∧
    (∃ (s : State) (x : EvArg) (op : EngOp) (e : EventUnit), OnlyEventOp s x op ∧ (e = (s.cluster x.i).events) ∧ (op.op = 4) ∧ ((aget e.pops (op.a.toNat %
    256)).isSome = true)) ∧
    (∃ (s : State) (x : EvArg) (op : EngOp) (e : EventUnit), OnlyEventOp s x op ∧ (e = (s.cluster x.i).events) ∧ (op.op = 5) ∧ (aget e.pops (op.a.toNat %
    256) = none)) ∧
    (∃ (s : State) (x : EvArg) (op : EngOp) (e : EventUnit), OnlyEventOp s x op ∧ (e = (s.cluster x.i).events) ∧ (op.op = 5) ∧ ((aget e.pops (op.a.toNat %
    256)).isSome = true) ∧ (e.unloads = [])) ∧
    (∃ (s : State) (x : EvArg) (op : EngOp) (e : EventUnit), OnlyEventOp s x op ∧ (e = (s.cluster x.i).events) ∧ (op.op = 3) ∧ (e.failed = false) ∧ (aget
    e.pops (op.a.toNat % 256) = none ∨ 2 ^ 32 - 256 ≤ op.b.toNat % 2 ^ 32)) ∧
    (∃ (s : State) (x : EvArg) (op : EngOp) (e : EventUnit), OnlyEventOp s x op ∧ (e = (s.cluster x.i).events) ∧ (op.op = 3) ∧ (e.failed = false) ∧ ((aget
    e.pops (op.a.toNat % 256)).isSome = true) ∧ (op.b.toNat % 2 ^ 32 < 2 ^ 32 - 256) ∧ (op.b.toNat % 2 ^ 32 < e.tick)) ∧
    (∃ (s : State) (x : EvArg) (op : EngOp) (e : EventUnit), OnlyEventOp s x op ∧ (e = (s.cluster x.i).events) ∧ (op.op = 3) ∧ (e.failed = false) ∧ ((aget
    e.pops (op.a.toNat % 256)).isSome = true) ∧ (op.b.toNat % 2 ^ 32 < 2 ^ 32 - 256) ∧ (e.tick ≤ op.b.toNat % 2 ^ 32)) ∧
    (∃ (s : State) (x : EvArg) (op : EngOp) (e : EventUnit), OnlyEventOp s x op ∧ (e = (s.cluster x.i).events) ∧ (op.op = 0) ∧ ((aget e.pops (op.a.toNat %
    256)).isSome = true ∨ (op.rights.cx < 8192 ∧ op.rights.cx / 512 ≠ x.i) ∨ e.failed = true)) ∧
    (∃ (s : State) (x : EvArg) (op : EngOp) (e : EventUnit) (u neu : Nat), OnlyEventOp s x op ∧ (op.op = 1) ∧ (e = (s.cluster x.i).events) ∧ (e.failed =
    false) ∧ (u = op.b.toNat % 2 ^ 32) ∧ (neu = op.a.toNat / 2 ^ 28 % 2 ^ 24) ∧ (∀ p, aget e.pops (op.a.toNat / 2 ^ 52 % 256) = some p → p.n ≤ neu)) ∧
    (∃ (s : State) (x : EvArg) (op : EngOp) (e : EventUnit) (u neu : Nat), OnlyEventOp s x op ∧ (op.op = 1) ∧ (e = (s.cluster x.i).events) ∧ (e.failed =
    false) ∧ (u = op.b.toNat % 2 ^ 32) ∧ (neu = op.a.toNat / 2 ^ 28 % 2 ^ 24) ∧ ∃ p q w, (aget e.pops (op.a.toNat / 2 ^ 52 % 256) = some p) ∧ (neu < p.n)
    ∧ (q = p.cb + neu / p.npc) ∧ (1 ≤ p.npc) ∧ (w = max u e.tick) ∧ (e.tick + 255 < u)) ∧
    (∃ (s : State) (x : EvArg) (op : EngOp) (e : EventUnit) (u neu : Nat), OnlyEventOp s x op ∧ (op.op = 1) ∧ (e = (s.cluster x.i).events) ∧ (e.failed =
    false) ∧ (u = op.b.toNat % 2 ^ 32) ∧ (neu = op.a.toNat / 2 ^ 28 % 2 ^ 24) ∧ ∃ p q w, (aget e.pops (op.a.toNat / 2 ^ 52 % 256) = some p) ∧ (neu < p.n)
    ∧ (q = p.cb + neu / p.npc) ∧ (1 ≤ p.npc) ∧ (w = max u e.tick) ∧ (u ≤ e.tick + 255) ∧ (e.spillOf q = []) ∧ ((e.queueOf q).length < 4096) ∧ ((e.keyOf
    w).1.toNat + 2 ^ 20 < 2 ^ 64)) := by
  refine ⟨?_, ?_, ?_, ?_, ?_, ?_, ?_, ?_, ?_, ?_, ?_⟩
  · exact ⟨eop { handle := 1, op := 4 }, { w := 1 }, { handle := 1, op := 4 }, _, by unfold OnlyEventOp State.Happens NoneSuspended; decide +kernel, rfl,
    by decide +kernel⟩
  · exact ⟨eop { handle := 1, op := 4 } onePop, { w := 1 }, { handle := 1, op := 4 }, _, by unfold OnlyEventOp State.Happens NoneSuspended; decide +kernel, rfl,
    by decide +kernel⟩
  · exact ⟨eop { handle := 1, op := 5 }, { w := 1 }, { handle := 1, op := 5 }, _, by unfold OnlyEventOp State.Happens NoneSuspended; decide +kernel, rfl,
    by decide +kernel⟩
  · exact ⟨eop { handle := 1, op := 5 } onePop, { w := 1 }, { handle := 1, op := 5 }, _, by unfold OnlyEventOp State.Happens NoneSuspended; decide +kernel, rfl,
    by decide +kernel⟩
  · exact ⟨eop { handle := 1, op := 3, b := 0xFFFFFF00 } onePop, { w := 1 }, { handle := 1, op := 3, b := 0xFFFFFF00 }, _,
    by unfold OnlyEventOp State.Happens NoneSuspended; decide +kernel, rfl, by decide +kernel⟩
  · exact ⟨eop { handle := 1, op := 3 } { onePop with tick := 1 }, { w := 1 }, { handle := 1, op := 3 }, _,
    by unfold OnlyEventOp State.Happens NoneSuspended; decide +kernel, rfl, by decide +kernel⟩
  · exact ⟨eop { handle := 1, op := 3 } onePop, { w := 1 }, { handle := 1, op := 3 }, _, by unfold OnlyEventOp State.Happens NoneSuspended; decide +kernel, rfl,
    by decide +kernel⟩
  · exact ⟨eop { handle := 1 } onePop, { w := 1 }, { handle := 1 }, _, by unfold OnlyEventOp State.Happens NoneSuspended; decide +kernel, rfl, by decide +kernel⟩
  · exact ⟨eop { handle := 1, op := 1 }, { w := 1 }, { handle := 1, op := 1 }, _, _, _, by unfold OnlyEventOp State.Happens NoneSuspended; decide +kernel,
    by decide +kernel, rfl, by decide +kernel, rfl, rfl, fun p h => nomatch (show (none : Option Pop) = some p from h)⟩
  · exact ⟨eop { handle := 1, op := 1, b := 256 } onePop, { w := 1 }, { handle := 1, op := 1, b := 256 }, _, _, _,
    by unfold OnlyEventOp State.Happens NoneSuspended; decide +kernel, by decide +kernel, rfl, by decide +kernel, rfl, rfl, pop1, _, _, by decide +kernel,
    by decide +kernel, rfl, by decide +kernel, rfl, by decide +kernel⟩
  · exact ⟨eop { handle := 1, op := 1, b := 255 } onePop, { w := 1 }, { handle := 1, op := 1, b := 255 }, _, _, _,
    by unfold OnlyEventOp State.Happens NoneSuspended; decide +kernel, by decide +kernel, rfl, by decide +kernel, rfl, rfl, pop1, _, _, by decide +kernel,
    by decide +kernel, rfl, by decide +kernel, rfl, by decide +kernel⟩

theorem witness_Integration :
    (∃ (s : State) (x : EvArg) (e : EventUnit) (ev : Ev) (rest : List Ev) (p : Pop) (k tl : Nat) (v : Int) (touch : Bool), s.Happens x ∧ (x.i < 16) ∧ (e =
    (s.cluster x.i).events) ∧ (e.queueOf x.j = ev :: rest) ∧ (ev.tick = e.tick) ∧ (e.tick < 2 ^ 32) ∧ (e.runs.any (fun r => e.tick ≤ r.till) = true) ∧
    (e.unloads.any (·.began) = false) ∧ (s.ldfes = []) ∧ (e.failed = false) ∧ (aget e.pops (ev.pop % 256) = some p) ∧ (1 ≤ p.npc) ∧ (p.npc ≤ 16384) ∧
    (p.cb + ev.neu / p.npc < 64) ∧ (128 * (p.ob + p.npc) ≤ 2 ^ 21) ∧ (s.poison = []) ∧ (k = neuronKey p x.i ev.neu) ∧ (touch = (s.phys (k + 8)).getLsbD
    32) ∧ (tl = (s.phys (k + 8)).toNat % 2 ^ 32) ∧ (v = (if touch ∨ p.lk = 0 then recV (s.phys k) else Nat.repeat (fun u : Int => u - u / 2 ^ p.lk)
    (e.tick - tl) (recV (s.phys k))))) ∧
    (∃ (s : State) (x : EvArg), s.Happens x ∧ (x.i < 16) ∧ ((s.cluster x.i).events.runs.any (fun r => (s.cluster x.i).events.tick ≤ r.till) = false)) := by
  refine ⟨?_, ?_⟩
  · exact ⟨ev {} (fun c => { c with events := { onePop with queues := [(0, [{}])], runs := [{}] } }), {}, _, {}, [], pop1, _, _, _, _,
    by unfold State.Happens; decide +kernel, by decide +kernel, rfl,
    and6 (by decide +kernel)
      (and6 (by decide +kernel)
      ⟨by decide +kernel, rfl, rfl, rfl, rfl⟩)⟩
  · exact ⟨ev, {}, by unfold State.Happens; decide +kernel, by decide +kernel⟩

theorem witness_Ticks :
    (∃ (s : State) (x : EvArg) (e : EventUnit) (r : Run) (sp : Nat × Pop), s.Happens x ∧ (x.i < 16) ∧ (e = (s.cluster x.i).events) ∧ (e.pops = [sp]) ∧
    (e.failed = false) ∧ (e.runs = [r]) ∧ (r.dead = false) ∧ (e.tick ≤ r.till) ∧ (e.unloads = []) ∧ ((e.keyOf e.tick).1 = (e.keyOf e.tick).2) ∧
    (e.spillWait = []) ∧ (s.rstores = []) ∧ NoneSuspended s ∧ (∀ j < sp.2.n, (s.neuron sp.2 x.i j).touch = false) ∧ ∃ r' : Run, (r' = { r with sat := r.sat || e.sat, den := r.den || e.den, late := r.late || e.late })) ∧
    (∃ (s : State) (x : EvArg) (e : EventUnit) (r : Run) (slot k off : Nat) (p : Pop), s.Happens x ∧ (x.i < 16) ∧ (e = (s.cluster x.i).events) ∧ (e.pops =
    [(slot, p)]) ∧ (e.failed = false) ∧ (e.runs = [r]) ∧ (r.dead = false) ∧ (e.tick < r.till) ∧ (e.unloads = []) ∧ ((e.keyOf e.tick).1 = (e.keyOf
    e.tick).2) ∧ (e.spillWait = []) ∧ (s.poison = []) ∧ (s.rstores = []) ∧ (s.ldfes = []) ∧ (p.n = 1) ∧ (1 ≤ p.npc) ∧ (p.cb < 64) ∧ (128 * (p.ob + p.npc)
    ≤ 2 ^ 21) ∧ (p.flb = 0) ∧ (k = neuronKey p x.i 0) ∧ ((s.phys (k + 8)).getLsbD 32 = true) ∧ (recTheta (s.phys k) ≤ recV (s.phys k)) ∧ (p.fox.getLsbD 63
    = true) ∧ (winOf p.fox = 1) ∧ (InWindows s 0 p.fox 64) ∧ (∀ i < 64, (coreAt (p.fox + BitVec.ofNat 64 i)).toNat / 64 = x.i) ∧ (ReadsAs s p.fox 64 (off
    * 2 ^ 32 + off))) := by
  refine ⟨?_, ?_⟩
  · exact ⟨ev {} (fun c => { c with events := { onePop with keys := [(0, (0, 0))], runs := [{}] } }), {}, _, {}, (0, pop1),
    by unfold State.Happens; decide +kernel, by decide +kernel, rfl,
    and6 (by decide +kernel)
      ⟨by decide +kernel, by decide +kernel, by decide +kernel, by unfold NoneSuspended; decide +kernel, by decide +kernel, _, rfl⟩⟩
  · exact ⟨{ ev {} (fun c => { c with events := { pops := [(0, pop2)], keys := [(0, (0, 0))], runs := [{ till := 1 }] } }) with mem := [(windowBase + 2 ^ 19 + 2 ^ 18 + 12, 1)] },
    {}, _, { till := 1 }, 0, _, 0, pop2, by unfold State.Happens; decide +kernel, by decide +kernel, rfl,
    and6 (by decide +kernel)
      (and6 (by decide +kernel)
      ⟨by decide +kernel, by decide +kernel, by decide +kernel, by decide +kernel, rfl, by decide +kernel, by decide +kernel, by decide +kernel, by decide +kernel, by unfold InWindows InRange; decide +kernel, by decide +kernel, by unfold ReadsAs; decide +kernel⟩)⟩

theorem witness_CellarAndStall :
    (∃ (s : State) (x : EvArg) (e : EventUnit) (ev : Ev) (rest : List Ev) (desc key : Nat), s.Happens x ∧ (x.i < 16) ∧ (e = (s.cluster x.i).events) ∧
    (e.spillOf x.j = ev :: rest) ∧ ((e.queueOf x.j).length < 4096) ∧ (e.failed = false) ∧ (desc = (s.cluster x.i).celb.toNat * 2 ^ 12 + 32 * (1 + x.j)) ∧
    (ev.place = (s.phys (desc + 16)).toNat % 2 ^ 32) ∧ (∀ r ∈ rest, r.place ≠ ev.place) ∧ (RingAt s (s.ringAddr desc ev.place 32) 4 key)) ∧
    (∃ (s : State) (x : EvArg) (e : EventUnit) (slot q since : Nat) (p : Pop), s.Happens x ∧ (x.i < 16) ∧ (e = (s.cluster x.i).events) ∧ (e.pops = [(slot,
    p)]) ∧ (slot < 256) ∧ (e.stalled = false) ∧ (e.spillWait = [(q, since)]) ∧ (max since e.last + 2 ^ 20 ≤ s.cycle)) := by
  refine ⟨?_, ?_⟩
  · exact ⟨mapped (fun c => { c with events := { spilled := [(0, [{}])] }, celb := 4 }), {}, _, {}, [], 0x4020, 0x10000, by unfold State.Happens; decide +kernel,
    by decide +kernel, rfl,
    and6 (by decide +kernel)
      (ringAt (leaf := 0x1FD) (level := 0) (place := 0x3000) (by unfold Undisturbed; decide +kernel) (by decide +kernel) (by decide +kernel))⟩
  · exact ⟨{ ev {} (fun c => { c with events := { onePop with spillWait := [(63, 0)] } }) with cycle := 2 ^ 20 }, {}, _, 0, 63, 0, pop1,
    by unfold State.Happens; decide +kernel, by decide +kernel, rfl, by decide +kernel⟩

theorem witness_MasonInstructions :
    (∃ (o : Ops) (s : State) (c : Cur) (y : Word), (s.Runs c [o.a, o.b]) ∧ (c.cx < 8192) ∧ ((s.ctx c.cx).rcount = 0) ∧ ((s.cluster (c.cx /
    512)).mason.queue.length < 16) ∧ ((s.cluster (c.cx / 512)).locks.length ≤ 256) ∧ (y = (s.ctx c.cx).readS o.b)) ∧
    (∃ (o : Ops) (s : State) (c : Cur) (a b : Word), (s.Runs c [o.a, o.b]) ∧ (c.cx < 8192) ∧ ((s.ctx c.cx).rcount = 0) ∧ ((s.cluster (c.cx /
    512)).mason.queue.length < 16) ∧ (a = (s.ctx c.cx).readS o.a) ∧ (b = (s.ctx c.cx).readS o.b) ∧ (a.getLsbD 63 = true ∨ a.toNat % 64 ≠ 0)) ∧
    (∃ (o : Ops) (s : State) (c : Cur) (a b : Word), (s.Runs c [o.a, o.b]) ∧ (c.cx < 8192) ∧ ((s.ctx c.cx).rcount = 0) ∧ ((s.cluster (c.cx /
    512)).mason.queue.length < 16) ∧ (a = (s.ctx c.cx).readS o.a) ∧ (b = (s.ctx c.cx).readS o.b) ∧ (a.getLsbD 63 = false) ∧ (a.toNat % 64 = 0) ∧ ∃ s' seen
    r, ∃ (j : Job), ∃ m u slot, (s.engRead (engineAgent (s.rightsOf c.cx)) 8 [] a 512 = (s', seen, r)) ∧ (r.hold = false) ∧ (r.fault = none) ∧ (r.poison =
    false) ∧ (j = { rights := s.rightsOf c.cx, first := b.toNat % 2 ^ 11, res := b.getLsbD 16, den := r.den, map := m, params := (List.range 8).map (fun i => BitVec.ofNat 64 (s'.engVal (engineAgent (s.rightsOf c.cx)) r.parts / 2 ^ (64 * i))) })
    ∧ (MapNamed s' (c.cx / 512) (s.ctx c.cx).uid ((j.word 5).toNat / 2 ^ 58) m) ∧ (Live s' (c.cx / 512) slot u) ∧ (u.id = j.stream) ∧ (s'.ctxs = s.ctxs) ∧
    (s'.clusters = s.clusters) ∧ (j.valid s' (c.cx / 512) = true) ∧ ∃ locks, (locks = (if (j.word 1).toNat / 2 ^ 62 = 0 then [s'.lockEntry false (j.word
    1) (j.rows * j.dim * j.width)] else [])) ∧ ((s.cluster (c.cx / 512)).lockFree locks = true)) ∧
    (∃ (o : Ops) (s : State) (c : Cur) (h : Word) (m : Mason), (s.Runs c [o.a]) ∧ (c.cx < 8192) ∧ ((s.ctx c.cx).rcount = 0) ∧ (h = (s.ctx c.cx).readS o.a)
    ∧ (m = (s.cluster (c.cx / 512)).mason) ∧ (h = 0) ∧ (m.queue.length < 2 ^ 16)) ∧
    (∃ (o : Ops) (s : State) (c : Cur) (h : Word) (m : Mason), (s.Runs c [o.a]) ∧ (c.cx < 8192) ∧ ((s.ctx c.cx).rcount = 0) ∧ (h = (s.ctx c.cx).readS o.a)
    ∧ (m = (s.cluster (c.cx / 512)).mason) ∧ (h ≠ 0) ∧ (m.run = none) ∧ (∀ j ∈ m.queue, j.handle ≠ h)) ∧
    (∃ (o : Ops) (s : State) (c : Cur) (h : Word) (m : Mason), (s.Runs c [o.a]) ∧ (c.cx < 8192) ∧ ((s.ctx c.cx).rcount = 0) ∧ (h = (s.ctx c.cx).readS o.a)
    ∧ (m = (s.cluster (c.cx / 512)).mason) ∧ ∃ j, (m.queue.find? (fun q => q.handle == h) = some j) ∧ (m.run = none) ∧ (h ≠ 0) ∧ (j.first < 2048)) ∧
    (∃ (o : Ops) (s : State) (c : Cur) (h : Word) (m : Mason), (s.Runs c [o.a]) ∧ (c.cx < 8192) ∧ ((s.ctx c.cx).rcount = 0) ∧ (h = (s.ctx c.cx).readS o.a)
    ∧ (m = (s.cluster (c.cx / 512)).mason) ∧ ∃ r, (m.run = some r) ∧ (r.job.handle = h) ∧ (h ≠ 0) ∧ (0 ≤ r.upc) ∧ (r.upc < 2048) ∧ (r.pgs < 2 ^ 32)) ∧
    (∃ (o : Ops) (s : State) (c : Cur) (h : Word) (m : Mason), (s.Runs c [o.a]) ∧ (c.cx < 8192) ∧ ((s.ctx c.cx).rcount = 0) ∧ (h = (s.ctx c.cx).readS o.a)
    ∧ (m = (s.cluster (c.cx / 512)).mason) ∧ ∃ j, (m.queue = [j]) ∧ (j.handle = h) ∧ (j.load = false) ∧ (j.rights.ident ≠ (s.ctx c.cx).csrs.ident)) ∧
    (∃ (o : Ops) (s : State) (c : Cur) (h : Word) (m : Mason), (s.Runs c [o.a]) ∧ (c.cx < 8192) ∧ ((s.ctx c.cx).rcount = 0) ∧ (h = (s.ctx c.cx).readS o.a)
    ∧ (m = (s.cluster (c.cx / 512)).mason) ∧ ∃ j, (m.queue = [j]) ∧ (j.handle = h) ∧ (j.load = false) ∧ (j.rights.ident = (s.ctx c.cx).csrs.ident) ∧ (o.d
    ≠ 0) ∧ (((s.ctx c.cx).sreg o.d).full = true)) ∧
    (∃ (o : Ops) (s : State) (c : Cur) (h : Word) (m : Mason), (s.Runs c [o.a]) ∧ (c.cx < 8192) ∧ ((s.ctx c.cx).rcount = 0) ∧ (h = (s.ctx c.cx).readS o.a)
    ∧ (m = (s.cluster (c.cx / 512)).mason) ∧ ∃ r, (m.queue = []) ∧ (m.run = some r) ∧ (r.job.handle = h) ∧ (r.job.load = false) ∧ (r.job.rights.ident =
    (s.ctx c.cx).csrs.ident) ∧ ((s.cluster (c.cx / 512)).locks.length ≤ 256)) := by
  refine ⟨?_, ?_, ?_, ?_, ?_, ?_, ?_, ?_, ?_, ?_⟩
  · exact ⟨{}, st, c0, _, by unfold State.Runs State.Issues Ctx.NoStep Ctx.Ready; decide +kernel, by decide +kernel, by decide +kernel, by decide +kernel,
    by decide +kernel, rfl⟩
  · exact ⟨{ a := 1 }, st (rg [(1, 63)]), c0, _, _, by unfold State.Runs State.Issues Ctx.NoStep Ctx.Ready; decide +kernel, by decide +kernel, by decide +kernel,
    by decide +kernel, rfl, rfl, by decide +kernel⟩
  · exact ⟨{ a := 1 }, recorded, c0, _, _, by unfold State.Runs State.Issues Ctx.NoStep Ctx.Ready; decide +kernel, by decide +kernel, by decide +kernel,
    by decide +kernel, rfl, rfl, by decide +kernel, by decide +kernel, recordRead.1, recordRead.2.1, recordRead.2.2, _, {}, { id := 1, state := .idle }, 1,
    recordRead_eq, by decide +kernel, by decide +kernel, by decide +kernel, rfl, by unfold MapNamed; decide +kernel, by unfold Live; decide +kernel,
    by decide +kernel, by decide +kernel, by decide +kernel, by decide +kernel, _, rfl, by decide +kernel⟩
  · exact ⟨{}, st, c0, _, _, by unfold State.Runs State.Issues Ctx.NoStep Ctx.Ready; decide +kernel, by decide +kernel, by decide +kernel, rfl, rfl, rfl,
    by decide +kernel⟩
  · exact ⟨{ a := 1 }, st (rg [(1, 5)]), c0, _, _, by unfold State.Runs State.Issues Ctx.NoStep Ctx.Ready; decide +kernel, by decide +kernel, by decide +kernel,
    rfl, rfl, by decide +kernel⟩
  · exact ⟨{ a := 1 }, st (rg [(1, 5)]) (fun c => { c with mason := { queue := [{ handle := 5 }] } }), c0, _, _,
    by unfold State.Runs State.Issues Ctx.NoStep Ctx.Ready; decide +kernel, by decide +kernel, by decide +kernel, rfl, rfl, { handle := 5 },
    by decide +kernel⟩
  · exact ⟨{ a := 1 }, st (rg [(1, 5)]) (fun c => { c with mason := { run := some { job := { handle := 5 }, upc := 2047 } } }), c0, _, _,
    by unfold State.Runs State.Issues Ctx.NoStep Ctx.Ready; decide +kernel, by decide +kernel, by decide +kernel, rfl, rfl,
    { job := { handle := 5 }, upc := 2047 }, by decide +kernel⟩
  · exact ⟨{ a := 1 }, st (rg [(1, 5)]) (fun c => { c with mason := { queue := [{ handle := 5, rights := { ident := 1 } }] } }), c0, _, _,
    by unfold State.Runs State.Issues Ctx.NoStep Ctx.Ready; decide +kernel, by decide +kernel, by decide +kernel, rfl, rfl,
    { handle := 5, rights := { ident := 1 } }, by decide +kernel⟩
  · exact ⟨{ a := 1, d := 2 }, st (rg [(1, 5)]) (fun c => { c with mason := { queue := [{ handle := 5 }] } }), c0, _, _,
    by unfold State.Runs State.Issues Ctx.NoStep Ctx.Ready; decide +kernel, by decide +kernel, by decide +kernel, rfl, rfl, { handle := 5 },
    by decide +kernel⟩
  · exact ⟨{ a := 1 }, st (rg [(1, 5)]) (fun c => { c with mason := { run := some { job := { handle := 5 } } } }), c0, _, _,
    by unfold State.Runs State.Issues Ctx.NoStep Ctx.Ready; decide +kernel, by decide +kernel, by decide +kernel, rfl, rfl, { job := { handle := 5 } },
    by decide +kernel⟩

theorem witness_JobsStart :
    (∃ (s : State) (x : EvArg) (j : Job) (rest : List Job), s.Happens x ∧ (x.i < 16) ∧ ((s.cluster x.i).mason.queue = j :: rest) ∧ (∀ q ∈ j :: rest, q.stop
    = false ∧ q.cancel = false) ∧ ((s.cluster x.i).mason.run = none) ∧ (j.load = false)) ∧
    (∃ (s : State) (x : EvArg) (j : Job), s.Happens x ∧ (x.i < 16) ∧ ((s.cluster x.i).mason.queue = [j]) ∧ (j.stop = false) ∧ (j.cancel = false) ∧
    ((s.cluster x.i).mason.run = none) ∧ (j.load = true) ∧ NoneSuspended s ∧ (j.rights.cx < 8192) ∧ (j.rights.cx / 512 = x.i) ∧ (j.count = 0)) ∧
    (∃ (s : State) (x : EvArg) (j : Job), s.Happens x ∧ (x.i < 16) ∧ ((s.cluster x.i).mason.queue = [j]) ∧ (j.stop = false) ∧ (j.cancel = false) ∧
    ((s.cluster x.i).mason.run = none) ∧ (j.load = true) ∧ NoneSuspended s ∧ (j.rights.cx < 8192) ∧ (j.rights.cx / 512 = x.i) ∧ (0 < j.count) ∧ (j.first +
    j.count ≤ 2048) ∧ (j.src.toNat % 64 = 0) ∧ (j.src.getLsbD 63 = true) ∧ (winOf j.src = 1 ∨ winOf j.src = 2) ∧ (InWindows s j.rights.cx j.src (64 *
    j.count)) ∧ (∀ i < 64 * j.count, (coreAt (j.src + BitVec.ofNat 64 i)).toNat / 64 = x.i ∧ winOf (j.src + BitVec.ofNat 64 i) = winOf j.src) ∧ (s.poison
    = []) ∧ (s.rstores = [])) := by
  refine ⟨?_, ?_, ?_⟩
  · exact ⟨ev {} (fun c => { c with mason := { queue := [{}] } }), {}, {}, [], by unfold State.Happens; decide +kernel, by decide +kernel⟩
  · exact ⟨ev {} (fun c => { c with mason := { queue := [{ load := true }] } }), {}, { load := true }, by unfold State.Happens; decide +kernel,
    and6 (by decide +kernel)
      ⟨by unfold NoneSuspended; decide +kernel, by decide +kernel⟩⟩
  · exact ⟨ev {} (fun c => { c with mason := { queue := [loaded] } }), {}, loaded, by unfold State.Happens; decide +kernel,
    and6 (by decide +kernel)
      ⟨by unfold NoneSuspended; decide +kernel, and6 (by decide +kernel)
      ⟨by decide +kernel, by unfold InWindows InRange; decide +kernel, by decide +kernel⟩⟩⟩

theorem witness_MicroControl :
    (∃ (m : Micro) (s : State) (cl : Nat) (r : JobRun), MasonRuns s cl r ∧ (m.z = 0)) ∧
    (∃ (m : Micro) (s : State) (cl : Nat) (r : JobRun), MasonRuns s cl r ∧ (m.z ≠ 0) ∧ (m.imm.toNat < 8)) ∧
    (∃ (m : Micro) (s : State) (cl : Nat) (r : JobRun), MasonRuns s cl r) ∧
    (∃ (m : Micro) (s : State) (cl : Nat) (r : JobRun), MasonRuns s cl r ∧ ∃ v, (v = greg r m.x - 1)) ∧
    (∃ (m : Micro) (s : State) (cl : Nat) (r : JobRun), MasonRuns s cl r ∧ ∃ cond : Bool, ((m.y, cond) ∈ [(0, true), (1, decide (greg r m.x = 0)), (2,
    decide (greg r m.x ≠ 0)), (3, (greg r m.x).getLsbD 63)])) ∧
    (∃ (m : Micro) (s : State) (cl : Nat) (r : JobRun), MasonRuns s cl r ∧ (m.imm = 0) ∧ (s.rstores = [])) ∧
    (∃ (m : Micro) (s : State) (cl : Nat) (r : JobRun), MasonRuns s cl r ∧ (m.imm ≠ 0) ∧ ∃ a, (a = greg r m.y) ∧ InRange s a ∧ (pkgAt s a = s.sys.self) ∧
    ((coreAt a).toNat / 64 = cl) ∧ (winOf a ≤ 2) ∧ (s.granFull (granuleAt a) = true)) ∧
    (∃ (m : Micro) (s : State) (cl : Nat) (r : JobRun), MasonRuns s cl r ∧ (m.imm ≠ 0) ∧ ∃ a, (a = greg r m.y) ∧ InRange s a ∧ (pkgAt s a = s.sys.self) ∧
    ((coreAt a).toNat / 64 = cl) ∧ (winOf a ≤ 2) ∧ (s.granFull (granuleAt a) = false)) ∧
    (∃ (s : State) (cl : Nat) (r : JobRun), MasonRuns s cl r ∧ (s.rstores = []) ∧ (r.stops = []) ∧ NoneSuspended s ∧ (r.job.rights.cx < 8192) ∧
    (r.job.rights.cx / 512 = cl)) := by
  refine ⟨?_, ?_, ?_, ?_, ?_, ?_, ?_, ?_, ?_⟩
  · exact ⟨{}, masonRuns {}, 0, {}, by unfold MasonRuns MasonTurns; decide +kernel, by decide +kernel⟩
  · exact ⟨{ z := 1, imm := 7 }, masonRuns {}, 0, {}, by unfold MasonRuns MasonTurns; decide +kernel, by decide +kernel⟩
  · exact ⟨{}, masonRuns {}, 0, {}, by unfold MasonRuns MasonTurns; decide +kernel⟩
  · exact ⟨{}, masonRuns {}, 0, {}, by unfold MasonRuns MasonTurns; decide +kernel, _, rfl⟩
  · exact ⟨{}, masonRuns {}, 0, {}, by unfold MasonRuns MasonTurns; decide +kernel, true, by decide +kernel⟩
  · exact ⟨{}, masonRuns {}, 0, {}, by unfold MasonRuns MasonTurns; decide +kernel, by decide +kernel⟩
  · exact ⟨{ y := 1, imm := 1 }, masonRuns named1, 0, named1, by unfold MasonRuns MasonTurns; decide +kernel, by decide +kernel, _, rfl,
    by unfold InRange; decide +kernel, by decide +kernel⟩
  · exact ⟨{ y := 1, imm := 1 }, { masonRuns named1 with mem := [(feBase, 0xFE)] }, 0, named1, by unfold MasonRuns MasonTurns; decide +kernel, by decide +kernel,
    _, rfl, by unfold InRange; decide +kernel, by decide +kernel⟩
  · exact ⟨masonRuns {}, 0, {}, by unfold MasonRuns MasonTurns; decide +kernel, by decide +kernel, by decide +kernel, by unfold NoneSuspended; decide +kernel,
    by decide +kernel⟩

theorem witness_MicroPages :
    (∃ i ∈ ([.mqk, .mmask, .mmax, .mexp, .msum, .mscl, .mpv] : List Instr), ∃ (s : State) (cl : Nat) (r : JobRun), MasonRuns s cl r ∧ (r.isOpen = false)) ∧
    (∃ (m : Micro) (s : State) (cl : Nat) (r : JobRun), MasonRuns s cl r ∧ (r.job.pages ≤ r.p)) ∧
    (∃ (s : State) (cl : Nat) (r : JobRun), MasonRuns s cl r ∧ (r.job.cka = 0) ∧ (r.isOpen = true)) ∧
    (∃ (s : State) (cl : Nat) (r : JobRun), MasonRuns s cl r ∧ (r.job.cka = 0) ∧ (r.isOpen = false)) ∧
    (∃ (m : Micro) (s : State) (cl slot : Nat) (r : JobRun) (u : StreamCtx) (k v : TlbEntry), MasonRuns s cl r ∧ (r.p < r.job.pages) ∧ Live s cl slot u ∧
    (r.job.stream = u.id) ∧ (u.state ≠ .migrating) ∧ (s.walkStream cl u.id (0x4000000000000000 + BitVec.ofNat 64 (r.keyPage * 2 ^ 19)) .load = .found k) ∧
    (s.walkStream cl u.id (0x4000000000000000 + BitVec.ofNat 64 (r.valPage * 2 ^ 19)) .load = .found v) ∧ (k.frame < s.memTop) ∧ (v.frame < s.memTop) ∧
    (k.tag = 0) ∧ (v.tag = 0)) := by
  refine ⟨?_, ?_, ?_, ?_, ?_⟩
  · exact ⟨_, List.Mem.head _, masonRuns {}, 0, {}, by unfold MasonRuns MasonTurns; decide +kernel, by decide +kernel⟩
  · exact ⟨{}, masonRuns {}, 0, {}, by unfold MasonRuns MasonTurns; decide +kernel, by decide +kernel⟩
  · exact ⟨masonRuns { isOpen := true }, 0, { isOpen := true }, by unfold MasonRuns MasonTurns; decide +kernel, by decide +kernel⟩
  · exact ⟨masonRuns {}, 0, {}, by unfold MasonRuns MasonTurns; decide +kernel, by decide +kernel⟩
  · exact ⟨{}, treed, 0, 1, paged, { id := 1, state := .idle }, leaf0, leaf0, by unfold MasonRuns MasonTurns; decide +kernel, by decide +kernel,
    by unfold Live; decide +kernel, by decide +kernel⟩

theorem witness_MicroFold :
    (∃ (s : State) (cl q n : Nat) (r : JobRun) (x : RowState) (sc ob : Nat → Nat), MasonRuns s cl r ∧ OneRow s cl r x ∧ (q = rowCore cl r.job) ∧ (n =
    r.job.pageTokens) ∧ (sc = (fun k => codeAt s q (r.job.scoreAt 0 + 32 * k))) ∧ (ob = (fun k => codeAt s q (r.job.bufAt r.buf 0 + 32 * k))) ∧ (r.isOpen
    = true)) ∧
    (∃ (s : State) (cl q n : Nat) (r : JobRun) (x : RowState) (sc ob : Nat → Nat), MasonRuns s cl r ∧ OneRow s cl r x ∧ (q = rowCore cl r.job) ∧ (n =
    r.job.pageTokens) ∧ (sc = (fun k => codeAt s q (r.job.scoreAt 0 + 32 * k))) ∧ (ob = (fun k => codeAt s q (r.job.bufAt r.buf 0 + 32 * k))) ∧ (r.isOpen
    = true) ∧ (∀ k < n, sc k = 0xFF800000)) ∧
    (∃ (s : State) (cl q n : Nat) (r : JobRun) (x : RowState) (sc ob : Nat → Nat), MasonRuns s cl r ∧ OneRow s cl r x ∧ (q = rowCore cl r.job) ∧ (n =
    r.job.pageTokens) ∧ (sc = (fun k => codeAt s q (r.job.scoreAt 0 + 32 * k))) ∧ (ob = (fun k => codeAt s q (r.job.bufAt r.buf 0 + 32 * k))) ∧ (r.isOpen
    = true) ∧ (∃ k < n, sc k ≠ 0xFF800000) ∧ ∃ top, (top = mul32 r.job.scale (((List.range n).map sc).foldl max32 0xFF800000))) ∧
    (∃ (s : State) (cl q n : Nat) (r : JobRun) (x : RowState) (sc ob : Nat → Nat), MasonRuns s cl r ∧ OneRow s cl r x ∧ (q = rowCore cl r.job) ∧ (n =
    r.job.pageTokens) ∧ (sc = (fun k => codeAt s q (r.job.scoreAt 0 + 32 * k))) ∧ (ob = (fun k => codeAt s q (r.job.bufAt r.buf 0 + 32 * k))) ∧ (r.isOpen
    = true) ∧ ∃ z, (z = give32 (Fv.sum .rne ((List.range n).map (fun k => rd32 (sc k)))))) ∧
    (∃ (s : State) (cl q n : Nat) (r : JobRun) (x : RowState) (sc ob : Nat → Nat), MasonRuns s cl r ∧ OneRow s cl r x ∧ (q = rowCore cl r.job) ∧ (n =
    r.job.pageTokens) ∧ (sc = (fun k => codeAt s q (r.job.scoreAt 0 + 32 * k))) ∧ (ob = (fun k => codeAt s q (r.job.bufAt r.buf 0 + 32 * k))) ∧ (r.isOpen
    = true) ∧ ∃ a, (a = (exp2 false false (sub32 x.m.toNat x.m'.toNat).1).1)) ∧
    (∃ (s : State) (cl q n : Nat) (r : JobRun) (x : RowState) (sc ob : Nat → Nat), MasonRuns s cl r ∧ OneRow s cl r x ∧ (q = rowCore cl r.job) ∧ (n =
    r.job.pageTokens) ∧ (sc = (fun k => codeAt s q (r.job.scoreAt 0 + 32 * k))) ∧ (ob = (fun k => codeAt s q (r.job.bufAt r.buf 0 + 32 * k)))) ∧
    (∃ (s : State) (cl q n : Nat) (r : JobRun) (x : RowState) (sc ob : Nat → Nat), MasonRuns s cl r ∧ OneRow s cl r x ∧ (q = rowCore cl r.job) ∧ (n =
    r.job.pageTokens) ∧ (sc = (fun k => codeAt s q (r.job.scoreAt 0 + 32 * k))) ∧ (ob = (fun k => codeAt s q (r.job.bufAt r.buf 0 + 32 * k))) ∧ (s.rstores
    = [])) ∧
    (∃ (s : State) (cl q n : Nat) (r : JobRun) (x : RowState) (sc ob : Nat → Nat), MasonRuns s cl r ∧ OneRow s cl r x ∧ (q = rowCore cl r.job) ∧ (n =
    r.job.pageTokens) ∧ (sc = (fun k => codeAt s q (r.job.scoreAt 0 + 32 * k))) ∧ (ob = (fun k => codeAt s q (r.job.bufAt r.buf 0 + 32 * k))) ∧ ∃ m :
    Micro, (r.job.res = false)) := by
  refine ⟨?_, ?_, ?_, ?_, ?_, ?_, ?_, ?_⟩
  · exact ⟨masonRuns oneRow, 0, _, _, oneRow, {}, _, _, by unfold MasonRuns MasonTurns; decide +kernel, oneRow_ok _ ⟨rfl, rfl⟩, rfl, rfl, rfl, rfl,
    by decide +kernel⟩
  · exact ⟨masked, 0, _, _, oneRow, {}, _, _, by unfold MasonRuns MasonTurns; decide +kernel, oneRow_ok _ ⟨rfl, rfl⟩, rfl, rfl, rfl, rfl, by decide +kernel,
    allMasked⟩
  · exact ⟨masonRuns oneRow, 0, _, _, oneRow, {}, _, _, by unfold MasonRuns MasonTurns; decide +kernel, oneRow_ok _ ⟨rfl, rfl⟩, rfl, rfl, rfl, rfl,
    by decide +kernel, ⟨0, by decide +kernel, by decide +kernel⟩, _, rfl⟩
  · exact ⟨masonRuns oneRow, 0, _, _, oneRow, {}, _, _, by unfold MasonRuns MasonTurns; decide +kernel, oneRow_ok _ ⟨rfl, rfl⟩, rfl, rfl, rfl, rfl,
    by decide +kernel, _, rfl⟩
  · exact ⟨masonRuns oneRow, 0, _, _, oneRow, {}, _, _, by unfold MasonRuns MasonTurns; decide +kernel, oneRow_ok _ ⟨rfl, rfl⟩, rfl, rfl, rfl, rfl,
    by decide +kernel, _, rfl⟩
  · exact ⟨masonRuns oneRow, 0, _, _, oneRow, {}, _, _, by unfold MasonRuns MasonTurns; decide +kernel, oneRow_ok _ ⟨rfl, rfl⟩, rfl, rfl, rfl, rfl⟩
  · exact ⟨masonRuns oneRow, 0, _, _, oneRow, {}, _, _, by unfold MasonRuns MasonTurns; decide +kernel, oneRow_ok _ ⟨rfl, rfl⟩, rfl, rfl, rfl, rfl,
    by decide +kernel⟩
  · exact ⟨masonRuns oneRow, 0, _, _, oneRow, {}, _, _, by unfold MasonRuns MasonTurns; decide +kernel, oneRow_ok _ ⟨rfl, rfl⟩, rfl, rfl, rfl, rfl, {},
    by decide +kernel⟩

theorem witness_MicroProducts :
    (∃ i ∈ ([.mqk, .mpv] : List Instr), ∃ (s : State) (cl k : Nat) (r : JobRun), MasonRuns s cl r ∧ (r.isOpen = true) ∧ ((s.cluster cl).took.1 ≠ s.cycle) ∧
    (0 < (s.cluster cl).freeRecs) ∧ (k < 1024) ∧ (aget (s.cluster cl).yard k = none) ∧ (∀ j < k, (aget (s.cluster cl).yard j).isSome = true)) ∧
    (∃ (s : State) (cl q n d k : Nat) (r : JobRun) (x : RowState) (key val : Nat → Nat → Fv), MasonTurns s cl r ∧ (r.tile = some k) ∧ OneRow s cl r x ∧ (q
    = rowCore cl r.job) ∧ (n = r.job.pageTokens) ∧ (d = r.job.dim) ∧ (r.isOpen = true) ∧ (r.masked = false) ∧ (r.kfail = none) ∧ (r.vfail = none) ∧
    (s.rstores = []) ∧ (s.boot.stackStop = []) ∧ (s.caches.l2 = []) ∧ (s.caches.l1 = []) ∧ (∀ e p, s.frameOf e p = none) ∧ ((s.cluster cl).streams.closure
    = []) ∧ ((s.cluster cl).streams.herdq = []) ∧ (r.ktag = 0) ∧ (r.vtag = 0) ∧ (r.kfrm % 65536 = 0) ∧ (r.vfrm % 65536 = 0) ∧ (key = (fun t i =>
    r.job.fmt.read false (memBytes s.mem (r.job.width / 8) (r.kfrm + (t * d + i) * (r.job.width / 8))))) ∧ (val = (fun t i => r.job.fmt.read false
    (memBytes s.mem (r.job.width / 8) (r.vfrm + (t * d + i) * (r.job.width / 8))))) ∧ ((r.job.word 1).getLsbD 63 = true) ∧ (winOf (r.job.word 1) = 1) ∧
    (InWindows s r.job.rights.cx (r.job.word 1) (d * r.job.width)) ∧ ((coreAt (r.job.word 1)).toNat / 64 = cl) ∧ ((r.job.word 1).getLsbD 37 = false) ∧ ∃
    v, (ReadsAs s (r.job.word 1) (d * r.job.width) v)) ∧
    (∃ (s : State) (cl q n d k : Nat) (r : JobRun) (x : RowState) (key val : Nat → Nat → Fv), MasonTurns s cl r ∧ (r.tile = some k) ∧ OneRow s cl r x ∧ (q
    = rowCore cl r.job) ∧ (n = r.job.pageTokens) ∧ (d = r.job.dim) ∧ (r.isOpen = true) ∧ (r.masked = false) ∧ (r.kfail = none) ∧ (r.vfail = none) ∧
    (s.rstores = []) ∧ (s.boot.stackStop = []) ∧ (s.caches.l2 = []) ∧ (s.caches.l1 = []) ∧ (∀ e p, s.frameOf e p = none) ∧ ((s.cluster cl).streams.closure
    = []) ∧ ((s.cluster cl).streams.herdq = []) ∧ (r.ktag = 0) ∧ (r.vtag = 0) ∧ (r.kfrm % 65536 = 0) ∧ (r.vfrm % 65536 = 0) ∧ (key = (fun t i =>
    r.job.fmt.read false (memBytes s.mem (r.job.width / 8) (r.kfrm + (t * d + i) * (r.job.width / 8))))) ∧ (val = (fun t i => r.job.fmt.read false
    (memBytes s.mem (r.job.width / 8) (r.vfrm + (t * d + i) * (r.job.width / 8)))))) := by
  refine ⟨?_, ?_, ?_⟩
  · exact ⟨_, List.Mem.head _, { masonRuns narrowRow with cycle := 1 }, 0, 0, narrowRow, by unfold MasonRuns MasonTurns; decide +kernel, by decide +kernel⟩
  · exact ⟨masonRuns narrowTile, 0, _, _, _, 0, narrowTile, {}, _, _, by unfold MasonTurns; decide +kernel, by decide +kernel, narrowRow_ok _ ⟨rfl, rfl⟩, rfl,
    rfl, rfl,
    and6 (by decide +kernel)
      ⟨by decide +kernel, by decide +kernel, noFrames rfl, and6 (by decide +kernel)
      ⟨rfl, rfl, by decide +kernel, by decide +kernel, by unfold InWindows InRange; decide +kernel, by decide +kernel, by decide +kernel, 0, by unfold ReadsAs; decide +kernel⟩⟩⟩
  · exact ⟨masonRuns narrowTile, 0, _, _, _, 0, narrowTile, {}, _, _, by unfold MasonTurns; decide +kernel, by decide +kernel, narrowRow_ok _ ⟨rfl, rfl⟩, rfl,
    rfl, rfl, and6 (by decide +kernel)
      ⟨by decide +kernel, by decide +kernel, noFrames rfl, and6 (by decide +kernel)
      ⟨rfl, rfl⟩⟩⟩

theorem witness_TranslationsDrop :
    ∃ (o : Ops) (s : State) (c : Cur) (x : Word), (State.Rules s c [o.a]) ∧ (s.rstores = []) ∧ (s.net.fwds = []) ∧ (x = (s.ctx c.cx).readS o.a) ∧ ∃ i s',
    ((i, s') ∈ [(Instr.tlbinvGpage o, withoutTlb s (fun e => mapsPage e x)), (.tlbinvGall, withoutTlb s (fun e => !e.stream)), (.tlbinvSid o, withoutTlb s
    (fun e => e.stream && e.sid == x.toNat)), (.tlbinvSall, withoutTlb s (fun e => e.stream)), (.tlbinvIdent o, withoutTags s (fun e => e.ident ==
    x.extractLsb' 0 24)), (.tlbinvIall, withoutTags s (fun _ => true)), (.tlbinvAll, withoutTags (withoutTlb s (fun _ => true)) (fun _ => true))]) :=
  ⟨{}, st (sup), c0, _, by unfold State.Rules State.Runs State.Issues Ctx.NoStep Ctx.Ready; decide +kernel, by decide +kernel, by decide +kernel, rfl, _,
    _, List.Mem.head _⟩

theorem witness_IdentitiesAndCounters :
    (∃ (o : Ops) (s : State) (c : Cur) (n : BitVec 24), (State.Rules s c [o.a]) ∧ (s.poison = []) ∧ (n = ((s.ctx c.cx).readS o.a).extractLsb' 0 24)) ∧
    (∃ (o : Ops) (s : State) (c : Cur) (n : Nat), (State.Rules s c [o.a]) ∧ (n = ((s.ctx c.cx).readS o.a).toNat)) ∧
    (∃ (o : Ops) (s : State) (c : Cur) (seq : Nat) (b : Word), (State.Rules s c [o.a, o.b]) ∧ (seq = ((s.ctx c.cx).readS o.a).toNat) ∧ (b = (s.ctx
    c.cx).readS o.b) ∧ (b.getLsbD 8 = true)) ∧
    (∃ (o : Ops) (s : State) (c : Cur) (seq : Nat) (b : Word), (State.Rules s c [o.a, o.b]) ∧ (seq = ((s.ctx c.cx).readS o.a).toNat) ∧ (b = (s.ctx
    c.cx).readS o.b) ∧ (b.getLsbD 8 = false) ∧ ∃ ws, (aget s.log.recs (seq % 4096) = some ws) ∧ (seq < 2 ^ 32) ∧ ((ws.headD 0).toNat / 2 ^ 32 = seq)) ∧
    (∃ (o : Ops) (s : State) (c : Cur) (seq : Nat) (b : Word), (State.Rules s c [o.a, o.b]) ∧ (seq = ((s.ctx c.cx).readS o.a).toNat) ∧ (b = (s.ctx
    c.cx).readS o.b) ∧ (b.getLsbD 8 = false) ∧ (∀ ws, aget s.log.recs (seq % 4096) = some ws → (ws.headD 0).toNat / 2 ^ 32 ≠ seq)) := by
  refine ⟨?_, ?_, ?_, ?_, ?_⟩
  · exact ⟨{}, st (sup), c0, _, by unfold State.Rules State.Runs State.Issues Ctx.NoStep Ctx.Ready; decide +kernel, by decide +kernel, rfl⟩
  · exact ⟨{}, st (sup), c0, _, by unfold State.Rules State.Runs State.Issues Ctx.NoStep Ctx.Ready; decide +kernel, rfl⟩
  · exact ⟨{ b := 1 }, st (sup (rg [(1, 256)])), c0, _, _, by unfold State.Rules State.Runs State.Issues Ctx.NoStep Ctx.Ready; decide +kernel, rfl, rfl,
    by decide +kernel⟩
  · exact ⟨{}, { st (sup) with log := { recs := [(0, [0])] } }, c0, _, _, by unfold State.Rules State.Runs State.Issues Ctx.NoStep Ctx.Ready; decide +kernel, rfl,
    rfl, by decide +kernel, [0], by decide +kernel⟩
  · exact ⟨{}, st (sup), c0, _, _, by unfold State.Rules State.Runs State.Issues Ctx.NoStep Ctx.Ready; decide +kernel, rfl, rfl, by decide +kernel,
    (by intro ws h; cases (show (none : Option (List Word)) = some ws from h))⟩

theorem witness_SuspendedTasks :
    (∃ (o : Ops) (s : State) (c : Cur) (n : Nat), (State.Rules s c [o.a, o.b]) ∧ (n = ctxOfId c.cx ((s.ctx c.cx).readS o.a).toNat) ∧ (¬ OfMyUnit c.cx n ∨ n
    = c.cx)) ∧
    (∃ (o : Ops) (s : State) (c : Cur) (n : Nat), (State.Rules s c [o.a, o.b]) ∧ (n = ctxOfId c.cx ((s.ctx c.cx).readS o.a).toNat) ∧ OfMyUnit c.cx n ∧ (n ≠
    c.cx) ∧ (s.holds n = false)) ∧
    (∃ (o : Ops) (s : State) (c : Cur) (n : Nat), (State.Rules s c [o.a, o.b]) ∧ (n = ctxOfId c.cx ((s.ctx c.cx).readS o.a).toNat) ∧ OfMyUnit c.cx n ∧ (n ≠
    c.cx) ∧ (s.holds n = true) ∧ (n < 8192) ∧ (s.net.fwds = []) ∧ (s.ldfes = []) ∧ (s.boot.stackStop = []) ∧ (((s.ctx c.cx).readS o.b).getLsbD 0 = false)
    ∧ ∃ r, (aget (s.cluster (n / 512)).yard (s.ctx n).yr = some r)) ∧
    (∃ (o : Ops) (s : State) (c : Cur) (n : Nat), (State.Rules s c [o.a, o.b]) ∧ (n = ctxOfId c.cx ((s.ctx c.cx).readS o.a).toNat) ∧ OfMyUnit c.cx n ∧ (n ≠
    c.cx) ∧ (s.holds n = true) ∧ (n < 8192) ∧ (s.net.fwds = []) ∧ (s.ldfes = []) ∧ (s.boot.stackStop = []) ∧ (((s.ctx c.cx).readS o.b).getLsbD 0 = true) ∧
    ∃ r, (aget (s.cluster (n / 512)).yard (s.ctx n).yr = some r)) ∧
    (∃ i ∈ ([.ctxloadRelease, .ctxloadKill] : List (Ops → Instr)), ∃ (o : Ops) (s : State) (c : Cur) (n : Nat) (act : Word), (State.Rules s c [o.a, o.b]) ∧
    (c.cx < 8192) ∧ (n = ((s.ctx c.cx).readS o.a).toNat) ∧ (act = (s.ctx c.cx).readS o.b) ∧ (1024 < n ∨ aget (s.cluster (c.cx / 512)).yard n = none)) ∧
    (∃ i ∈ ([.ctxloadRelease, .ctxloadKill] : List (Ops → Instr)), ∃ (o : Ops) (s : State) (c : Cur) (n : Nat) (act : Word), (State.Rules s c [o.a, o.b]) ∧
    (c.cx < 8192) ∧ (n = ((s.ctx c.cx).readS o.a).toNat) ∧ (act = (s.ctx c.cx).readS o.b) ∧ ∃ r, (n ≤ 1024) ∧ (aget (s.cluster (c.cx / 512)).yard n = some
    r) ∧ (r.place ≠ .tile) ∧ (act = 0) ∧ (r.held = true) ∧ (r.dying = false)) ∧
    (∃ i ∈ ([.ctxloadRelease, .ctxloadKill] : List (Ops → Instr)), ∃ (o : Ops) (s : State) (c : Cur) (n : Nat) (act : Word), (State.Rules s c [o.a, o.b]) ∧
    (c.cx < 8192) ∧ (n = ((s.ctx c.cx).readS o.a).toNat) ∧ (act = (s.ctx c.cx).readS o.b) ∧ ∃ r, (n ≤ 1024) ∧ (aget (s.cluster (c.cx / 512)).yard n = some
    r) ∧ (r.place ≠ .tile) ∧ (act = 0) ∧ (r.held = false)) ∧
    (∃ i ∈ ([.ctxloadRelease, .ctxloadKill] : List (Ops → Instr)), ∃ (o : Ops) (s : State) (c : Cur) (n : Nat) (act : Word), (State.Rules s c [o.a, o.b]) ∧
    (c.cx < 8192) ∧ (n = ((s.ctx c.cx).readS o.a).toNat) ∧ (act = (s.ctx c.cx).readS o.b) ∧ ∃ r, (n ≤ 1024) ∧ (aget (s.cluster (c.cx / 512)).yard n = some
    r) ∧ (r.place ≠ .tile) ∧ (act = 1) ∧ ∃ cx, (r.place = .running cx)) ∧
    (∃ i ∈ ([.ctxloadRelease, .ctxloadKill] : List (Ops → Instr)), ∃ (o : Ops) (s : State) (c : Cur) (n : Nat) (act : Word), (State.Rules s c [o.a, o.b]) ∧
    (c.cx < 8192) ∧ (n = ((s.ctx c.cx).readS o.a).toNat) ∧ (act = (s.ctx c.cx).readS o.b) ∧ ∃ r, (n ≤ 1024) ∧ (aget (s.cluster (c.cx / 512)).yard n = some
    r) ∧ (r.place ≠ .tile) ∧ (act = 1) ∧ (r.place = .suspended) ∧ (r.uid ≠ (s.ctx c.cx).uid) ∧ (s.rstores = []) ∧ (s.boot.stackStop = []) ∧ ((s.cluster
    (c.cx / 512)).streams.closure = []) ∧ ((s.cluster (c.cx / 512)).streams.herdq = []) ∧ ((s.readSave ((s.cluster (c.cx / 512)).saveArea n)
    r.kind).rcount = 0)) ∧
    (∃ i ∈ ([.ctxloadRelease, .ctxloadKill] : List (Ops → Instr)), ∃ (o : Ops) (s : State) (c : Cur) (n : Nat) (act : Word), (State.Rules s c [o.a, o.b]) ∧
    (c.cx < 8192) ∧ (n = ((s.ctx c.cx).readS o.a).toNat) ∧ (act = (s.ctx c.cx).readS o.b) ∧ ∃ r, (n ≤ 1024) ∧ (aget (s.cluster (c.cx / 512)).yard n = some
    r) ∧ (r.place ≠ .tile) ∧ (2 ≤ act.toNat)) := by
  refine ⟨?_, ?_, ?_, ?_, ?_, ?_, ?_, ?_, ?_, ?_⟩
  · exact ⟨{}, st (sup), c0, _, by unfold State.Rules State.Runs State.Issues Ctx.NoStep Ctx.Ready; decide +kernel, rfl, by unfold OfMyUnit; decide +kernel⟩
  · exact ⟨{ a := 1 }, st (sup (rg [(1, 511)])), c0, _, by unfold State.Rules State.Runs State.Issues Ctx.NoStep Ctx.Ready; decide +kernel, rfl,
    by unfold OfMyUnit; decide +kernel, by decide +kernel⟩
  · exact ⟨{ a := 1 }, { st (sup (rg [(1, 1)])) (fun c => { c with yard := [(0, {})] }) with ctxs := [(0, sup (rg [(1, 1)])), (1, {})] }, c0, _,
    by unfold State.Rules State.Runs State.Issues Ctx.NoStep Ctx.Ready; decide +kernel, rfl, by unfold OfMyUnit; decide +kernel,
    and6 (by decide +kernel)
      ⟨by decide +kernel, {}, by decide +kernel⟩⟩
  · exact ⟨{ a := 1, b := 2 }, { st (sup (rg [(1, 1), (2, 1)])) (fun c => { c with yard := [(0, {})] }) with ctxs := [(0, sup (rg [(1, 1), (2, 1)])), (1, {})] },
    c0, _, by unfold State.Rules State.Runs State.Issues Ctx.NoStep Ctx.Ready; decide +kernel, rfl, by unfold OfMyUnit; decide +kernel,
    and6 (by decide +kernel)
      ⟨by decide +kernel, {}, by decide +kernel⟩⟩
  · exact ⟨_, List.Mem.head _, { a := 1 }, st (sup (rg [(1, 1025)])), c0, _, _,
    by unfold State.Rules State.Runs State.Issues Ctx.NoStep Ctx.Ready; decide +kernel, by decide +kernel, rfl, rfl, by decide +kernel⟩
  · exact ⟨_, List.Mem.head _, {}, st (sup) (fun c => { c with yard := [(0, { held := true })] }), c0, _, _,
    by unfold State.Rules State.Runs State.Issues Ctx.NoStep Ctx.Ready; decide +kernel, by decide +kernel, rfl, rfl, { held := true }, by decide +kernel,
    by decide +kernel, by decide +kernel, rfl, by decide +kernel⟩
  · exact ⟨_, List.Mem.head _, {}, st (sup) (fun c => { c with yard := [(0, {})] }), c0, _, _,
    by unfold State.Rules State.Runs State.Issues Ctx.NoStep Ctx.Ready; decide +kernel, by decide +kernel, rfl, rfl, {}, by decide +kernel,
    by decide +kernel, by decide +kernel, rfl, by decide +kernel⟩
  · exact ⟨_, List.Mem.head _, { b := 1 }, st (sup (rg [(1, 1)])) (fun c => { c with yard := [(0, { place := .running 3 })] }), c0, _, _,
    by unfold State.Rules State.Runs State.Issues Ctx.NoStep Ctx.Ready; decide +kernel, by decide +kernel, rfl, rfl, { place := .running 3 },
    by decide +kernel, by decide +kernel, by decide +kernel, rfl, 3, by decide +kernel⟩
  · exact ⟨_, List.Mem.head _, { b := 1 }, st (sup (rg [(1, 1)])) (fun c => { c with yard := [(0, { uid := 7 })] }), c0, _, _,
    by unfold State.Rules State.Runs State.Issues Ctx.NoStep Ctx.Ready; decide +kernel, by decide +kernel, rfl, rfl, { uid := 7 }, by decide +kernel,
    by decide +kernel, by decide +kernel, rfl, by decide +kernel⟩
  · exact ⟨_, List.Mem.head _, { b := 1 }, st (sup (rg [(1, 2)])) (fun c => { c with yard := [(0, {})] }), c0, _, _,
    by unfold State.Rules State.Runs State.Issues Ctx.NoStep Ctx.Ready; decide +kernel, by decide +kernel, rfl, rfl, {}, by decide +kernel⟩

theorem witness_PageMoves :
    (∃ (o : Ops) (s : State) (c : Cur) (b : Word), (State.Rules s c [o.a, o.b]) ∧ ((s.ctx c.cx).rcount = 0) ∧ (8192 ≤ c.cx ∨ (s.cluster (c.cx /
    512)).locks.length ≤ 256) ∧ (b = (s.ctx c.cx).readS o.b)) ∧
    (∃ (s : State) (x : EvArg) (m : MoveOp), s.Happens x ∧ (x.i = 0) ∧ (s.moves = [m]) ∧ (m.status = none) ∧ (m.req = none) ∧ (m.begun = true) ∧ (m.flying
    = none) ∧ (s.boot.stackStop = []) ∧ (m.next < 512) ∧ (m.dpkg = s.sys.self) ∧ (m.frame ≠ m.dframe) ∧ (s.rstores = []) ∧ (s.poison = [])) ∧
    (∃ (s : State) (x : EvArg) (m : MoveOp) (st : Nat), s.Happens x ∧ (x.i = 0) ∧ (s.moves = [m]) ∧ (m.status = some st) ∧ (st ≠ 0) ∧ (m.asker = none) ∧
    NoneSuspended s) := by
  refine ⟨?_, ?_, ?_⟩
  · exact ⟨{}, st (sup), c0, _, by unfold State.Rules State.Runs State.Issues Ctx.NoStep Ctx.Ready; decide +kernel, by decide +kernel, by decide +kernel, rfl⟩
  · exact ⟨{ ev with moves := [{ begun := true, next := 511, dframe := 0x10000 }] }, {}, { begun := true, next := 511, dframe := 0x10000 },
    by unfold State.Happens; decide +kernel, by decide +kernel⟩
  · exact ⟨{ ev with moves := [{ status := some 1 }] }, {}, { status := some 1 }, 1, by unfold State.Happens; decide +kernel, by decide +kernel,
    by decide +kernel, by decide +kernel, by decide +kernel, by decide +kernel, by unfold NoneSuspended; decide +kernel⟩

theorem witness_Drains :
    (∃ i ∈ ([.cldrainDrain, .cldrainResume, .cldrainWipe] : List (Ops → Instr)), ∃ (o : Ops) (s : State) (c : Cur) (a act : Word) (cl : Nat), (State.Rules
    s c [o.a, o.b]) ∧ (a = (s.ctx c.cx).readS o.a) ∧ (act = (s.ctx c.cx).readS o.b) ∧ (cl = a.toNat % 16) ∧ ((s.ctx c.cx).wait = none) ∧ (16 ≤ a.toNat ∨ 2
    < act.toNat)) ∧
    (∃ i ∈ ([.cldrainDrain, .cldrainResume, .cldrainWipe] : List (Ops → Instr)), ∃ (o : Ops) (s : State) (c : Cur) (a act : Word) (cl : Nat), (State.Rules
    s c [o.a, o.b]) ∧ (a = (s.ctx c.cx).readS o.a) ∧ (act = (s.ctx c.cx).readS o.b) ∧ (cl = a.toNat % 16) ∧ ((s.ctx c.cx).wait = none) ∧ (a.toNat < 16) ∧
    (act.toNat ≤ 2) ∧ ((s.cluster cl).inService = false)) ∧
    (∃ i ∈ ([.cldrainDrain, .cldrainResume, .cldrainWipe] : List (Ops → Instr)), ∃ (o : Ops) (s : State) (c : Cur) (a act : Word) (cl : Nat), (State.Rules
    s c [o.a, o.b]) ∧ (a = (s.ctx c.cx).readS o.a) ∧ (act = (s.ctx c.cx).readS o.b) ∧ (cl = a.toNat % 16) ∧ ((s.ctx c.cx).wait = none) ∧ (a.toNat < 16) ∧
    (act.toNat ≤ 2) ∧ ((s.cluster cl).inService = true) ∧ (c.cx < 8192) ∧ (c.cx / 512 = cl)) ∧
    (∃ i ∈ ([.cldrainDrain, .cldrainResume, .cldrainWipe] : List (Ops → Instr)), ∃ (o : Ops) (s : State) (c : Cur) (a act : Word) (cl : Nat), (State.Rules
    s c [o.a, o.b]) ∧ (a = (s.ctx c.cx).readS o.a) ∧ (act = (s.ctx c.cx).readS o.b) ∧ (cl = a.toNat % 16) ∧ ((s.ctx c.cx).wait = none) ∧ (a.toNat < 16) ∧
    ((s.cluster cl).inService = true) ∧ (8192 ≤ c.cx ∨ c.cx / 512 ≠ cl) ∧ (act = 0) ∧ ((s.cluster cl).drained = true) ∧ ((s.cluster cl).draining = false)) ∧
    (∃ i ∈ ([.cldrainDrain, .cldrainResume, .cldrainWipe] : List (Ops → Instr)), ∃ (o : Ops) (s : State) (c : Cur) (a act : Word) (cl : Nat), (State.Rules
    s c [o.a, o.b]) ∧ (a = (s.ctx c.cx).readS o.a) ∧ (act = (s.ctx c.cx).readS o.b) ∧ (cl = a.toNat % 16) ∧ ((s.ctx c.cx).wait = none) ∧ (a.toNat < 16) ∧
    ((s.cluster cl).inService = true) ∧ (8192 ≤ c.cx ∨ c.cx / 512 ≠ cl) ∧ (act = 0) ∧ ((s.cluster cl).drained = false) ∧ ((s.cluster cl).draining = false)
    ∧ (∀ k < 512, s.holds (512 * cl + k) = false) ∧ (s.enginesIdle cl = true)) ∧
    (∃ i ∈ ([.cldrainDrain, .cldrainResume, .cldrainWipe] : List (Ops → Instr)), ∃ (o : Ops) (s : State) (c : Cur) (a act : Word) (cl : Nat), (State.Rules
    s c [o.a, o.b]) ∧ (a = (s.ctx c.cx).readS o.a) ∧ (act = (s.ctx c.cx).readS o.b) ∧ (cl = a.toNat % 16) ∧ ((s.ctx c.cx).wait = none) ∧ (a.toNat < 16) ∧
    ((s.cluster cl).inService = true) ∧ (8192 ≤ c.cx ∨ c.cx / 512 ≠ cl) ∧ (act = 1) ∧ ((s.cluster cl).drained = false)) ∧
    (∃ i ∈ ([.cldrainDrain, .cldrainResume, .cldrainWipe] : List (Ops → Instr)), ∃ (o : Ops) (s : State) (c : Cur) (a act : Word) (cl : Nat), (State.Rules
    s c [o.a, o.b]) ∧ (a = (s.ctx c.cx).readS o.a) ∧ (act = (s.ctx c.cx).readS o.b) ∧ (cl = a.toNat % 16) ∧ ((s.ctx c.cx).wait = none) ∧ (a.toNat < 16) ∧
    ((s.cluster cl).inService = true) ∧ (8192 ≤ c.cx ∨ c.cx / 512 ≠ cl) ∧ (act = 1) ∧ ((s.cluster cl).drained = true) ∧ (∀ k < 512, s.holds (512 * cl + k)
    = false) ∧ ((s.cluster cl).streams.open_ = []) ∧ ((s.cluster cl).streams.closure = []) ∧ ((s.cluster cl).streams.herdq = [])) ∧
    (∃ i ∈ ([.cldrainDrain, .cldrainResume, .cldrainWipe] : List (Ops → Instr)), ∃ (o : Ops) (s : State) (c : Cur) (a act : Word) (cl : Nat), (State.Rules
    s c [o.a, o.b]) ∧ (a = (s.ctx c.cx).readS o.a) ∧ (act = (s.ctx c.cx).readS o.b) ∧ (cl = a.toNat % 16) ∧ ((s.ctx c.cx).wait = none) ∧ (a.toNat < 16) ∧
    ((s.cluster cl).inService = true) ∧ (8192 ≤ c.cx ∨ c.cx / 512 ≠ cl) ∧ (act = 2) ∧ ((s.cluster cl).drained = false)) ∧
    (∃ i ∈ ([.cldrainDrain, .cldrainResume, .cldrainWipe] : List (Ops → Instr)), ∃ (o : Ops) (s : State) (c : Cur) (a act : Word) (cl : Nat), (State.Rules
    s c [o.a, o.b]) ∧ (a = (s.ctx c.cx).readS o.a) ∧ (act = (s.ctx c.cx).readS o.b) ∧ (cl = a.toNat % 16) ∧ ((s.ctx c.cx).wait = none) ∧ (a.toNat < 16) ∧
    ((s.cluster cl).inService = true) ∧ (8192 ≤ c.cx ∨ c.cx / 512 ≠ cl) ∧ (act = 2) ∧ ((s.cluster cl).drained = true) ∧ ((s.cluster cl).draining = false)
    ∧ ((s.cluster cl).yard = []) ∧ ((s.cluster cl).events.pops = []) ∧ ((s.cluster cl).streams.ctxs = []) ∧ (s.ldfes = [])) ∧
    (∃ (s : State) (x : EvArg), s.Happens x ∧ (x.i < 16) ∧ ((s.cluster x.i).draining = true) ∧ (∀ k < 512, s.holds (512 * x.i + k) = false) ∧
    (s.enginesIdle x.i = true)) := by
  refine ⟨?_, ?_, ?_, ?_, ?_, ?_, ?_, ?_, ?_, ?_⟩
  · exact ⟨_, List.Mem.head _, { a := 1 }, st (sup (rg [(1, 16)])), c0, _, _, _,
    by unfold State.Rules State.Runs State.Issues Ctx.NoStep Ctx.Ready; decide +kernel, rfl, rfl, rfl, by decide +kernel⟩
  · exact ⟨_, List.Mem.head _, { a := 1, b := 2 }, draining 2 {}, c0, _, _, _, by unfold State.Rules State.Runs State.Issues Ctx.NoStep Ctx.Ready; decide +kernel,
    rfl, rfl, rfl, by decide +kernel⟩
  · exact ⟨_, List.Mem.head _, {}, st (sup) (fun c => { c with inService := true }), c0, _, _, _,
    by unfold State.Rules State.Runs State.Issues Ctx.NoStep Ctx.Ready; decide +kernel, rfl, rfl, rfl, by decide +kernel⟩
  · exact ⟨_, List.Mem.head _, { a := 1, b := 2 }, draining 0 { inService := true, drained := true }, c0, _, _, _,
    by unfold State.Rules State.Runs State.Issues Ctx.NoStep Ctx.Ready; decide +kernel, rfl, rfl, rfl, by decide +kernel, by decide +kernel,
    by decide +kernel, by decide +kernel, rfl, by decide +kernel⟩
  · exact ⟨_, List.Mem.head _, { a := 1, b := 2 }, draining 0 { inService := true }, c0, _, _, _,
    by unfold State.Rules State.Runs State.Issues Ctx.NoStep Ctx.Ready; decide +kernel, rfl, rfl, rfl, by decide +kernel, by decide +kernel,
    by decide +kernel, by decide +kernel, rfl, by decide +kernel⟩
  · exact ⟨_, List.Mem.head _, { a := 1, b := 2 }, draining 1 { inService := true }, c0, _, _, _,
    by unfold State.Rules State.Runs State.Issues Ctx.NoStep Ctx.Ready; decide +kernel, rfl, rfl, rfl, by decide +kernel, by decide +kernel,
    by decide +kernel, by decide +kernel, rfl, by decide +kernel⟩
  · exact ⟨_, List.Mem.head _, { a := 1, b := 2 }, draining 1 { inService := true, drained := true }, c0, _, _, _,
    by unfold State.Rules State.Runs State.Issues Ctx.NoStep Ctx.Ready; decide +kernel, rfl, rfl, rfl, by decide +kernel, by decide +kernel,
    by decide +kernel, by decide +kernel, rfl, by decide +kernel⟩
  · exact ⟨_, List.Mem.head _, { a := 1, b := 2 }, draining 2 { inService := true }, c0, _, _, _,
    by unfold State.Rules State.Runs State.Issues Ctx.NoStep Ctx.Ready; decide +kernel, rfl, rfl, rfl, by decide +kernel, by decide +kernel,
    by decide +kernel, by decide +kernel, rfl, by decide +kernel⟩
  · exact ⟨_, List.Mem.head _, { a := 1, b := 2 }, draining 2 { inService := true, drained := true }, c0, _, _, _,
    by unfold State.Rules State.Runs State.Issues Ctx.NoStep Ctx.Ready; decide +kernel, rfl, rfl, rfl, by decide +kernel, by decide +kernel,
    by decide +kernel, by decide +kernel, rfl, by decide +kernel⟩
  · exact ⟨ev {} (fun c => { c with draining := true }), {}, by unfold State.Happens; decide +kernel, by decide +kernel⟩

theorem witness_ChainRegisters :
    (∃ (s : State) (x : EvArg) (ch : CmdChain), s.Happens x ∧ (s.boot.ports ≠ []) ∧ (s.alive = true) ∧ (ch = s.chain x.i) ∧ (ch.en = false) ∧ (x.w.getLsbD
    0 = true) ∧ (∃ k < 16, (s.cluster k).inService = true)) ∧
    (∃ (s : State) (x : EvArg) (ch : CmdChain), s.Happens x ∧ (s.boot.ports ≠ []) ∧ (s.alive = true) ∧ (ch = s.chain x.i) ∧ (ch.en = false) ∧ (x.w.getLsbD
    0 = true) ∧ (s.serving = true) ∧ (∀ k < 16, (s.cluster k).inService = false)) ∧
    (∃ (s : State) (x : EvArg) (ch : CmdChain), s.Happens x ∧ (s.boot.ports ≠ []) ∧ (s.alive = true) ∧ (ch = s.chain x.i) ∧ (ch.en = true) ∧ (x.w.getLsbD 0
    = false)) ∧
    (∃ (s : State) (x : EvArg) (ch : CmdChain), s.Happens x ∧ (s.boot.ports ≠ []) ∧ (s.alive = true) ∧ (ch = s.chain x.i) ∧ (ch.en = false ∨ (x.w.setWidth
    32 - ch.head).toNat ≤ 2 ^ ch.lsz.toNat)) ∧
    (∃ (s : State) (x : EvArg) (ch : CmdChain), s.Happens x ∧ (s.boot.ports ≠ []) ∧ (s.alive = true) ∧ (ch = s.chain x.i) ∧ (ch.en = true) ∧ (ch.stopped =
    false) ∧ (2 ^ ch.lsz.toNat < (x.w.setWidth 32 - ch.head).toNat)) := by
  refine ⟨?_, ?_, ?_, ?_, ?_⟩
  · exact ⟨ev { w := 1 } (fun c => { c with inService := true }), { w := 1 }, _, by unfold State.Happens; decide +kernel, by decide +kernel, by decide +kernel,
    rfl, by decide +kernel, by decide +kernel, ⟨0, by decide +kernel, by decide +kernel⟩⟩
  · exact ⟨{ ev { w := 1 } with boot := { wiping := false, stage := .sramService } }, { w := 1 }, _, by unfold State.Happens; decide +kernel, by decide +kernel,
    by decide +kernel, rfl, by decide +kernel⟩
  · exact ⟨{ ev with chains := State.reset.chains.set 0 { en := true } }, {}, _, by unfold State.Happens; decide +kernel, by decide +kernel, by decide +kernel,
    rfl, by decide +kernel⟩
  · exact ⟨ev, {}, _, by unfold State.Happens; decide +kernel, by decide +kernel, by decide +kernel, rfl, by decide +kernel⟩
  · exact ⟨{ ev { w := 2 } with chains := State.reset.chains.set 0 { en := true } }, { w := 2 }, _, by unfold State.Happens; decide +kernel, by decide +kernel,
    by decide +kernel, rfl, by decide +kernel⟩

theorem witness_Dispatching :
    (∃ (s : State) (x : EvArg) (l : Nat) (rest : List Nat) (la : Launch), s.Happens x ∧ (x.i < 16) ∧ ((s.cluster x.i).cur = none) ∧ ((s.cluster x.i).disp =
    l :: rest) ∧ ((s.cluster x.i).inService = true) ∧ ((s.cluster x.i).drained = false) ∧ (s.serving = true) ∧ (((aget s.launches l).getD {}).words = [])
    ∧ (((aget s.launches l).getD {}).counts = none) ∧ (s.boot.stackStop = []) ∧ (la = { (aget s.launches l).getD {} with words := memWords s.mem 8 (((aget s.launches l).getD {}).hdr / 8), cl := x.i })
    ∧ (s.headerOk la = true) ∧ (la.ice = false) ∧ (la.kmode = 0) ∧ ∃ ext : List Nat, (ext = (List.range 6).map (fun j => if la.fw j = 0 then 1 else
    la.maxExt j)) ∧ (ext.foldl (· * ·) 1 ≠ 0)) ∧
    (∃ (s : State) (x : EvArg) (l : Nat) (rest : List Nat) (la : Launch), s.Happens x ∧ (x.i < 16) ∧ ((s.cluster x.i).cur = none) ∧ ((s.cluster x.i).disp =
    l :: rest) ∧ ((s.cluster x.i).inService = true) ∧ ((s.cluster x.i).drained = false) ∧ (s.serving = true) ∧ (((aget s.launches l).getD {}).words = [])
    ∧ (((aget s.launches l).getD {}).counts = none) ∧ (s.boot.stackStop = []) ∧ (la = { (aget s.launches l).getD {} with words := memWords s.mem 8 (((aget s.launches l).getD {}).hdr / 8), cl := x.i })
    ∧ (s.headerOk la = false) ∧ (la.done = false)) := by
  refine ⟨?_, ?_⟩
  · exact ⟨{ ev {} (fun c => { c with inService := true, disp := [1] }) with launches := [(1, { hdr := 512 })], boot := { wiping := false, stage := .sramService } },
    {}, 1, [], _, by unfold State.Happens; decide +kernel,
    and6 (by decide +kernel)
      ⟨by decide +kernel, by decide +kernel, by decide +kernel, rfl, by decide +kernel, by decide +kernel, by decide +kernel, _, rfl, by decide +kernel⟩⟩
  · exact ⟨{ ev {} (fun c => { c with inService := true, disp := [1] }) with launches := [(1, { hdr := 1 })], boot := { wiping := false, stage := .sramService } },
    {}, 1, [], _, by unfold State.Happens; decide +kernel,
    and6 (by decide +kernel)
      ⟨by decide +kernel, by decide +kernel, by decide +kernel, rfl, by decide +kernel⟩⟩

theorem witness_YardEvents :
    (∃ (s : State) (x : EvArg) (k m cx : Nat) (r : YRec) (z : Ctx), s.Happens x ∧ (x.i < 16) ∧ ((s.cluster x.i).inService = true) ∧ ((s.cluster
    x.i).drained = false) ∧ ((s.cluster x.i).yard = [(k, r)]) ∧ (r.place = .fresh z) ∧ (r.held = false) ∧ (r.dying = false) ∧ (r.elig ≤ s.cycle) ∧
    (s.boot.stackStop = []) ∧ (m < 128) ∧ (cx = x.i * 512 + x.j % 4 * 128 + m) ∧ (s.holds cx = false) ∧ (∀ n < m, s.holds (x.i * 512 + x.j % 4 * 128 + n)
    = true)) ∧
    (∃ (s : State) (x : EvArg) (z : Ctx), s.Happens x ∧ (aget s.ctxs x.i = some z) ∧ (z.drain = true) ∧ (z.rcount = 0)) ∧
    (∃ (s : State) (x : EvArg) (z : Ctx), s.Happens x ∧ (aget s.ctxs x.i = some z) ∧ (z.ready = true) ∧ ∃ e, (e = min 3 (z.csrs.base.toNat + (s.cycle - max
    z.since z.turned) / 4096)) ∧ (z.csrs.eff.toNat < e)) ∧
    (∃ (s : State) (x : EvArg) (r : YRec), s.Happens x ∧ (x.i < 16) ∧ (aget (s.cluster x.i).yard x.j = some r) ∧ (r.elig ≠ 0) ∧ (r.elig ≤ s.cycle)) ∧
    (∃ (s : State) (x : EvArg) (k yr desc head key : Nat) (r : YRec), s.Happens x ∧ (x.i < 16) ∧ ((s.cluster x.i).cellar = [(k, r)]) ∧ (desc = (s.cluster
    x.i).celb.toNat * 2 ^ 12) ∧ (head = (s.phys (desc + 16)).toNat % 2 ^ 32) ∧ (RingAt s (s.ringAddr desc head 128) 16 key) ∧ ((s.cluster x.i).took.1 ≠
    s.cycle) ∧ (64 < (s.cluster x.i).freeRecs) ∧ (yr < 1024) ∧ (aget (s.cluster x.i).yard yr = none) ∧ (∀ j < yr, (aget (s.cluster x.i).yard j).isSome =
    true)) := by
  refine ⟨?_, ?_, ?_, ?_, ?_⟩
  · exact ⟨ev {} (fun c => { c with inService := true, yard := [(0, { place := .fresh {} })] }), {}, 0, 0, _, { place := .fresh {} }, {},
    by unfold State.Happens; decide +kernel,
    and6 (by decide +kernel)
      ⟨by decide +kernel, by decide +kernel, by decide +kernel, by decide +kernel, rfl, by decide +kernel⟩⟩
  · exact ⟨{ ev with ctxs := [(0, { drain := true })] }, {}, { drain := true }, by unfold State.Happens; decide +kernel, by decide +kernel⟩
  · exact ⟨{ ev with ctxs := [(0, { ready := true })], cycle := 4096 }, {}, { ready := true }, by unfold State.Happens; decide +kernel, by decide +kernel,
    by decide +kernel, 1, by decide +kernel⟩
  · exact ⟨{ ev {} (fun c => { c with yard := [(0, { elig := 1 })] }) with cycle := 1 }, {}, { elig := 1 }, by unfold State.Happens; decide +kernel,
    by decide +kernel⟩
  · exact ⟨mapped (fun c => { c with cellar := [(5, {})], took := (1, 0), celb := 4 }), {}, 5, 0, 0x4000, 0, 0x10000, {}, by unfold State.Happens; decide +kernel,
    by decide +kernel, by decide +kernel, by decide +kernel, by decide +kernel,
    ringAt (leaf := 0x1FD) (level := 0) (place := 0x3000) (by unfold Undisturbed; decide +kernel) (by decide +kernel) (by decide +kernel),
    by decide +kernel⟩

theorem witness_PreemptionsAndSplits :
    (∃ (s : State) (x : EvArg) (cx yr : Nat) (r : YRec) (z : Ctx), s.Happens x ∧ (x.i < 16) ∧ ((s.cluster x.i).inService = true) ∧ ((s.cluster x.i).drained
    = false) ∧ (∀ k < 512, s.holds (x.i * 512 + k) = true) ∧ ((s.cluster x.i).lastPreempt + 256 ≤ s.cycle) ∧ (s.victim x.i x.j = some cx) ∧ (bestWaiting
    s.cycle (s.cluster x.i).yard = some (yr, r)) ∧ (aget (s.cluster x.i).yard yr = some r) ∧ (r.place = .fresh z) ∧ (r.stack = 0) ∧ (s.net.fwds = []) ∧
    (s.ldfes = []) ∧ (s.boot.stackStop = []) ∧ (cx / 512 = x.i) ∧ ((s.ctx cx).yr ≠ yr)) ∧
    (∃ (s : State) (x : EvArg) (cx vr vcx yr : Nat) (r : YRec) (v : Ctx) (g : RangeRec) (mid : Word), s.Happens x ∧ (x.i < 16) ∧ ((s.cluster x.i).inService
    = true) ∧ ((s.cluster x.i).drained = false) ∧ (bestWaiting s.cycle (s.cluster x.i).yard = none) ∧ (x.j < 64) ∧ (cx = x.i * 512 + x.j * 8) ∧ (s.holds
    cx = false) ∧ (s.splitVictim x.i = some (vr, r, v)) ∧ ((s.cluster x.i).took.1 ≠ s.cycle) ∧ (∀ p, aget s.splits x.i = some p → p.1 ≠ s.cycle) ∧ (64 <
    (s.cluster x.i).freeRecs) ∧ (aget (s.cluster x.i).yard yr = none) ∧ (∀ j < yr, (aget (s.cluster x.i).yard j).isSome = true) ∧ (yr < 1024) ∧ (r.place =
    .running vcx) ∧ (aget s.ctxs vcx = some v) ∧ (v.range = some g) ∧ (v.csrs.kst = 0) ∧ (g.cur.toNat + 2 ≤ g.hi.toNat) ∧ (r.stack = 0) ∧ (mid =
    BitVec.ofNat 64 (g.cur.toNat + (g.hi.toNat - g.cur.toNat) / 2))) ∧
    (∃ (s : State) (x : EvArg), s.Happens x ∧ (x.i < 16) ∧ ((s.cluster x.i).inService = true) ∧ ((s.cluster x.i).drained = false) ∧ (bestWaiting s.cycle
    (s.cluster x.i).yard = none) ∧ (s.holds (x.i * 512 + x.j % 64 * 8) = false) ∧ (s.splitVictim x.i = none)) := by
  refine ⟨?_, ?_, ?_⟩
  · exact ⟨crowded, { j := 2 }, 0, 600, { place := .fresh {}, base := 1 }, {}, by unfold State.Happens; decide +kernel, by decide +kernel, by decide +kernel,
    by decide +kernel, crowded_full, by decide +kernel, crowded_victim, by decide +kernel⟩
  · exact ⟨splitting, {}, 0, 0, 8, 1, { kind := .range, place := .running 8 }, { range := some { hi := 2 } }, { hi := 2 }, _,
    by unfold State.Happens; decide +kernel,
    and6 (by decide +kernel)
      (and6 (by decide +kernel)
      (and6 (by decide +kernel)
      ⟨by decide +kernel, by decide +kernel, rfl⟩))⟩
  · exact ⟨ev {} (fun c => { c with inService := true }), {}, by unfold State.Happens; decide +kernel, by decide +kernel⟩

theorem witness_PlumbTokens :
    (∃ (s : State) (x : EvArg) (d what : Nat) (w : QueueWait), s.Happens x ∧ (x.i < 16) ∧ (s.waitsOn x.i x.j = some (d, what)) ∧ ((s.cluster x.i).waits =
    [])) ∧
    (∃ (s : State) (x : EvArg) (d what : Nat) (w : QueueWait), s.Happens x ∧ (x.i < 16) ∧ (s.waitsOn x.i x.j = some (d, what)) ∧ ((s.cluster x.i).waits =
    [w]) ∧ (w.src = x.j) ∧ (w.dst = d) ∧ (w.what = what) ∧ (w.since + 1024 ≤ s.cycle) ∧ ((s.cluster x.i).tokens = []) ∧ ((s.cluster x.i).grants = [])) := by
  refine ⟨?_, ?_⟩
  · exact ⟨full [], { j := 1 }, 4, 0, {}, by unfold State.Happens; decide +kernel, by decide +kernel, full_waits _, by decide +kernel⟩
  · exact ⟨full [{ src := 1, dst := 4 }], { j := 1 }, 4, 0, { src := 1, dst := 4 }, by unfold State.Happens; decide +kernel, by decide +kernel, full_waits _,
    by decide +kernel⟩

theorem witness_WaitsEnd :
    (∃ (s : State) (x : EvArg) (r : RStore) (z : Ctx), s.Happens x ∧ (x.i = 0) ∧ (s.rstores = [r]) ∧ (r.req = none) ∧ (r.done = false) ∧ (r.fill = []) ∧
    (r.more = none) ∧ (s.boot.stackStop = []) ∧ (s.poison = []) ∧ (s.ldfes = []) ∧ (s.ctxs = [(r.cx, z)]) ∧ (z.uid = r.uid) ∧ (∀ y ∈ s.yardOf r.cx,
    y.2.dying = false)) ∧
    (∃ (s : State) (x : EvArg) (z : Ctx) (w : WaitRec) (k : Nat), s.Happens x ∧ (aget s.ctxs x.i = some z) ∧ (z.wait = some w) ∧ (z.carry = none) ∧
    ((w.kind, k) ∈ [(WaitKind.source, 0), (.granule, 1), (.barv, 2), (.kwait, 3), (.fwait, 4), (.kset, 5)]) ∧ (z.ready = false) ∧ (8192 ≤ x.i ∨ (s.cluster
    (x.i / 512)).drained = false) ∧ (s.net.fwds = []) ∧ (2 ^ 32 ≤ w.base + (s.cycle - w.since)) ∧ s.Handles x.i) ∧
    (∃ (s : State) (x : EvArg) (z : Ctx) (w : WaitRec) (c : Cur), s.Happens x ∧ (aget s.ctxs x.i = some z) ∧ (z.wait = some w) ∧ z.NoStep ∧ (c = { cx := x.i, addr := w.pc, len := w.len })
    ∧ (w.kind = .kwait) ∧ ∃ K, (aget s.keystones z.csrs.kst.toNat = some K) ∧ (K.returned = K.issued)) ∧
    (∃ (s : State) (x : EvArg) (z : Ctx) (w : WaitRec) (c : Cur), s.Happens x ∧ (aget s.ctxs x.i = some z) ∧ (z.wait = some w) ∧ z.NoStep ∧ (c = { cx := x.i, addr := w.pc, len := w.len })
    ∧ ∃ n, (z.pause = .waiti (some n)) ∧ (n ≤ s.cycle)) ∧
    (∃ (s : State) (x : EvArg) (z : Ctx) (w : WaitRec) (c : Cur), s.Happens x ∧ (aget s.ctxs x.i = some z) ∧ (z.wait = some w) ∧ z.NoStep ∧ (c = { cx := x.i, addr := w.pc, len := w.len })
    ∧ ∃ n, (z.pause = .sleep n) ∧ (n ≤ s.cycle)) := by
  refine ⟨?_, ?_, ?_, ?_, ?_⟩
  · exact ⟨{ ev with rstores := [{}], ctxs := [(0, {})] }, {}, {}, {}, by unfold State.Happens; decide +kernel, by decide +kernel⟩
  · exact ⟨{ ev with ctxs := [(0, { ready := false, wait := some { kind := .barv } })], mem := [(33587200, 16)], cycle := 2 ^ 32 }, {},
    { ready := false, wait := some { kind := .barv } }, { kind := .barv }, 2, by unfold State.Happens; decide +kernel, by decide +kernel,
    by decide +kernel, by decide +kernel, (by simp), by decide +kernel, by decide +kernel, by decide +kernel, by decide +kernel,
    by unfold State.Handles; decide +kernel⟩
  · exact ⟨{ ev with ctxs := [(0, { wait := some { kind := .kwait } })], keystones := [(0, {})] }, {}, { wait := some { kind := .kwait } }, { kind := .kwait }, _,
    by unfold State.Happens; decide +kernel, by decide +kernel, by decide +kernel, by unfold Ctx.NoStep; decide +kernel, rfl, by decide +kernel, {},
    by decide +kernel⟩
  · exact ⟨{ ev with ctxs := [(0, { wait := some {}, pause := .waiti (some 0) })] }, {}, { wait := some {}, pause := .waiti (some 0) }, {}, _,
    by unfold State.Happens; decide +kernel, by decide +kernel, by decide +kernel, by unfold Ctx.NoStep; decide +kernel, rfl, 0, by decide +kernel⟩
  · exact ⟨{ ev with ctxs := [(0, { wait := some {}, pause := .sleep 0 })] }, {}, { wait := some {}, pause := .sleep 0 }, {}, _,
    by unfold State.Happens; decide +kernel, by decide +kernel, by decide +kernel, by unfold Ctx.NoStep; decide +kernel, rfl, 0, by decide +kernel⟩

theorem witness_Resets :
    (∃ (s : State) (x : EvArg), s.Happens x) ∧
    (∃ (s : State) (x : EvArg), s.Happens x ∧ (115 ≤ x.i) ∧ Powered s) ∧
    (∃ (s : State) (x : EvArg), s.Happens x ∧ (105 ≤ x.i) ∧ (x.i < 115) ∧ Alive s) ∧
    (∃ (s : State) (x : EvArg), s.Happens x ∧ (x.i < 100) ∧ (s.regs.thr = true) ∧ Alive s) := by
  refine ⟨?_, ?_, ?_, ?_⟩
  · exact ⟨ev, {}, by unfold State.Happens; decide +kernel⟩
  · exact ⟨ev { i := 115 }, { i := 115 }, by unfold State.Happens; decide +kernel, by decide +kernel, by unfold Powered; decide +kernel⟩
  · exact ⟨ev { i := 114 }, { i := 114 }, by unfold State.Happens; decide +kernel, by decide +kernel, by decide +kernel, by unfold Alive Powered; decide +kernel⟩
  · exact ⟨{ ev { i := 99 } with regs := { thr := true } }, { i := 99 }, by unfold State.Happens; decide +kernel, by decide +kernel, by decide +kernel,
    by unfold Alive Powered; decide +kernel⟩

theorem witness_BootStages :
    (∃ (s : State) (x : EvArg) (cl : Nat), s.Happens x ∧ (x.k = 0) ∧ (s.boot.stage = .rom) ∧ (s.boot.wiping = true)) ∧
    (∃ (s : State) (x : EvArg) (cl : Nat), s.Happens x ∧ (x.k ≠ 0) ∧ (x.i ∈ s.boot.stackWipe)) ∧
    (∃ (s : State) (x : EvArg) (cl : Nat), s.Happens x ∧ (s.boot.stage = .firmware) ∧ (x.img.kind = .service) ∧ Accepted s x.img) ∧
    (∃ (s : State) (x : EvArg) (cl : Nat), s.Happens x ∧ (s.boot.stage = .firmware) ∧ (¬ (x.img.kind = .service ∧ Accepted s x.img))) ∧
    (∃ (s : State) (x : EvArg) (cl : Nat), s.Happens x ∧ (s.boot.stage = .selfTest) ∧ (x.i < 16) ∧ (x.i ∉ s.boot.tested) ∧ (cl < 16) ∧ (x.j = 1) ∧ (∀ l ∈
    s.net.lanes, l.2.out = true → l.1 < 30)) ∧
    (∃ (s : State) (x : EvArg) (cl : Nat), s.Happens x ∧ (s.boot.stage = .selfTest) ∧ (x.i < 16) ∧ (x.i ∉ s.boot.tested) ∧ (cl < 16) ∧ (x.j ≠ 1) ∧
    (s.boot.tested.length < 15)) ∧
    (∃ (s : State) (x : EvArg) (cl : Nat), s.Happens x ∧ (s.boot.stage = .selfTest) ∧ (x.i < 16) ∧ (x.i ∉ s.boot.tested) ∧ (cl < 16) ∧ (x.j ≠ 1) ∧
    (s.boot.tested.length = 15) ∧ (s.clusBits = 0)) := by
  refine ⟨?_, ?_, ?_, ?_, ?_, ?_, ?_⟩
  · exact ⟨{ ev with boot := {} }, {}, 0, by unfold State.Happens; decide +kernel, by decide +kernel⟩
  · exact ⟨{ ev { k := 1 } with boot := { stackWipe := [0] } }, { k := 1 }, 0, by unfold State.Happens; decide +kernel, by decide +kernel⟩
  · exact ⟨{ ev { img := image .service } with boot := { wiping := false, stage := .firmware } }, { img := image .service }, 0,
    by unfold State.Happens; decide +kernel, by decide +kernel, by decide +kernel, accepted rfl⟩
  · exact ⟨{ ev with boot := { wiping := false, stage := .firmware } }, {}, 0, by unfold State.Happens; decide +kernel, by decide +kernel,
    fun h => absurd h.2.signed.1 (by decide +kernel)⟩
  · exact ⟨{ ev { j := 1 } with boot := { wiping := false, stage := .selfTest } }, { j := 1 }, 0, by unfold State.Happens; decide +kernel, by decide +kernel⟩
  · exact ⟨{ ev with boot := { wiping := false, stage := .selfTest, tested := List.range' 1 14 } }, {}, 0, by unfold State.Happens; decide +kernel,
    by decide +kernel⟩
  · exact ⟨{ ev with boot := { wiping := false, stage := .selfTest, tested := List.range' 1 15 } }, {}, 0, by unfold State.Happens; decide +kernel,
    by decide +kernel⟩

theorem witness_MemoryCoresStart :
    (∃ (s : State) (x : EvArg) (img : Image), s.Happens x ∧ (s.boot.stage = .sramService) ∧ (x.img.kind = .memoryCore) ∧ Accepted s x.img) ∧
    (∃ (s : State) (x : EvArg) (img : Image), s.Happens x ∧ (s.boot.stage = .sramService) ∧ (¬ (x.img.kind = .memoryCore ∧ Accepted s x.img))) ∧
    (∃ (s : State) (x : EvArg) (img : Image), s.Happens x ∧ (s.boot.mcFirmware = some img) ∧ (s.boot.stage = .stackTrain) ∧ (x.i < 12) ∧ (x.i ∉
    s.boot.trained) ∧ (s.boot.failed = []) ∧ (x.j = 1) ∧ (x.i ∉ s.boot.stackWipe)) ∧
    (∃ (s : State) (x : EvArg) (img : Image), s.Happens x ∧ (s.boot.mcFirmware = some img) ∧ (s.boot.stage = .stackTrain) ∧ (x.i < 12) ∧ (x.i ∉
    s.boot.trained) ∧ (s.boot.failed = []) ∧ (x.j ≠ 1)) ∧
    (∃ (s : State) (x : EvArg) (img : Image), s.Happens x ∧ (s.boot.stage = .linkTrain) ∧ (x.k = 0) ∧ (x.i < 6) ∧ (s.extentOf x.i < 2)) ∧
    (∃ (s : State) (x : EvArg) (img : Image), s.Happens x ∧ (s.boot.stage = .linkTrain) ∧ (x.k = 0) ∧ (x.i < 6) ∧ (2 ≤ s.extentOf x.i) ∧ ((s.net.link
    x.i).up = false) ∧ (∀ l ∈ s.net.lanes, l.1 / 4 = x.i → l.2.out = false) ∧ (x.j = 1)) ∧
    (∃ (s : State) (x : EvArg) (img : Image), s.Happens x ∧ (s.boot.stage = .linkTrain) ∧ (x.k = 0) ∧ (x.i < 6) ∧ (2 ≤ s.extentOf x.i) ∧ ((s.net.link
    x.i).up = false) ∧ (∀ l ∈ s.net.lanes, l.1 / 4 = x.i → l.2.out = false) ∧ (x.j ≠ 1)) ∧
    (∃ (s : State) (x : EvArg) (img : Image), s.Happens x ∧ ∃ g pos, (s.boot.stage = .linkTrain) ∧ (x.k = g + 1) ∧ (aget s.sys.gone g = some pos)) ∧
    (∃ (s : State) (x : EvArg) (img : Image), s.Happens x ∧ (s.boot.calibrating = true) ∧ (s.boot.stage ≠ .firmware) ∧ Alive s ∧ (x.j = 1)) ∧
    (∃ (s : State) (x : EvArg) (img : Image), s.Happens x ∧ (s.boot.calibrating = true) ∧ (s.boot.stage ≠ .firmware) ∧ Alive s ∧ (x.j ≠ 1)) ∧
    (∃ (s : State) (x : EvArg) (img : Image), s.Happens x ∧ (x.i < 12) ∧ (s.regs.capStacks.getLsbD x.i = true) ∧ (s.boot.stackStop = []) ∧ (x.img.kind =
    .memoryCore) ∧ Accepted s x.img) ∧
    (∃ (s : State) (x : EvArg) (img : Image), s.Happens x ∧ (s.boot.stackStop = [(x.i, img)]) ∧ (x.i < 12) ∧ (s.boot.failed = [])) := by
  refine ⟨?_, ?_, ?_, ?_, ?_, ?_, ?_, ?_, ?_, ?_, ?_, ?_⟩
  · exact ⟨{ ev { img := image .memoryCore } with boot := { wiping := false, stage := .sramService } }, { img := image .memoryCore }, {},
    by unfold State.Happens; decide +kernel, by decide +kernel, by decide +kernel, accepted rfl⟩
  · exact ⟨{ ev with boot := { wiping := false, stage := .sramService } }, {}, {}, by unfold State.Happens; decide +kernel, by decide +kernel,
    fun h => absurd h.2.signed.1 (by decide +kernel)⟩
  · exact ⟨{ ev { i := 11, j := 1 } with boot := { wiping := false, stage := .stackTrain, mcFirmware := some {} } }, { i := 11, j := 1 }, {},
    by unfold State.Happens; decide +kernel, by decide +kernel⟩
  · exact ⟨{ ev { i := 11 } with boot := { wiping := false, stage := .stackTrain, mcFirmware := some {} } }, { i := 11 }, {},
    by unfold State.Happens; decide +kernel, by decide +kernel⟩
  · exact ⟨{ ev { i := 5 } with boot := { wiping := false, stage := .linkTrain } }, { i := 5 }, {}, by unfold State.Happens; decide +kernel, by decide +kernel⟩
  · exact ⟨{ ev { j := 1 } with boot := { wiping := false, stage := .linkTrain }, sys := { ext := (2, 1, 1) } }, { j := 1 }, {},
    by unfold State.Happens; decide +kernel, by decide +kernel⟩
  · exact ⟨{ ev with boot := { wiping := false, stage := .linkTrain }, sys := { ext := (2, 1, 1) } }, {}, {}, by unfold State.Happens; decide +kernel,
    by decide +kernel⟩
  · exact ⟨{ ev { k := 1 } with boot := { wiping := false, stage := .linkTrain }, sys := { gone := [(0, (1, 0, 0))] } }, { k := 1 }, {},
    by unfold State.Happens; decide +kernel, 0, (1, 0, 0), by decide +kernel⟩
  · exact ⟨{ ev { j := 1 } with boot := { wiping := false, stage := .sramService } }, { j := 1 }, {}, by unfold State.Happens; decide +kernel, by decide +kernel,
    by decide +kernel, by unfold Alive Powered; decide +kernel, by decide +kernel⟩
  · exact ⟨{ ev with boot := { wiping := false, stage := .sramService } }, {}, {}, by unfold State.Happens; decide +kernel, by decide +kernel, by decide +kernel,
    by unfold Alive Powered; decide +kernel, by decide +kernel⟩
  · exact ⟨{ ev { img := image .memoryCore } with regs := { capStacks := 1 } }, { img := image .memoryCore }, {}, by unfold State.Happens; decide +kernel,
    by decide +kernel, by decide +kernel, by decide +kernel, by decide +kernel, accepted rfl⟩
  · exact ⟨{ ev with boot := { wiping := false, stackStop := [(0, {})] } }, {}, {}, by unfold State.Happens; decide +kernel, by decide +kernel⟩

theorem witness_LifeCycle :
    (∃ (s : State) (x : EvArg), s.Happens x ∧ Alive s ∧ (x.img.kind = .command) ∧ Accepted s x.img ∧ (s.fuses.lcs.toNat < x.img.request) ∧ (x.img.request ≤
    3)) ∧
    (∃ (s : State) (x : EvArg), s.Happens x ∧ Alive s ∧ (x.img.kind = .command) ∧ Accepted s x.img ∧ (x.img.request ≤ s.fuses.lcs.toNat)) ∧
    (∃ (s : State) (x : EvArg), s.Happens x ∧ Alive s ∧ (x.img.kind = .command) ∧ Accepted s x.img) := by
  refine ⟨?_, ?_, ?_⟩
  · exact ⟨ev { img := { image .command with request := 3 } }, { img := { image .command with request := 3 } }, by unfold State.Happens; decide +kernel,
    by unfold Alive Powered; decide +kernel, by decide +kernel, accepted rfl, by decide +kernel⟩
  · exact ⟨ev { img := image .command }, { img := image .command }, by unfold State.Happens; decide +kernel, by unfold Alive Powered; decide +kernel,
    by decide +kernel, accepted rfl, by decide +kernel⟩
  · exact ⟨ev { img := image .command }, { img := image .command }, by unfold State.Happens; decide +kernel, by unfold Alive Powered; decide +kernel,
    by decide +kernel, accepted rfl⟩

theorem witness_RegisterWrites :
    (∃ (s : State) (x : EvArg), s.Happens x ∧ Alive s ∧ ∃ row ∈ packageRegisters, (x.i = row.1)) ∧
    (∃ (s : State) (x : EvArg), s.Happens x ∧ Alive s ∧ ∃ row ∈ clusterRegisters, ∃ d j, (d < 4) ∧ (j < 4) ∧ (x.i = 0x10000 * (d + 1) + 0x1000 + 0x100 * j
    + row.1)) ∧
    (∃ (s : State) (x : EvArg), s.Happens x ∧ Alive s ∧ ∃ n < 16, (x.i = 0x108 + 32 * n)) ∧
    (∃ (s : State) (x : EvArg), s.Happens x ∧ Alive s ∧ ∃ d < 4, (x.i = 0x10000 * (d + 1) + 8)) ∧
    (∃ (s : State) (x : EvArg), s.Happens x ∧ Alive s ∧ ∃ d mx mn, (d < 4) ∧ (x.i = 0x10000 * (d + 1)) ∧ (mx = (if 14 < x.w.toNat / 2 ^ 8 % 32 then (s.die
    d).fmax else BitVec.ofNat 5 (x.w.toNat / 2 ^ 8))) ∧ (mn = (if 14 < x.w.toNat % 32 then (s.die d).fmin else BitVec.ofNat 5 x.w.toNat)) ∧ (mn.toNat ≤
    mx.toNat)) ∧
    (∃ (s : State) (x : EvArg), s.Happens x ∧ Alive s ∧ ∃ d mx mn, (d < 4) ∧ (x.i = 0x10000 * (d + 1)) ∧ (mx = (if 14 < x.w.toNat / 2 ^ 8 % 32 then (s.die
    d).fmax else BitVec.ofNat 5 (x.w.toNat / 2 ^ 8))) ∧ (mn = (if 14 < x.w.toNat % 32 then (s.die d).fmin else BitVec.ofNat 5 x.w.toNat)) ∧ (mx.toNat <
    mn.toNat)) := by
  refine ⟨?_, ?_, ?_, ?_, ?_, ?_⟩
  · exact ⟨ev, {}, by unfold State.Happens; decide +kernel, by unfold Alive Powered; decide +kernel, _, List.Mem.head _, by decide +kernel⟩
  · exact ⟨ev { i := 0x11000 }, { i := 0x11000 }, by unfold State.Happens; decide +kernel, by unfold Alive Powered; decide +kernel, _, List.Mem.head _, 0, 0,
    by decide +kernel⟩
  · exact ⟨ev { i := 0x108 + 32 * 15 }, { i := 0x108 + 32 * 15 }, by unfold State.Happens; decide +kernel, by unfold Alive Powered; decide +kernel, 15,
    by decide +kernel, by decide +kernel⟩
  · exact ⟨ev { i := 0x40008 }, { i := 0x40008 }, by unfold State.Happens; decide +kernel, by unfold Alive Powered; decide +kernel, 3, by decide +kernel,
    by decide +kernel⟩
  · exact ⟨ev { i := 0x40000, w := 0xE0E }, { i := 0x40000, w := 0xE0E }, by unfold State.Happens; decide +kernel, by unfold Alive Powered; decide +kernel, 3, 14,
    14, by decide +kernel⟩
  · exact ⟨ev { i := 0x40000, w := 0xE }, { i := 0x40000, w := 0xE }, by unfold State.Happens; decide +kernel, by unfold Alive Powered; decide +kernel, 3, 0, 14,
    by decide +kernel⟩

theorem witness_ServiceChanges :
    (∃ (s : State) (x : EvArg), s.Happens x ∧ Alive s ∧ (x.w.getLsbD 0 = true) ∧ (s.regs.full = false) ∧ (s.boot.copying = false) ∧ (∀ c < 16, (s.cluster
    c).inService = true → (s.cluster c).drained = true ∧ (s.cluster c).draining = false) ∧ (s.stackList ≠ [])) ∧
    (∃ (s : State) (x : EvArg), s.Happens x ∧ (x.w.getLsbD 0 = false ∨ (∃ c < 16, (s.cluster c).inService = true ∧ (s.cluster c).drained = false))) ∧
    (∃ (s : State) (x : EvArg), s.Happens x ∧ (s.boot.copying = true)) ∧
    (∃ (s : State) (x : EvArg), s.Happens x ∧ (x.i < 12) ∧ (s.regs.capStacks.getLsbD x.i = true) ∧ (x.i ∉ s.boot.retiring)) ∧
    (∃ (s : State) (x : EvArg), s.Happens x ∧ (x.i < 12) ∧ (x.i ∈ s.boot.retiring) ∧ (s.regs.full = true) ∧ (s.rstores = []) ∧ (∀ n < 8, (s.mcore (8 * x.i
    + n)).copies = [])) ∧
    (∃ (s : State) (x : EvArg), s.Happens x ∧ (x.i ∈ s.boot.ports) ∧ Alive s ∧ (x.w.toNat + x.data.length ≤ s.memTop) ∧ (s.poison = []) ∧ (s.boot.stackStop
    = [])) ∧
    (∃ (s : State) (x : EvArg), s.Happens x) := by
  refine ⟨?_, ?_, ?_, ?_, ?_, ?_, ?_⟩
  · exact ⟨{ ev { w := 1 } with regs := { capStacks := 1 } }, { w := 1 }, by unfold State.Happens; decide +kernel, by unfold Alive Powered; decide +kernel,
    by decide +kernel⟩
  · exact ⟨ev, {}, by unfold State.Happens; decide +kernel, Or.inl (by decide +kernel)⟩
  · exact ⟨{ ev with boot := { wiping := false, copying := true } }, {}, by unfold State.Happens; decide +kernel, by decide +kernel⟩
  · exact ⟨{ ev { i := 11 } with regs := { capStacks := 0x800 } }, { i := 11 }, by unfold State.Happens; decide +kernel, by decide +kernel⟩
  · exact ⟨{ ev with boot := { wiping := false, retiring := [0] }, regs := { full := true } }, {}, by unfold State.Happens; decide +kernel, by decide +kernel⟩
  · exact ⟨ev { i := 1, data := [0] }, { i := 1, data := [0] }, by unfold State.Happens; decide +kernel, by decide +kernel,
    by unfold Alive Powered; decide +kernel, by decide +kernel⟩
  · exact ⟨ev, {}, by unfold State.Happens; decide +kernel⟩

theorem witness_CarveOut :
    (∃ (s : State) (x : EvArg) (sl : Slice) (d : Die) (gf gc : Int), s.Happens x ∧ (x.i < 64) ∧ (s.regs.full = true) ∧ (sl = s.slice x.i) ∧ (d = s.die (x.i
    / 16)) ∧ (gf = (sl.fg : Int) - 384 * (sl.cl : Int)) ∧ (gc = 384 * (sl.cg : Int) - (sl.fl : Int)) ∧ (sl.sampled + 2 ^ 20 ≤ s.cycle) ∧ (d.frz = true ∨
    sl.moving = true ∨ (gf ≤ 0 ∧ gc ≤ 0))) ∧
    (∃ (s : State) (x : EvArg) (sl : Slice) (d : Die) (gf gc : Int), s.Happens x ∧ (x.i < 64) ∧ (s.regs.full = true) ∧ (sl = s.slice x.i) ∧ (d = s.die (x.i
    / 16)) ∧ (gf = (sl.fg : Int) - 384 * (sl.cl : Int)) ∧ (gc = 384 * (sl.cg : Int) - (sl.fl : Int)) ∧ (sl.sampled + 2 ^ 20 ≤ s.cycle) ∧ (d.frz = false) ∧
    (sl.moving = false) ∧ (0 < gf) ∧ (gc < gf) ∧ (d.fmin.toNat ≤ sl.fcur.toNat + 1) ∧ (sl.fcur.toNat + 1 ≤ d.fmax.toNat) ∧ (sl.fcur.toNat + 1 ≤ 14) ∧
    (s.pinsRefuse x.i = false)) ∧
    (∃ (s : State) (x : EvArg) (sl : Slice) (d : Die) (gf gc : Int), s.Happens x ∧ (x.i < 64) ∧ (s.regs.full = true) ∧ (sl = s.slice x.i) ∧ (d = s.die (x.i
    / 16)) ∧ (gf = (sl.fg : Int) - 384 * (sl.cl : Int)) ∧ (gc = 384 * (sl.cg : Int) - (sl.fl : Int)) ∧ (sl.sampled + 2 ^ 20 ≤ s.cycle) ∧ (d.frz = false) ∧
    (sl.moving = false) ∧ (0 < gf) ∧ (gc < gf) ∧ (d.fmin.toNat ≤ sl.fcur.toNat + 1) ∧ (sl.fcur.toNat + 1 ≤ d.fmax.toNat) ∧ (sl.fcur.toNat + 1 ≤ 14) ∧
    (s.pinsRefuse x.i = true)) ∧
    (∃ (s : State) (x : EvArg) (sl : Slice) (d : Die) (gf gc : Int), s.Happens x ∧ (x.i < 64) ∧ (s.regs.full = true) ∧ (sl = s.slice x.i) ∧ (d = s.die (x.i
    / 16)) ∧ (gf = (sl.fg : Int) - 384 * (sl.cl : Int)) ∧ (gc = 384 * (sl.cg : Int) - (sl.fl : Int)) ∧ (sl.sampled + 2 ^ 20 ≤ s.cycle) ∧ (d.frz = false) ∧
    (sl.moving = false) ∧ (0 < gc) ∧ (gf < gc) ∧ (1 ≤ sl.fcur.toNat) ∧ (d.fmin.toNat + 1 ≤ sl.fcur.toNat) ∧ (sl.fcur.toNat - 1 ≤ d.fmax.toNat)) ∧
    (∃ (s : State) (x : EvArg) (sl : Slice) (d : Die) (gf gc : Int), s.Happens x ∧ (x.i < 64) ∧ (s.regs.full = true) ∧ (sl = s.slice x.i) ∧ (d = s.die (x.i
    / 16)) ∧ (gf = (sl.fg : Int) - 384 * (sl.cl : Int)) ∧ (gc = 384 * (sl.cg : Int) - (sl.fl : Int)) ∧ (sl.moving = false) ∧ (sl.moved + 4096 ≤ s.cycle) ∧
    (sl.fcur.toNat < d.fmin.toNat) ∧ (s.pinsRefuse x.i = false)) ∧
    (∃ (s : State) (x : EvArg) (sl : Slice) (d : Die) (gf gc : Int), s.Happens x ∧ (x.i < 64) ∧ (s.regs.full = true) ∧ (sl = s.slice x.i) ∧ (d = s.die (x.i
    / 16)) ∧ (gf = (sl.fg : Int) - 384 * (sl.cl : Int)) ∧ (gc = 384 * (sl.cg : Int) - (sl.fl : Int)) ∧ (sl.moving = false) ∧ (sl.moved + 4096 ≤ s.cycle) ∧
    (d.fmax.toNat < sl.fcur.toNat) ∧ (d.fmin.toNat ≤ sl.fcur.toNat)) ∧
    (∃ (s : State) (x : EvArg) (sl : Slice) (d : Die) (gf gc : Int), s.Happens x ∧ (x.i < 64) ∧ (s.regs.full = true) ∧ (sl = s.slice x.i) ∧ (d = s.die (x.i
    / 16)) ∧ (gf = (sl.fg : Int) - 384 * (sl.cl : Int)) ∧ (gc = 384 * (sl.cg : Int) - (sl.fl : Int)) ∧ (sl.moving = true) ∧ (∀ f ∈ sl.frames, f.slot / 24
    < sl.target.toNat)) := by
  refine ⟨?_, ?_, ?_, ?_, ?_, ?_, ?_⟩
  · exact ⟨carved {} {} (2 ^ 20), {}, _, _, _, _, by unfold State.Happens; decide +kernel, by decide +kernel, by decide +kernel, rfl, rfl, rfl, rfl,
    by decide +kernel⟩
  · exact ⟨carved { fmax := 14 } { fcur := 13, fg := 2 ^ 32 } (2 ^ 20), {}, _, _, _, _, by unfold State.Happens; decide +kernel, by decide +kernel,
    by decide +kernel, rfl, rfl, rfl, rfl, by decide +kernel⟩
  · exact ⟨carved { fmax := 14 } { fcur := 13, fg := 2 ^ 32, retired := [14] } (2 ^ 20), {}, _, _, _, _, by unfold State.Happens; decide +kernel,
    by decide +kernel, by decide +kernel, rfl, rfl, rfl, rfl, by decide +kernel⟩
  · exact ⟨carved {} { fcur := 1, cg := 2 ^ 16 } (2 ^ 20), {}, _, _, _, _, by unfold State.Happens; decide +kernel, by decide +kernel, by decide +kernel, rfl,
    rfl, rfl, rfl, by decide +kernel⟩
  · exact ⟨carved { fmin := 1 } {} 4096, {}, _, _, _, _, by unfold State.Happens; decide +kernel, by decide +kernel, by decide +kernel, rfl, rfl, rfl, rfl,
    by decide +kernel⟩
  · exact ⟨carved {} { fcur := 1 } 4096, {}, _, _, _, _, by unfold State.Happens; decide +kernel, by decide +kernel, by decide +kernel, rfl, rfl, rfl, rfl,
    by decide +kernel⟩
  · exact ⟨carved {} { moving := true } 0, {}, _, _, _, _, by unfold State.Happens; decide +kernel, by decide +kernel, by decide +kernel, rfl, rfl, rfl, rfl,
    by decide +kernel⟩

theorem witness_RouteWindows :
    ∃ (s : State) (x : EvArg), s.Happens x ∧ (s.net.windowEnd + 4096 ≤ s.cycle) :=
  ⟨{ ev with cycle := 4096 }, {}, by unfold State.Happens; decide +kernel, by decide +kernel⟩

theorem witness_LinkErrors :
    (∃ (s : State) (x : EvArg) (l : Lane), s.Happens x ∧ (l = s.lane x.i) ∧ Alive s ∧ (l.training = false) ∧ (l.out = false) ∧ (l.badCrc < 7)) ∧
    (∃ (s : State) (x : EvArg) (l : Lane), s.Happens x ∧ (l = s.lane x.i) ∧ Alive s ∧ (l.training = false) ∧ (l.out = false) ∧ (7 ≤ l.badCrc)) ∧
    (∃ (s : State) (x : EvArg) (l : Lane), s.Happens x ∧ (l = s.lane x.i) ∧ Alive s ∧ (l.training = false) ∧ (l.out = false) ∧ (24 ≤ x.i)) ∧
    (∃ (s : State) (x : EvArg) (l : Lane), s.Happens x ∧ (l = s.lane x.i) ∧ Alive s ∧ (l.training = false) ∧ (l.out = false) ∧ (x.i < 24) ∧ (s.net.out =
    []) ∧ (s.net.wait = []) ∧ (s.net.back = []) ∧ (x.k ≠ 1)) ∧
    (∃ (s : State) (x : EvArg) (l : Lane), s.Happens x ∧ (l = s.lane x.i) ∧ Alive s ∧ (l.training = false) ∧ (l.out = false) ∧ (x.i < 24) ∧ (s.net.out =
    []) ∧ (s.net.wait = []) ∧ (s.net.back = []) ∧ (x.k = 1)) ∧
    (∃ (s : State) (x : EvArg) (l : Lane), s.Happens x ∧ (l = s.lane x.i) ∧ (l.training = true) ∧ (x.j = 1) ∧ (s.net.wait = [])) ∧
    (∃ (s : State) (x : EvArg) (l : Lane), s.Happens x ∧ (l = s.lane x.i) ∧ (l.training = true) ∧ (x.j ≠ 1) ∧ ((l.failures.filter (fun c => decide (s.cycle
    < c + 2 ^ 30))).length < 2)) ∧
    (∃ (s : State) (x : EvArg) (l : Lane), s.Happens x ∧ (l = s.lane x.i) ∧ (l.training = true) ∧ (x.j ≠ 1) ∧ (2 ≤ (l.failures.filter (fun c => decide
    (s.cycle < c + 2 ^ 30))).length) ∧ (x.i < 30) ∧ (s.net.out = []) ∧ (s.net.wait = [])) ∧
    (∃ (s : State) (x : EvArg) (l : Lane), s.Happens x ∧ (l = s.lane x.i) ∧ (l.training = true) ∧ (x.j ≠ 1) ∧ (2 ≤ (l.failures.filter (fun c => decide
    (s.cycle < c + 2 ^ 30))).length) ∧ (30 ≤ x.i)) := by
  refine ⟨?_, ?_, ?_, ?_, ?_, ?_, ?_, ?_, ?_⟩
  · exact ⟨{ ev with net := { lanes := [(0, { badCrc := 6 })] } }, {}, _, by unfold State.Happens; decide +kernel, rfl, by unfold Alive Powered; decide +kernel,
    by decide +kernel⟩
  · exact ⟨{ ev with net := { lanes := [(0, { badCrc := 7 })] } }, {}, _, by unfold State.Happens; decide +kernel, rfl, by unfold Alive Powered; decide +kernel,
    by decide +kernel⟩
  · exact ⟨ev { i := 24 }, { i := 24 }, _, by unfold State.Happens; decide +kernel, rfl, by unfold Alive Powered; decide +kernel, by decide +kernel⟩
  · exact ⟨ev, {}, _, by unfold State.Happens; decide +kernel, rfl, by unfold Alive Powered; decide +kernel, by decide +kernel⟩
  · exact ⟨ev { k := 1 }, { k := 1 }, _, by unfold State.Happens; decide +kernel, rfl, by unfold Alive Powered; decide +kernel, by decide +kernel⟩
  · exact ⟨{ ev { j := 1 } with net := { lanes := [(0, { training := true })] } }, { j := 1 }, _, by unfold State.Happens; decide +kernel, rfl, by decide +kernel⟩
  · exact ⟨{ ev with net := { lanes := [(0, { training := true, failures := [0] })] } }, {}, _, by unfold State.Happens; decide +kernel, rfl, by decide +kernel⟩
  · exact ⟨{ ev { i := 29 } with net := { lanes := [(29, { training := true, failures := [0, 0] })] } }, { i := 29 }, _, by unfold State.Happens; decide +kernel,
    rfl, by decide +kernel⟩
  · exact ⟨{ ev { i := 30 } with net := { lanes := [(30, { training := true, failures := [0, 0] })] } }, { i := 30 }, _, by unfold State.Happens; decide +kernel,
    rfl, by decide +kernel⟩

theorem witness_ErrorsFound :
    (∃ (s : State) (x : EvArg) (a : Nat), s.Happens x ∧ Alive s ∧ (a = x.err.addr) ∧ (x.err.unit = .hbm) ∧ (x.err.corrected = true) ∧ (a < s.memTop) ∧
    (s.regs.full = true) ∧ ((s.bank (5 * 8192 + s.stackOf a)) = (0, 0, 0, 0)) ∧ (s.log.fixes = [])) ∧
    (∃ (s : State) (x : EvArg) (a : Nat), s.Happens x ∧ Alive s ∧ (a = x.err.addr) ∧ (x.err.unit = .hbm) ∧ (x.err.corrected = false) ∧ (a < s.memTop) ∧
    (s.regs.full = true)) ∧
    (∃ (s : State) (x : EvArg) (a : Nat), s.Happens x ∧ Alive s ∧ (a = x.err.addr) ∧ ∃ core < 1024, (x.err.unit = .window core) ∧ (x.err.corrected = false)
    ∧ (windowKey core 0 0 ≤ a) ∧ (a < windowKey core 0 0 + 2 ^ 20)) ∧
    (∃ (s : State) (x : EvArg) (a : Nat), s.Happens x ∧ Alive s ∧ (a = x.err.addr) ∧ ∃ cl < 16, (x.err.unit = .masonStore cl) ∧ (x.err.corrected = false)) := by
  refine ⟨?_, ?_, ?_, ?_⟩
  · exact ⟨{ ev { err := { unit := .hbm, corrected := true } } with regs := { full := true, capStacks := 1 } }, { err := { unit := .hbm, corrected := true } }, _,
    by unfold State.Happens; decide +kernel, by unfold Alive Powered; decide +kernel, rfl, by decide +kernel⟩
  · exact ⟨{ ev { err := { unit := .hbm, corrected := false, addr := 2 ^ 36 - 1 } } with regs := { full := true, capStacks := 1 } },
    { err := { unit := .hbm, corrected := false, addr := 2 ^ 36 - 1 } }, _, by unfold State.Happens; decide +kernel,
    by unfold Alive Powered; decide +kernel, rfl, by decide +kernel⟩
  · exact ⟨ev { err := { unit := .window 0, corrected := false, addr := windowBase } }, { err := { unit := .window 0, corrected := false, addr := windowBase } },
    _, by unfold State.Happens; decide +kernel, by unfold Alive Powered; decide +kernel, rfl, 0, by decide +kernel, by decide +kernel⟩
  · exact ⟨ev { err := { unit := .masonStore 0, corrected := false } }, { err := { unit := .masonStore 0, corrected := false } }, _,
    by unfold State.Happens; decide +kernel, by unfold Alive Powered; decide +kernel, rfl, 0, by decide +kernel, by decide +kernel⟩

theorem witness_UnitsLeave :
    (∃ (s : State) (x : EvArg), s.Happens x ∧ (x.i < 96) ∧ ((s.mcore x.i).inService = true) ∧ ((s.mcore x.i).copies = []) ∧ (s.rstores = [])) ∧
    (∃ (s : State) (x : EvArg), s.Happens x ∧ (x.i < 4) ∧ ((s.die x.i).joinUp = true) ∧ ((s.die x.i).groups = [])) ∧
    (∃ (s : State) (x : EvArg), s.Happens x ∧ ∃ g, (x.i < 4) ∧ ((s.die x.i).joinUp = true) ∧ ((s.die x.i).groups = [g]) ∧ NoneSuspended s) ∧
    (∃ (s : State) (x : EvArg), s.Happens x ∧ (x.i < 16) ∧ ((s.cluster x.i).inService = true) ∧ (s.launches = []) ∧ (s.running x.i = []) ∧ ((s.cluster
    x.i).yard = []) ∧ ((s.cluster x.i).cellar = []) ∧ ((s.cluster x.i).streams.ctxs = []) ∧ ((s.cluster x.i).events.queue = []) ∧ (s.rstores = [])) ∧
    (∃ (s : State) (x : EvArg), s.Happens x ∧ (s.holds x.i = true) ∧ ((s.ctx x.i).drain = false)) ∧
    (∃ (s : State) (x : EvArg), s.Happens x ∧ ∃ f, (x.i = 0) ∧ (s.caches.fills = [f]) ∧ (f.die < 4) ∧ (f.line < 2 ^ 33) ∧ (f.stream = false) ∧
    (s.boot.stackStop = []) ∧ (s.regs.full = true) ∧ (s.caches.l1 = []) ∧ (s.caches.l1dead = []) ∧ (s.caches.l2 = []) ∧ (s.caches.home = []) ∧ (∀ e p,
    s.frameOf e p = none) ∧ (∀ n, (s.slice n).retired = [] ∧ (s.slice n).fcur.toNat ≤ 14 ∧ (s.slice n).moving = false)) := by
  refine ⟨?_, ?_, ?_, ?_, ?_, ?_⟩
  · exact ⟨{ ev with mcores := [(0, { inService := true })] }, {}, by unfold State.Happens; decide +kernel, by decide +kernel⟩
  · exact ⟨ev { i := 3 }, { i := 3 }, by unfold State.Happens; decide +kernel, by decide +kernel⟩
  · exact ⟨{ ev with dies := State.reset.dies.set 0 { groups := [{ word := some 0 }] } }, {}, by unfold State.Happens; decide +kernel, { word := some 0 },
    by decide +kernel, by decide +kernel, by decide +kernel, by unfold NoneSuspended; decide +kernel⟩
  · exact ⟨ev {} (fun c => { c with inService := true }), {}, by unfold State.Happens; decide +kernel, by decide +kernel⟩
  · exact ⟨{ ev with ctxs := [(0, {})] }, {}, by unfold State.Happens; decide +kernel, by decide +kernel⟩
  · exact ⟨{ ev with caches := { fills := [{ die := 3, line := 2 ^ 33 - 1 }] }, regs := { full := true } }, {}, by unfold State.Happens; decide +kernel,
    { die := 3, line := 2 ^ 33 - 1 },
    and6 (by decide +kernel)
      ⟨by decide +kernel, by decide +kernel, by decide +kernel, by decide +kernel, by decide +kernel, noFrames rfl, newWays rfl⟩⟩

theorem witness_IllegalEncodings :
    ∃ (s : State) (c : Cur), (s.cur = .core c) ∧ (s.holds c.cx = true) ∧ s.Handles c.cx :=
  ⟨st, c0, by decide +kernel, by decide +kernel, by unfold State.Handles; decide +kernel⟩

theorem witness_RemoteLines :
    (∃ (s : State) (x : EvArg) (p : Packet), Here s p ∧ (Arrives s x p 0x01)) ∧
    (∃ (s : State) (x : EvArg) (p : Packet), Here s p ∧ (Arrives s x p 0x02) ∧ (word p 18 ≠ 1) ∧ (word p 19 = 0)) ∧
    (∃ (s : State) (x : EvArg) (p : Packet), Here s p ∧ (Arrives s x p 0x03) ∧ (p.payload.length ≠ 7) ∧ (word p 3 ≠ 1) ∧ (word p 4 ≠ 1) ∧ ∃ k, (k = p.line
    + 8 * (word p 0 % 16))) := by
  refine ⟨?_, ?_, ?_⟩
  · exact ⟨arr { spkg := 1, op := 1 }, { pkt := { spkg := 1, op := 1 } }, { spkg := 1, op := 1 },
    here (by decide +kernel) (by decide +kernel) rfl (by decide +kernel), arrives [0] (by decide +kernel) (by decide +kernel) (by decide +kernel)⟩
  · exact ⟨arr { spkg := 1, op := 2, len := 3 }, { pkt := { spkg := 1, op := 2, len := 3 } }, { spkg := 1, op := 2, len := 3 },
    here (by decide +kernel) (by decide +kernel) rfl (by decide +kernel), arrives [3] (by decide +kernel) (by decide +kernel) (by decide +kernel),
    by decide +kernel⟩
  · exact ⟨arr { spkg := 1, op := 3, len := 1 }, { pkt := { spkg := 1, op := 3, len := 1 } }, { spkg := 1, op := 3, len := 1 },
    here (by decide +kernel) (by decide +kernel) rfl (by decide +kernel), arrives [1] (by decide +kernel) (by decide +kernel) (by decide +kernel),
    by decide +kernel, by decide +kernel, by decide +kernel, _, rfl⟩

theorem witness_RemoteAtomics :
    ∃ row ∈ remoteAtomics, ∃ (s : State) (x : EvArg) (p : Packet) (off w old : Nat), (Arrives s x p 0x04) ∧ Here s p ∧ (s.ldfes = []) ∧ (off = word p 0) ∧
    (word p 1 = row.1) ∧ (w = word p 2) ∧ (0 < w) ∧ (off + w ≤ 64) ∧ (word p 4 < 2 ^ w) ∧ (old = (s.phys p.line).toNat / 2 ^ off % 2 ^ w) :=
  ⟨_, List.Mem.head _, arr atom, { pkt := atom }, atom, _, _, _, arrives [1] (by decide +kernel) (by decide +kernel) (by decide +kernel),
    here (by decide +kernel) (by decide +kernel) rfl (by decide +kernel), by decide +kernel, rfl, by decide +kernel, rfl, by decide +kernel,
    by decide +kernel, by decide +kernel, rfl⟩

theorem witness_PacketEffects :
    (∃ (s : State) (x : EvArg) (p : Packet), (Arrives s x p 0x05) ∧ (s.regs.hotbTbl = false)) ∧
    (∃ (s : State) (x : EvArg) (p : Packet), (Arrives s x p 0x05) ∧ (s.regs.hotbTbl = true) ∧ (s.boot.stackStop = []) ∧ ∃ f q, (f = word p 0 % 2 ^ 24) ∧ (q
    = word p 1 % 10) ∧ ((hotness s f).testBit 306 = false) ∧ (s.cycle - hotness s f / 2 ^ 256 % 2 ^ 48 < 2 ^ 24)) ∧
    (∃ (s : State) (x : EvArg) (p : Packet), (Arrives s x p 0x06) ∧ (p.payload.length = 2) ∧ (s.regs.hotbTbl = true)) ∧
    (∃ (s : State) (x : EvArg) (p : Packet), (Arrives s x p 0x06) ∧ (s.boot.stackStop = []) ∧ (3 < p.payload.length) ∧ (word p 0 + 128 ≤ s.memTop) ∧
    (p.payload.getD 17 0 = 0)) ∧
    (∃ (s : State) (x : EvArg) (p : Packet), ∃ f, (Arrives s x p 0x08) ∧ (s.moves = []) ∧ (s.net.fwds = [f]) ∧ (f.id = p.name) ∧ (f.lost = false) ∧ (f.resp
    = none) ∧ (f.drop = none)) ∧
    (∃ (s : State) (x : EvArg) (p : Packet), ∃ (r : RStore) (z : Ctx), (Arrives s x p 0x09) ∧ (p.dagt < 0x4A0) ∧ (s.moves = []) ∧ (s.net.fwds = []) ∧
    (s.rstores = [r]) ∧ (r.req = some p.name) ∧ (s.ctxs = [(r.cx, z)]) ∧ (z.uid = r.uid) ∧ (∀ y ∈ s.yardOf r.cx, y.2.dying = false)) := by
  refine ⟨?_, ?_, ?_, ?_, ?_, ?_⟩
  · exact ⟨arr { spkg := 1, op := 5, len := 1 }, { pkt := { spkg := 1, op := 5, len := 1 } }, { spkg := 1, op := 5, len := 1 },
    arrives [1] (by decide +kernel) (by decide +kernel) (by decide +kernel), by decide +kernel⟩
  · exact ⟨{ arr { spkg := 1, op := 5, len := 1 } with regs := { hotbTbl := true } }, { pkt := { spkg := 1, op := 5, len := 1 } },
    { spkg := 1, op := 5, len := 1 }, arrives [1] (by decide +kernel) (by decide +kernel) (by decide +kernel), by decide +kernel, by decide +kernel, _, _,
    rfl, rfl, by decide +kernel⟩
  · exact ⟨{ arr { spkg := 1, op := 6, len := 1, payload := [0, 0] } with regs := { hotbTbl := true } },
    { pkt := { spkg := 1, op := 6, len := 1, payload := [0, 0] } }, { spkg := 1, op := 6, len := 1, payload := [0, 0] },
    arrives [1, 2] (by decide +kernel) (by decide +kernel) (by decide +kernel), by decide +kernel⟩
  · exact ⟨arr { spkg := 1, op := 6, len := 2, payload := List.replicate 17 0 }, { pkt := { spkg := 1, op := 6, len := 2, payload := List.replicate 17 0 } },
    { spkg := 1, op := 6, len := 2, payload := List.replicate 17 0 }, arrives [1, 2] (by decide +kernel) (by decide +kernel) (by decide +kernel),
    by decide +kernel⟩
  · exact ⟨{ arr { spkg := 1, op := 8, len := 1, cls := 1 } with net := { joined with fwds := [{}] } }, { pkt := { spkg := 1, op := 8, len := 1, cls := 1 } },
    { spkg := 1, op := 8, len := 1, cls := 1 }, {}, arrives [1, 2] (by decide +kernel) (by decide +kernel) (by decide +kernel), by decide +kernel⟩
  · exact ⟨{ arr { spkg := 1, op := 9, cls := 1 } with rstores := [{ req := some 0 }], ctxs := [(0, {})] }, { pkt := { spkg := 1, op := 9, cls := 1 } },
    { spkg := 1, op := 9, cls := 1 }, { req := some 0 }, {}, arrives [0] (by decide +kernel) (by decide +kernel) (by decide +kernel), by decide +kernel⟩

theorem witness_PacketOrder :
    (∃ (s : State) (x : EvArg) (p : Packet), s.Happens x ∧ (x.pkt = p) ∧ Alive s ∧ (p.spkg ≠ s.sys.self) ∧ (s.knows p.spkg = true) ∧ (p.dpkg = s.sys.self)
    ∧ (p.ph = false) ∧ (p.op = 0x02) ∧ (p.cls = 0) ∧ (p.len = 3) ∧ ∃ f, (f = s.flowOf p) ∧ (0 < (BitVec.ofNat 16 p.seq - f.next).toNat) ∧ ((BitVec.ofNat
    16 p.seq - f.next).toNat < 2 ^ 15) ∧ (∀ q ∈ f.held, q.seq ≠ p.seq)) ∧
    (∃ (s : State) (x : EvArg) (p : Packet), s.Happens x ∧ (x.pkt = p) ∧ Alive s ∧ (p.spkg ≠ s.sys.self) ∧ (s.knows p.spkg = true) ∧ (p.dpkg = s.sys.self)
    ∧ (p.ph = false) ∧ (p.cls = 1) ∧ (p.op = 0 ∨ 0x16 < p.op)) ∧
    (∃ (s : State) (x : EvArg) (p : Packet), s.Happens x ∧ (x.pkt = p) ∧ Alive s ∧ (p.spkg ≠ s.sys.self) ∧ (s.knows p.spkg = true)) := by
  refine ⟨?_, ?_, ?_⟩
  · exact ⟨arr { spkg := 1, op := 2, len := 3, seq := 2 ^ 15 - 1 }, { pkt := { spkg := 1, op := 2, len := 3, seq := 2 ^ 15 - 1 } },
    { spkg := 1, op := 2, len := 3, seq := 2 ^ 15 - 1 }, by unfold State.Happens; decide +kernel, by decide +kernel,
    by unfold Alive Powered; decide +kernel, and6 (by decide +kernel)
      ⟨by decide +kernel, _, rfl, by decide +kernel⟩⟩
  · exact ⟨arr { spkg := 1, cls := 1, op := 0x17 }, { pkt := { spkg := 1, cls := 1, op := 0x17 } }, { spkg := 1, cls := 1, op := 0x17 },
    by unfold State.Happens; decide +kernel, by decide +kernel, by unfold Alive Powered; decide +kernel, by decide +kernel⟩
  · exact ⟨arr { spkg := 1 }, { pkt := { spkg := 1 } }, { spkg := 1 }, by unfold State.Happens; decide +kernel, by decide +kernel,
    by unfold Alive Powered; decide +kernel, by decide +kernel⟩

theorem witness_MigrationArrives :
    (∃ (s : State) (x : EvArg) (p : Packet), (Arrives s x p 0x10) ∧ (s.innOf p = none) ∧ (s.net.out.length + s.net.gone.length < 2 ^ 15) ∧ (s.net.back =
    []) ∧ (s.mostRoom = none)) ∧
    (∃ (s : State) (x : EvArg) (p : Packet), (Arrives s x p 0x10) ∧ (s.innOf p = none) ∧ (s.net.out.length + s.net.gone.length < 2 ^ 15) ∧ (s.net.back =
    []) ∧ ∃ cl k, (s.mostRoom = some cl) ∧ (cl < 16) ∧ ((s.cluster cl).streams.freeSlot = some k)) ∧
    (∃ (s : State) (x : EvArg) (p : Packet) (cl a : Nat) (m : MigDst), (s.innOf p = some (cl, m)) ∧ (cl < 16) ∧ ((s.cluster cl).streams.inn = [m]) ∧
    (s.boot.stackStop = []) ∧ (Arrives s x p 0x13) ∧ (aget m.nodes (word p 0 / 2 ^ 16 % 2 ^ 16) = some a)) ∧
    (∃ (s : State) (x : EvArg) (p : Packet) (cl a : Nat) (m : MigDst), (s.innOf p = some (cl, m)) ∧ (cl < 16) ∧ ((s.cluster cl).streams.inn = [m]) ∧
    (s.boot.stackStop = []) ∧ (Arrives s x p 0x14) ∧ (aget m.pages (word p 0 % 2 ^ 18) = some a) ∧ (p.payload.getD 17 0 = 0) ∧ ∃ b, (b = a + 128 * (word p
    0 / 2 ^ 20 % 2 ^ 9))) ∧
    (∃ (s : State) (x : EvArg) (p : Packet) (cl a : Nat) (m : MigDst), (s.innOf p = some (cl, m)) ∧ (cl < 16) ∧ ((s.cluster cl).streams.inn = [m]) ∧
    (s.boot.stackStop = []) ∧ (Arrives s x p 0x15)) ∧
    (∃ (s : State) (x : EvArg) (p : Packet) (cl a : Nat) (m : MigDst), (s.innOf p = some (cl, m)) ∧ (cl < 16) ∧ ((s.cluster cl).streams.inn = [m]) ∧
    (s.boot.stackStop = []) ∧ (Arrives s x p 0x16) ∧ (m.installed = true)) := by
  refine ⟨?_, ?_, ?_, ?_, ?_, ?_⟩
  · exact ⟨arr { spkg := 1, op := 16, len := 1, cls := 2 }, { pkt := { spkg := 1, op := 16, len := 1, cls := 2 } }, { spkg := 1, op := 16, len := 1, cls := 2 },
    arrives [1] (by decide +kernel) (by decide +kernel) (by decide +kernel), by decide +kernel⟩
  · exact ⟨arr { spkg := 1, op := 16, len := 1, cls := 2 } (fun c => { c with inService := true }), { pkt := { spkg := 1, op := 16, len := 1, cls := 2 } },
    { spkg := 1, op := 16, len := 1, cls := 2 }, arrives [1] (by decide +kernel) (by decide +kernel) (by decide +kernel), by decide +kernel,
    by decide +kernel, by decide +kernel, 0, 0, by decide +kernel⟩
  · exact ⟨inbound { spkg := 1, op := 19, len := 3, cls := 2 } { pkg := 1, nodes := [(0, 0x1000)] }, { pkt := { spkg := 1, op := 19, len := 3, cls := 2 } },
    { spkg := 1, op := 19, len := 3, cls := 2 }, 0, 0x1000, { pkg := 1, nodes := [(0, 0x1000)] }, by decide +kernel, by decide +kernel, by decide +kernel,
    by decide +kernel, arrives [3] (by decide +kernel) (by decide +kernel) (by decide +kernel), by decide +kernel⟩
  · exact ⟨inbound { spkg := 1, op := 20, len := 3, cls := 2 } { pkg := 1, pages := [(0, 0x10000)] }, { pkt := { spkg := 1, op := 20, len := 3, cls := 2 } },
    { spkg := 1, op := 20, len := 3, cls := 2 }, 0, 0x10000, { pkg := 1, pages := [(0, 0x10000)] }, by decide +kernel, by decide +kernel,
    by decide +kernel, by decide +kernel, arrives [3] (by decide +kernel) (by decide +kernel) (by decide +kernel), by decide +kernel, by decide +kernel, _,
    rfl⟩
  · exact ⟨inbound { spkg := 1, op := 21, cls := 2 } { pkg := 1 }, { pkt := { spkg := 1, op := 21, cls := 2 } }, { spkg := 1, op := 21, cls := 2 }, 0, 0,
    { pkg := 1 }, by decide +kernel, by decide +kernel, by decide +kernel, by decide +kernel,
    arrives [0] (by decide +kernel) (by decide +kernel) (by decide +kernel)⟩
  · exact ⟨inbound { spkg := 1, op := 22, cls := 2 } { pkg := 1, installed := true }, { pkt := { spkg := 1, op := 22, cls := 2 } },
    { spkg := 1, op := 22, cls := 2 }, 0, 0, { pkg := 1, installed := true }, by decide +kernel, by decide +kernel, by decide +kernel, by decide +kernel,
    arrives [0] (by decide +kernel) (by decide +kernel) (by decide +kernel), by decide +kernel⟩

theorem witness_MigrationLeaves :
    (∃ (s : State) (x : EvArg) (p : Packet) (cl : Nat) (m : MigSrc) (u : StreamCtx), (cl < 16) ∧ (p.dagt = 0x4A0 + cl) ∧ ((s.cluster cl).streams.out = [m])
    ∧ (m.pkg = p.spkg) ∧ (m.name = p.name) ∧ (m.accepted = false) ∧ (m.rights.cx < 8192) ∧ (aget (s.cluster cl).streams.ctxs m.slot = some u) ∧ (Arrives s
    x p 0x12) ∧ NoneSuspended s) ∧
    (∃ (s : State) (x : EvArg) (p : Packet) (cl : Nat) (m : MigSrc) (u : StreamCtx), (cl < 16) ∧ (p.dagt = 0x4A0 + cl) ∧ ((s.cluster cl).streams.out = [m])
    ∧ (m.pkg = p.spkg) ∧ (m.name = p.name) ∧ (m.accepted = false) ∧ (m.rights.cx < 8192) ∧ (aget (s.cluster cl).streams.ctxs m.slot = some u) ∧ (Arrives s
    x p 0x11) ∧ (s.rstores = []) ∧ (s.boot.stackStop = []) ∧ (s.badTree u.root = none)) ∧
    (∃ (s : State) (x : EvArg) (m : MigSrc) (u : StreamCtx), s.Happens x ∧ (x.i < 16) ∧ (x.j = 0) ∧ ((s.cluster x.i).streams.out = [m]) ∧ (m.acked = false)
    ∧ (m.sent + 2 ^ 24 ≤ s.cycle) ∧ (m.rights.cx < 8192) ∧ NoneSuspended s ∧ (aget (s.cluster x.i).streams.ctxs m.slot = some u)) := by
  refine ⟨?_, ?_, ?_⟩
  · exact ⟨arr { spkg := 1, op := 18, cls := 2, dagt := 0x4A0 } (fun c => { c with streams := { out := [{ pkg := 1 }], ctxs := [(0, {})] } }),
    { pkt := { spkg := 1, op := 18, cls := 2, dagt := 0x4A0 } }, { spkg := 1, op := 18, cls := 2, dagt := 0x4A0 }, 0, { pkg := 1 }, {},
    and6 (by decide +kernel)
      ⟨by decide +kernel, by decide +kernel, arrives [0] (by decide +kernel) (by decide +kernel) (by decide +kernel), by unfold NoneSuspended; decide +kernel⟩⟩
  · exact ⟨arr { spkg := 1, op := 17, len := 1, cls := 2, dagt := 0x4A0 } (fun c => { c with streams := { out := [{ pkg := 1 }], ctxs := [(0, {})] } }),
    { pkt := { spkg := 1, op := 17, len := 1, cls := 2, dagt := 0x4A0 } }, { spkg := 1, op := 17, len := 1, cls := 2, dagt := 0x4A0 }, 0, { pkg := 1 }, {},
    and6 (by decide +kernel)
      ⟨by decide +kernel, by decide +kernel, arrives [1] (by decide +kernel) (by decide +kernel) (by decide +kernel), by decide +kernel⟩⟩
  · exact ⟨{ ev {} (fun c => { c with streams := { out := [{}], ctxs := [(0, {})] } }) with cycle := 2 ^ 24 }, {}, {}, {},
    by unfold State.Happens; decide +kernel, and6 (by decide +kernel)
      ⟨by unfold NoneSuspended; decide +kernel, by decide +kernel⟩⟩

theorem witness_OwnersLost :
    (∃ (s : State) (x : EvArg) (f : Fwd), s.Happens x ∧ (x.i = 0) ∧ (x.j = 0) ∧ (s.net.fwds = [f]) ∧ (f.resp = none) ∧ (f.lost = false) ∧ (f.drop = none) ∧
    (f.sent + 2 ^ 24 ≤ s.cycle) ∧ (f.cx < 8192)) ∧
    (∃ (s : State) (x : EvArg) (r : RStore) (z : Ctx), s.Happens x ∧ (x.i = 0) ∧ (x.j = 1) ∧ (s.rstores = [r]) ∧ (r.req.isSome = true) ∧ (r.sent + 2 ^ 24 ≤
    s.cycle) ∧ (s.ctxs = [(r.cx, z)]) ∧ (z.uid = r.uid) ∧ (r.cx < 8192) ∧ (∀ y ∈ s.yardOf r.cx, y.2.dying = false)) ∧
    (∃ (s : State) (x : EvArg) (pos : Nat × Nat × Nat), s.Happens x ∧ (x.i ≠ s.sys.self) ∧ (aget s.sys.others x.i = some pos) ∧ (s.net.fwds = []) ∧
    (s.rstores = []) ∧ (s.moves = []) ∧ (∀ cl < 16, (s.cluster cl).streams.out = [] ∧ (s.cluster cl).streams.inn = []) ∧ (s.net.back = [])) := by
  refine ⟨?_, ?_, ?_⟩
  · exact ⟨{ ev with net := { fwds := [{}] }, cycle := 2 ^ 24 }, {}, {}, by unfold State.Happens; decide +kernel, by decide +kernel⟩
  · exact ⟨{ ev { j := 1 } with rstores := [{ req := some 0 }], ctxs := [(0, {})], cycle := 2 ^ 24 }, { j := 1 }, { req := some 0 }, {},
    by unfold State.Happens; decide +kernel, by decide +kernel⟩
  · exact ⟨{ ev { i := 1 } with sys := { others := [(1, (1, 0, 0))] } }, { i := 1 }, (1, 0, 0), by unfold State.Happens; decide +kernel, by decide +kernel⟩

theorem witness_RoundTrip :
    (∃ (i : Instr) (ws : List IWord), (i.wellFormed = true) ∧ (encode i = some ws)) ∧
    (∃ (i : Instr) (w : Word), (i.wellFormed = true) ∧ (encodeMicro i = some w)) ∧
    (∃ i : Instr, (i.wellFormed = true) ∧ (i ∉ deviceEvents) ∧ (∀ m, i ∉ micros m)) ∧
    (∃ (m : Micro), ∃ i ∈ micros m, (i.wellFormed = true)) := by
  refine ⟨?_, ?_, ?_, ?_⟩
  · exact ⟨.nop, [0xE00B], by decide +kernel⟩
  · exact ⟨.mend, microWord 0x12 {}, by decide +kernel⟩
  · exact ⟨.nop, by decide +kernel, by decide +kernel, fun m h => by simp [micros] at h⟩
  · exact ⟨{}, _, List.Mem.head _, by decide +kernel⟩

theorem witness_ReservedChains :
    (∃ (a b c d e : IWord) (ws : List IWord), (∀ w ∈ [a, b, c, d, e], isPrefixWord w = true)) ∧
    (∃ (p q : BitVec 10) (w : IWord) (ws : List IWord), (isPrefixWord w = false)) ∧
    (∃ (p q : BitVec 9) (w : IWord) (ws : List IWord), (isPrefixWord w = false)) ∧
    (∃ (p : BitVec 10) (w : IWord) (ws : List IWord), (isPrefixWord w = false) ∧ (p = 0 ∨ 17 < p.toNat)) ∧
    (∃ (p : BitVec 10) (v : BitVec 9) (w : IWord) (ws : List IWord), (isPrefixWord w = false) ∧ (1 ≤ p.toNat) ∧ (p.toNat ≤ 17) ∧ (¬ (9 ≤ p.toNat ∧ p.toNat
    ≤ 13))) := by
  refine ⟨?_, ?_, ?_, ?_, ?_⟩
  · exact ⟨0xF000, 0xF000, 0xF000, 0xF000, 0xF000, [], (by intro w h; simp only [List.mem_cons, List.not_mem_nil, or_false, or_self] at h; subst h; decide)⟩
  · exact ⟨0, 0, 0xE00B, [], by decide +kernel⟩
  · exact ⟨0, 0, 0xE00B, [], by decide +kernel⟩
  · exact ⟨18, 0xE00B, [], by decide +kernel⟩
  · exact ⟨8, 0, 0xE00B, [], by decide +kernel⟩

theorem witness_StepRunsTheDecodedInstruction :
    ∃ (s s' : State) (cx : Nat) (ts : List Turn) (ws : List IWord) (i : Instr) (n : Nat), (s.agenda = .issue cx :: ts) ∧ Turns s cx ∧ (State.fetchWords cx
    5 (turnTaken s ts) (s.ctx cx).pc [] = .words s' ws) ∧ (decode ws = .ok i n) :=
  ⟨State.reset.withFetchWord 16 0xE00B, (wordsOf (fetched 0xE00B)).1, 0, [], (wordsOf (fetched 0xE00B)).2, .nop, 1, by decide +kernel,
    turns0 (by decide +kernel), words_eq (by decide +kernel), decode_eq (by decide +kernel)⟩

theorem witness_StepTakesItsTurn :
    (∃ (s : State) (ts : List Turn), ∃ cx s' ws x, (s.agenda = .issue cx :: ts) ∧ Turns s cx ∧ (State.fetchWords cx 5 (turnTaken s ts) (s.ctx cx).pc [] =
    .words s' ws) ∧ (decode ws = .illegal x)) ∧
    (∃ (s : State) (ts : List Turn), ∃ cx s' k, (s.agenda = .issue cx :: ts) ∧ Turns s cx ∧ (State.fetchWords cx 5 (turnTaken s ts) (s.ctx cx).pc [] = .bad
    s' k) ∧ s'.Handles cx ∧ (s'.holds cx = true)) ∧
    (∃ (s : State) (ts : List Turn), ∃ cx s', (s.agenda = .issue cx :: ts) ∧ Turns s cx ∧ (State.fetchWords cx 5 (turnTaken s ts) (s.ctx cx).pc [] = .wait
    s') ∧ (s'.holds cx = true)) ∧
    (∃ (s : State) (ts : List Turn), ∃ cx, (s.agenda = .issue cx :: ts) ∧ (¬ Turns s cx)) ∧
    (∃ (s : State) (ts : List Turn), ∃ cl i, (cl < 16) ∧ (s.agenda = .mason cl :: ts) ∧ ((turnTaken s ts).masonTurn cl = .run i)) ∧
    (∃ (s : State) (ts : List Turn), ∃ i x, (s.agenda = .event i x :: ts) ∧ (rowOf? i = none) ∧ (encodeMicro i = none)) := by
  refine ⟨?_, ?_, ?_, ?_, ?_, ?_⟩
  · exact ⟨State.reset.withFetchWord 16 0xE00C, [], 0, (wordsOf (fetched 0xE00C)).1, (wordsOf (fetched 0xE00C)).2,
    illegalOf (decode (wordsOf (fetched 0xE00C)).2), by decide +kernel, turns0 (by decide +kernel), words_eq (by decide +kernel),
    illegal_eq (by decide +kernel)⟩
  · exact ⟨unmappedCode, [], 0, (badOf unmappedEnd).1, (badOf unmappedEnd).2, by decide +kernel, turns0 (by decide +kernel), bad_eq (by decide +kernel),
    by unfold State.Handles; decide +kernel, by decide +kernel⟩
  · exact ⟨heldCode, [], 0, waitOf heldEnd, by decide +kernel, turns0 (by decide +kernel), wait_eq (by decide +kernel), by decide +kernel⟩
  · exact ⟨{ State.reset with agenda := [.issue 0] }, [], 0, by decide +kernel, fun h => absurd h.1.1 (by decide +kernel)⟩
  · exact ⟨State.reset.withFetchWord 64 0x4800000000000000, [], 0, .mend, by decide +kernel, by decide +kernel, turn_eq (by decide +kernel)⟩
  · exact ⟨{ State.reset with agenda := [.event .l2Fill {}] }, [], .l2Fill, {}, by decide +kernel⟩

theorem witness_TimePasses :
    (∃ s : State, ∃ cx z y, (aget s.ctxs cx = some z) ∧ (aget s.tick.ctxs cx = some y)) ∧
    (∃ s : State, ∃ n, (n % 8 ≠ 1)) := by
  refine ⟨?_, ?_⟩
  · exact ⟨st, 0, {}, (st : State).tick.ctx 0, by decide +kernel⟩
  · exact ⟨st, 0, by decide +kernel⟩

theorem witness_FetchReadsMemory :
    ∃ (s s' : State) (cx : Nat) (a : Word) (e : TlbEntry) (b : Nat), (a.getLsbD 63 = false) ∧ (a.getLsbD 62 = false) ∧ (a.toNat % 16 = 0) ∧ (s.translate
    (s.ctxAgent cx) a .fetch = (s', .found e)) ∧ (e.own = s'.sys.self) ∧ (s'.moves = []) ∧ (s'.regs.hotbTbl = false) ∧ (s'.poison = []) ∧
    (s'.boot.stackStop = []) ∧ (e.frame % 8 = 0) ∧ (3 ≤ e.size) ∧ (e.size ≤ 57) ∧ (b = e.frame + a.toNat / 8 % 2 ^ e.size) ∧ (b < s'.memTop) :=
  ⟨runnable, runnable, 0, 0x7FFF0, { ex := true }, _, by decide +kernel, by decide +kernel, by decide +kernel, rfl,
    and6 (by decide +kernel)
      ⟨by decide +kernel, by decide +kernel, rfl, by decide +kernel⟩⟩

theorem witness_ResetState :
    ∃ s : State, (s = State.reset) :=
  ⟨State.reset, by decide +kernel⟩

theorem witness_MemoryStaysCanonical :
    ∃ s t : State, (s.memoryOk = true) ∧ (step s = .next t) :=
  ⟨State.reset.withFetchWord 16 0xE00B, nextOf (step (State.reset.withFetchWord 16 0xE00B)), by decide +kernel, next_eq (by decide +kernel)⟩

theorem witness_UnTakesItsOperationFromF4 :
    (∃ (d a : BitVec 4) (x y : BitVec 6), (x = d.setWidth 6) ∧ (y = a.setWidth 6)) ∧
    (∃ (d a : BitVec 4) (x y : BitVec 6), (x = d.setWidth 6) ∧ (y = a.setWidth 6) ∧ ∃ k : BitVec 4, (12 ≤ k.toNat)) := by
  refine ⟨?_, ?_⟩
  · exact ⟨15, 15, _, _, rfl, rfl⟩
  · exact ⟨15, 15, _, _, rfl, rfl, 12, by decide +kernel⟩

theorem witness_PoNamesThePage :
    (∃ (w : IWord) (ws : List IWord) (i : Instr) (n : Nat), (isPrefixWord w = false) ∧ (decode (w :: ws) = .ok i n)) ∧
    (∃ (p : BitVec 10) (w : IWord) (ws : List IWord), (isPrefixWord w = false) ∧ ∃ i n, (decode ((15#4 ++ 2#2 ++ p) :: w :: ws) = .ok i n)) ∧
    (∃ (p : BitVec 10) (w : IWord) (ws : List IWord), (isPrefixWord w = false) ∧ (p = 0 ∨ 18 ≤ p.toNat)) ∧
    (∃ p : BitVec 10, (1 ≤ p.toNat) ∧ (p.toNat ≤ 17)) := by
  refine ⟨?_, ?_, ?_, ?_⟩
  · exact ⟨0xE00B, [], .nop, 1, by decide +kernel, rfl⟩
  · exact ⟨3, 0x5000, [], by decide +kernel, .by2b {}, 2, rfl⟩
  · exact ⟨18, 0x5000, [], by decide +kernel⟩
  · exact ⟨17, by decide +kernel⟩

theorem witness_AddressConversions :
    (∃ (o : Ops) (s : State) (c : Cur), (s.Runs c [o.a])) ∧
    (∃ (o : Ops) (s : State) (c : Cur), (s.Runs c [])) := by
  refine ⟨?_, ?_⟩
  · exact ⟨{}, st, c0, by unfold State.Runs State.Issues Ctx.NoStep Ctx.Ready; decide +kernel⟩
  · exact ⟨{}, st, c0, by unfold State.Runs State.Issues Ctx.NoStep Ctx.Ready; decide +kernel⟩

theorem witness_RangeTasks :
    (∃ (o : Ops) (s : State) (c : Cur) (r : RangeRec), (s.Runs c []) ∧ ((s.ctx c.cx).range = some r)) ∧
    (∃ (o : Ops) (s : State) (c : Cur) (k : Nat), (s.Runs c [o.a, o.b, o.c, o.c + 1, o.d]) ∧ ((s.ctx c.cx).rcount = 0) ∧ CanSplit s c.cx ∧ NewRecord s c.cx
    k ∧ (((s.ctx c.cx).readS (o.c + 1)).toNat ≤ ((s.ctx c.cx).readS o.c).toNat)) := by
  refine ⟨?_, ?_⟩
  · exact ⟨{}, st { range := some {} }, c0, {}, by unfold State.Runs State.Issues Ctx.NoStep Ctx.Ready; decide +kernel, by decide +kernel⟩
  · exact ⟨{}, st, c0, 0, by unfold State.Runs State.Issues Ctx.NoStep Ctx.Ready; decide +kernel, by decide +kernel, fun h => absurd rfl h,
    by unfold NewRecord; decide +kernel, by decide +kernel⟩

theorem witness_SystemFormsComplete :
    (∃ (o : Ops) (s : State) (c : Cur), (s.Runs c []) ∧ (o.imm.toNat ∈ csrNumbers)) ∧
    (∃ (o : Ops) (s : State) (c : Cur), (s.Runs c [o.a]) ∧ (o.imm.toNat ∈ userCsrs) ∧ (c.addr ≠ (s.ctx c.cx).csrs.lend)) ∧
    (∃ (o : Ops) (s : State) (c : Cur), (s.Runs c [o.a]) ∧ ((s.recOf c.cx).launch = none)) ∧
    (∃ (o : Ops) (s : State) (c : Cur), (s.Runs c []) ∧ (c.cx < 8192) ∧ ((aget (s.yardOf c.cx) (s.ctx c.cx).yr).isSome = true) ∧ (s.boot.stackStop = [])) := by
  refine ⟨?_, ?_, ?_, ?_⟩
  · exact ⟨{ imm := 19 }, st, c0, by unfold State.Runs State.Issues Ctx.NoStep Ctx.Ready; decide +kernel, by decide +kernel⟩
  · exact ⟨{ imm := 10 }, st, c0, by unfold State.Runs State.Issues Ctx.NoStep Ctx.Ready; decide +kernel, by decide +kernel⟩
  · exact ⟨{}, st, c0, by unfold State.Runs State.Issues Ctx.NoStep Ctx.Ready; decide +kernel, by decide +kernel⟩
  · exact ⟨{}, st {} (fun c => { c with yard := [(0, {})] }), c0, by unfold State.Runs State.Issues Ctx.NoStep Ctx.Ready; decide +kernel, by decide +kernel⟩

theorem witness_FutureFormsComplete :
    ∃ (o : Ops) (s : State) (c : Cur), (s.Runs c [o.a]) :=
  ⟨{}, st, c0, by unfold State.Runs State.Issues Ctx.NoStep Ctx.Ready; decide +kernel⟩

theorem witness_MemoryFormsComplete :
    (∃ (o : Ops) (s : State) (c : Cur), (s.Runs c []) ∧ ((s.ctx c.cx).rcount = 0)) ∧
    (∃ (o : Ops) (s : State) (c : Cur), (s.Runs c [o.a])) ∧
    (∃ (o : Ops) (s : State) (c : Cur), (s.Runs c [o.a]) ∧ Quiet s c.cx ∧ ∃ a, (a = addressOf (s.ctx c.cx) o (classWidth o.f.toNat)) ∧ (InWindows s c.cx a
    1) ∧ (winOf a ≠ 3)) ∧
    (∃ (o : Ops) (s : State) (c : Cur), (s.Runs c [o.a]) ∧ Quiet s c.cx ∧ (o.f.toNat % 4 < 3) ∧ ∃ a w, (w = 16 * 2 ^ (o.f.toNat % 4)) ∧ (a = addressOf
    (s.ctx c.cx) o w) ∧ InWindows s c.cx a w ∧ (winOf a ≠ 3) ∧ (a.toNat % 64 + w ≤ 64) ∧ (s.granFull (granuleAt a) = true)) ∧
    (∃ (o : Ops) (s : State) (c : Cur), (s.Runs c [o.a, o.d]) ∧ Quiet s c.cx ∧ ((s.ctx c.cx).rcount = 0) ∧ ∃ a, (a = addressOf (s.ctx c.cx) o 64) ∧
    (a.extractLsb' 0 6 = 0) ∧ (InOwnWindows s c.cx a 64) ∧ (winOf a ≠ 3)) := by
  refine ⟨?_, ?_, ?_, ?_, ?_⟩
  · exact ⟨{}, st, c0, by unfold State.Runs State.Issues Ctx.NoStep Ctx.Ready; decide +kernel, by decide +kernel⟩
  · exact ⟨{}, st, c0, by unfold State.Runs State.Issues Ctx.NoStep Ctx.Ready; decide +kernel⟩
  · exact ⟨{ a := 1, f := 13 }, st (rg [(1, inW 0x3FFFC0)]), c0, by unfold State.Runs State.Issues Ctx.NoStep Ctx.Ready; decide +kernel,
    by unfold Quiet; decide +kernel, _, rfl, by unfold InWindows InRange; decide +kernel, by decide +kernel⟩
  · exact ⟨{ a := 1, f := 2 }, st (rg [(1, inW 0)]), c0, by unfold State.Runs State.Issues Ctx.NoStep Ctx.Ready; decide +kernel, by unfold Quiet; decide +kernel,
    by decide +kernel, _, _, rfl, rfl, by unfold InWindows InRange; decide +kernel, by decide +kernel⟩
  · exact ⟨{ a := 1 }, st (rg [(1, inC 0x1FFFC0)]), c0, by unfold State.Runs State.Issues Ctx.NoStep Ctx.Ready; decide +kernel, by unfold Quiet; decide +kernel,
    by decide +kernel, _, rfl, by decide +kernel, by unfold InOwnWindows InWindows InRange; decide +kernel, by decide +kernel⟩

/-- Chain 0 reads its ring at 0, whose first record has this OP, for cluster 0. -/
def chained (op : Byte) : State :=
  { ev {} (fun c => { c with inService := true }) with chains := State.reset.chains.set 0 { en := true, tail := 1 }, boot := { wiping := false, stage := .sramService }, mem := if op = 0 then [] else [(7, op)] }

theorem witness_Commands :
    (∃ (s : State) (x : EvArg) (ch : CmdChain) (seq tgt : Nat) (w1 : Word), (s.Happens x) ∧ (ch = s.chain x.i) ∧ AtHead s x.i 0 tgt seq w1) ∧
    (∃ (s : State) (x : EvArg) (ch : CmdChain) (seq tgt : Nat) (w1 : Word), (s.Happens x) ∧ (ch = s.chain x.i) ∧ AtHead s x.i 1 tgt seq w1 ∧ (tgt < 16) ∧
      ((s.cluster tgt).inService = true) ∧ ((s.cluster tgt).disp.length < 8)) ∧
    (∃ (s : State) (x : EvArg) (ch : CmdChain) (seq tgt : Nat) (w1 : Word), (s.Happens x) ∧ (ch = s.chain x.i) ∧ AtHead s x.i 2 tgt seq w1) ∧
    (∃ (s : State) (x : EvArg) (ch : CmdChain) (k : Nat) (q : BitVec 32), (s.Happens x) ∧ (ch = s.chain x.i) ∧ (ch.held = true) ∧ (ch.recs = [(k, q, false)]) ∧
      (ch.start ≤ k)) := by
  refine ⟨?_, ?_, ?_, ?_⟩
  · exact ⟨chained 0, {}, _, 0, 0, 0, by unfold State.Happens; decide +kernel, rfl, by constructor <;> decide +kernel⟩
  · exact ⟨chained 1, {}, _, 0, 0, 0, by unfold State.Happens; decide +kernel, rfl, by constructor <;> decide +kernel, by decide +kernel, by decide +kernel,
      by decide +kernel⟩
  · exact ⟨chained 2, {}, _, 0, 0, 0, by unfold State.Happens; decide +kernel, rfl, by constructor <;> decide +kernel⟩
  · exact ⟨{ ev with chains := State.reset.chains.set 0 { held := true, recs := [(0, 0, false)] } }, {}, _, 0, 0, by unfold State.Happens; decide +kernel,
      rfl, by decide +kernel, rfl, by decide +kernel⟩

end Sys2Proof.Tests
end

/-!
The decoder of R152 to R165: what it answers for a parsed chain, for a base word after one PO word, and for the words of UN.
Settles the obligations on the opcode page (R160) and on the operations of UN (R165).
-/

namespace Sys2Proof.Proofs

/-! ## What `decodeChain` answers -/

/-- The row of the page of the chain that fits a base word. -/
def fitting? (c : Chain) (w : IWord) : Option Row :=
  (pageRows c.page).find? (·.fits (w.extractLsb' 12 4).toNat (w.extractLsb' 0 4).toNat)

theorem decodeChain_of_not_legal {c : Chain} (w : IWord) (h : c.legal = false) : ∃ x, decodeChain c w = .illegal x := by
  simp [decodeChain, h]

theorem decodeChain_of_no_row {c : Chain} {w : IWord} (h : fitting? c w = none) : ∃ x, decodeChain c w = .illegal x := by
  unfold fitting? at h
  simp only [decodeChain, h]
  split
  · exact ⟨_, rfl⟩
  · split <;> exact ⟨_, rfl⟩

theorem decodeChain_of_row {c : Chain} {w : IWord} {r : Row} (hl : c.legal = true) (hr : fitting? c w = some r)
    (hw : r.wordsOk c w = true) (ho : r.opsOk (r.operands c w) = true) : decodeChain c w = .ok (r.make (r.operands c w)) (c.n + 1) := by
  unfold fitting? at hr
  simp only [decodeChain, hl, hr, hw, ho, Bool.not_true, Bool.and_self, Bool.false_eq_true, if_false, if_true]

/-- An instruction that is decoded is made by a row of the page that the chain names. -/
theorem exists_row_of_decodeChain_ok {c : Chain} {w : IWord} {i : Instr} {n : Nat} (h : decodeChain c w = .ok i n) :
    ∃ r ∈ pageRows c.page, i = r.make (r.operands c w) := by
  cases hr : fitting? c w with
  | none =>
    obtain ⟨x, hx⟩ := decodeChain_of_no_row hr
    cases hx.symm.trans h
  | some r =>
    refine ⟨r, List.mem_of_find?_eq_some hr, ?_⟩
    unfold fitting? at hr
    simp only [decodeChain, hr] at h
    split at h
    · cases h
    · split at h <;> cases h
      rfl

/-! ## The page of a row and the page of the instruction it makes -/

/-- The page on which an instruction has its words; none for a micro-instruction or an event. -/
def instrPage? (i : Instr) : Option Nat := (rowOf? i).map (·.1.page)

theorem instrPage?_eq_some {i : Instr} {p : Nat} : instrPage? i = some p ↔ ∃ r o, rowOf? i = some (r, o) ∧ r.page = p := by
  simp [instrPage?]

/-- Page by page, the rows listed under a page make instructions of that page alone, whatever their operands. -/
theorem pageRows_map_instrPage? : ∀ p : Nat,
    (pageRows p).map (fun r o => instrPage? (r.make o)) = (pageRows p).map (fun _ _ => some p)
  | 0 | 1 | 2 | 3 | 4 | 5 | 6 | 7 | 8 | 9 | 10 | 11 | 12 | 13 | 14 | 15 | 16 | 17 => rfl
  | _ + 18 => rfl

theorem instrPage?_make {p : Nat} {r : Row} (hr : r ∈ pageRows p) (o : Ops) : instrPage? (r.make o) = some p :=
  congrFun (List.map_inj_left.1 (pageRows_map_instrPage? p) r hr) o

theorem page_of_decodeChain_ok {c : Chain} {w : IWord} {i : Instr} {n : Nat} (h : decodeChain c w = .ok i n) :
    ∃ r o, rowOf? i = some (r, o) ∧ r.page = c.page := by
  obtain ⟨r, hr, rfl⟩ := exists_row_of_decodeChain_ok h
  exact instrPage?_eq_some.1 (instrPage?_make hr _)

/-! ## A base word alone, and a base word after one PO word -/

theorem decode_base {w : IWord} (ws : List IWord) (h : isPrefixWord w = false) : decode (w :: ws) = decodeChain {} w := by
  simp [decode, parseWords, h]

/-- The PO word of a page (R156, R160). -/
def poWord (p : BitVec 10) : IWord := 15#4 ++ 2#2 ++ p

/-- The chain of one PO word. -/
def poChain (p : BitVec 10) : Chain := { n := 1, po := some p }

@[simp] theorem poWord_page (p : BitVec 10) : (poWord p).extractLsb' 0 10 = p := BitVec.extractLsb'_append_eq_right

@[simp] theorem poWord_kind (p : BitVec 10) : (poWord p).extractLsb' 10 2 = 2#2 :=
  (BitVec.extractLsb'_append_eq_of_le (by decide)).trans (by decide)

@[simp] theorem isPrefixWord_poWord (p : BitVec 10) : isPrefixWord (poWord p) = true := by
  have h : (poWord p).extractLsb' 12 4 = 15#4 := (BitVec.extractLsb'_append_eq_of_le (by decide)).trans (by decide)
  simp [isPrefixWord, h]

theorem add_poWord (p : BitVec 10) : ({} : Chain).add (poWord p) = poChain p := by
  simp [Chain.add, poChain]

theorem decode_poWord (p : BitVec 10) {w : IWord} (ws : List IWord) (h : isPrefixWord w = false) :
    decode (poWord p :: w :: ws) = decodeChain (poChain p) w := by
  simp [decode, parseWords, h, add_poWord]

theorem legal_poChain {p : BitVec 10} : (poChain p).legal = true ↔ 1 ≤ p.toNat ∧ p.toNat ≤ 17 := by
  simp [Chain.legal, poChain]

/-! ## R160 -/

/-- On each of the pages 1 to 17 the first row takes a base word of zeros, all of whose registers are register 0. -/
theorem zero_word_decodes {p : BitVec 10} (h₁ : 1 ≤ p.toNat) (h₂ : p.toNat ≤ 17) :
    ∃ i, decodeChain (poChain p) 0 = .ok i 2 := by
  have hrow : ∀ q : Fin 18, 1 ≤ q.val → ((pageRows q).find? (·.fits 0 0)).any (fun r =>
      r.wordsOk (poChain (BitVec.ofNat 10 q)) 0 && r.opsOk (r.operands (poChain (BitVec.ofNat 10 q)) 0)) = true := by decide
  have hp := hrow ⟨p.toNat, by omega⟩ h₁
  simp only [BitVec.ofNat_toNat, BitVec.setWidth_eq, Option.any_eq_true, Bool.and_eq_true] at hp
  obtain ⟨r, hr, hw, ho⟩ := hp
  exact ⟨_, decodeChain_of_row (legal_poChain.2 ⟨h₁, h₂⟩) hr hw ho⟩

/-- Settles O59: a decoded instruction is made by a row of the page that the chain names, and the chain of a PO word is legal
for the pages 1 to 17 alone. -/
theorem pageOfPo : Obligations.PageOfPo := by
  refine ⟨fun w ws i n hw hd => ?_, fun p w ws hw => ⟨fun i n hd => ?_, fun hp => ?_⟩, fun p h₁ h₂ => ?_⟩
  · rw [decode_base ws hw] at hd
    exact page_of_decodeChain_ok hd
  · change decode (poWord p :: w :: ws) = _ at hd
    rw [decode_poWord p ws hw] at hd
    exact page_of_decodeChain_ok hd
  · change ∃ x, decode (poWord p :: w :: ws) = _
    rw [decode_poWord p ws hw]
    have hl : ¬ (poChain p).legal = true := fun h => by
      have hp' := legal_poChain.1 h
      rcases hp with rfl | hp
      · simp at hp'
      · omega
    exact decodeChain_of_not_legal w (Bool.eq_false_iff.2 hl)
  · obtain ⟨i, hi⟩ := zero_word_decodes h₁ h₂
    exact ⟨0, i, (decode_poWord p [] rfl).trans hi⟩

/-! ## R165 -/

/-- A base word by its nibbles (R154). -/
def baseWord (m x y z : BitVec 4) : IWord := m ++ x ++ y ++ z

section
variable (m x y z : BitVec 4)

@[simp] theorem baseWord_lo : (baseWord m x y z).extractLsb' 0 4 = z := BitVec.extractLsb'_append_eq_right

@[simp] theorem baseWord_mid : (baseWord m x y z).extractLsb' 4 4 = y :=
  (BitVec.extractLsb'_append_eq_of_le (by decide)).trans BitVec.extractLsb'_append_eq_right

@[simp] theorem baseWord_hi : (baseWord m x y z).extractLsb' 8 4 = x :=
  (BitVec.extractLsb'_append_eq_of_le (by decide)).trans
    ((BitVec.extractLsb'_append_eq_of_le (by decide)).trans BitVec.extractLsb'_append_eq_right)

@[simp] theorem baseWord_major : (baseWord m x y z).extractLsb' 12 4 = m :=
  (BitVec.extractLsb'_append_eq_of_le (by decide)).trans
    ((BitVec.extractLsb'_append_eq_of_le (by decide)).trans BitVec.extractLsb'_append_eq_left)

end

/-- Without PX.r the high bits of a register are 0. -/
theorem zero_append_nibble (x : BitVec 4) : 0#2 ++ x = x.setWidth 6 := (BitVec.setWidth_eq_append (by decide)).symm

theorem decode_un (d a k : BitVec 4) (ws : List IWord) : decode (baseWord 14 d a k :: ws) = decodeChain {} (baseWord 14 d a k) :=
  decode_base ws (by simp [isPrefixWord])

theorem fitting?_un {d a k : BitVec 4} : fitting? {} (baseWord 14 d a k) = (pageRows 0).find? (·.fits 14 k.toNat) := by
  unfold fitting?
  rw [baseWord_major, baseWord_lo]
  rfl

/-- The row of an operation of UN that reads register a and, where `hi` is `d`, writes register d. -/
def unRow (k : Nat) (hi : Slot) (make : Ops → Instr) : Row :=
  { page := 0, major := 14, sub := some k, hi := hi, mid := .a, lo := .sub, sa := true, make := make }

theorem operands_unRow {k : Nat} {hi : Slot} {d : BitVec 4} (hd : hi = .d ∨ hi = .zero ∧ d = 0) (make : Ops → Instr) (a z : BitVec 4) :
    (unRow k hi make).operands {} (baseWord 14 d a z) = { d := d.setWidth 6, a := a.setWidth 6 } := by
  rcases hd with rfl | ⟨rfl, rfl⟩ <;>
    simp [Row.operands, unRow, Row.reg, Row.immVal, Row.fval, Chain.hiBits, zero_append_nibble]

theorem wordsOk_unRow {k : Nat} {hi : Slot} {d : BitVec 4} (hd : hi = .d ∨ hi = .zero ∧ d = 0) (make : Ops → Instr) (a z : BitVec 4) :
    (unRow k hi make).wordsOk {} (baseWord 14 d a z) = true := by
  rcases hd with rfl | ⟨rfl, rfl⟩ <;> simp [Row.wordsOk, unRow, Chain.hiBits]

theorem opsOk_unRow {k : Nat} {hi : Slot} {d : BitVec 4} (hd : hi = .d ∨ hi = .zero ∧ d = 0) (make : Ops → Instr) (a : BitVec 4) :
    (unRow k hi make).opsOk { d := d.setWidth 6, a := a.setWidth 6 } = true := by
  rcases hd with rfl | ⟨rfl, rfl⟩ <;> simp [Row.opsOk, unRow, Row.has, regOk]

/-- An operation of UN takes registers d and a from the base word; where it has no register d, that nibble is 0. -/
theorem decode_un_row {k d : BitVec 4} {hi : Slot} {make : Ops → Instr} (hd : hi = .d ∨ hi = .zero ∧ d = 0)
    (hr : (pageRows 0).find? (·.fits 14 k.toNat) = some (unRow k.toNat hi make)) (a : BitVec 4) :
    decode [baseWord 14 d a k] = .ok (make { d := d.setWidth 6, a := a.setWidth 6 }) 1 := by
  have ho := operands_unRow (k := k.toNat) hd make a k
  have hok := opsOk_unRow (k := k.toNat) hd make a
  rw [← ho] at hok
  rw [decode_un, decodeChain_of_row rfl (fitting?_un.trans hr) (wordsOk_unRow hd make a k) hok, ho]
  rfl

theorem decode_un_da {k d a : BitVec 4} {make : Ops → Instr} (hr : (pageRows 0).find? (·.fits 14 k.toNat) = some (unRow k.toNat .d make)) :
    decode [baseWord 14 d a k] = .ok (make { d := d.setWidth 6, a := a.setWidth 6 }) 1 := decode_un_row (.inl rfl) hr a

theorem no_un_row_of_ge {k : BitVec 4} (h : 12 ≤ k.toNat) : (pageRows 0).find? (·.fits 14 k.toNat) = none := by
  have hfits : ∀ k : BitVec 4, 12 ≤ k.toNat → ∀ r ∈ pageRows 0, ¬ r.fits 14 k.toNat = true := by decide
  exact List.find?_eq_none.2 (hfits k h)

theorem decode_un_reserved (d a : BitVec 4) {k : BitVec 4} (h : 12 ≤ k.toNat) : ∃ x, decode [baseWord 14 d a k] = .illegal x := by
  rw [decode_un]
  exact decodeChain_of_no_row (fitting?_un.trans (no_un_row_of_ge h))

/-- Settles O57: each operation's row is the one that fits its f4, and no row fits the values 12 to 15. -/
theorem unOperations : Obligations.UnOperations := by
  rintro d a _ _ rfl rfl
  exact ⟨decode_un_da (k := 0) rfl, decode_un_da (k := 1) rfl, decode_un_da (k := 2) rfl, decode_un_da (k := 3) rfl,
    decode_un_da (k := 4) rfl, decode_un_da (k := 5) rfl, decode_un_da (k := 6) rfl, decode_un_da (k := 7) rfl,
    decode_un_row (k := 8) (.inr ⟨rfl, rfl⟩) rfl a, decode_un_da (k := 9) rfl, rfl, rfl, decode_un_da (k := 0) (d := 3) (a := 4) rfl,
    fun _ hk => decode_un_reserved d a hk⟩

end Sys2Proof.Proofs

/-!
The words of the address conversions, one PO word of page 3 and a base word, and what the instructions do.
Settles the obligation on BY2B, BB2Y and ADDPC (R186).
-/

namespace Sys2Proof.Proofs

open Sys2Proof.Machine Sys2Proof.Claims

/-! ## A row after one PO word -/

/-- A PO word gives no operand. -/
theorem operands_poChain (r : Row) (p : BitVec 10) (w : IWord) : r.operands (poChain p) w = r.operands {} w := rfl

theorem wordsOk_poChain (r : Row) (p : BitVec 10) (w : IWord) : r.wordsOk (poChain p) w = r.wordsOk {} w := rfl

theorem isPrefixWord_baseWord {m : BitVec 4} (x y z : BitVec 4) (hm : m ≠ 15) : isPrefixWord (baseWord m x y z) = false := by
  simpa [isPrefixWord] using hm

/-- The first row of a page that fits the major and the low nibble of a base word takes it after the PO word of that page, where
it reserves none of its values. -/
theorem decode_poWord_baseWord {p : BitVec 10} {m x y z : BitVec 4} {r : Row} {o : Ops} (hp : 1 ≤ p.toNat ∧ p.toNat ≤ 17) (hm : m ≠ 15)
    (hr : (pageRows p.toNat).find? (·.fits m.toNat z.toNat) = some r) (hw : r.wordsOk {} (baseWord m x y z) = true)
    (ho : r.operands {} (baseWord m x y z) = o) (hok : r.opsOk o = true) : decode [poWord p, baseWord m x y z] = .ok (r.make o) 2 := by
  have hfit : fitting? (poChain p) (baseWord m x y z) = some r := by
    unfold fitting?
    rwa [baseWord_major, baseWord_lo]
  rw [← ho, ← operands_poChain r p] at hok
  rw [decode_poWord p [] (isPrefixWord_baseWord x y z hm),
    decodeChain_of_row (legal_poChain.2 hp) hfit ((wordsOk_poChain r p _).trans hw) hok, operands_poChain, ho]
  rfl

/-! ## BY2B and BB2Y: register a is read, register d written -/

/-- A row of page 3 for an operation on registers d and a, its low nibble 0. -/
def conversionRow (m : Nat) (make : Ops → Instr) : Row :=
  { page := 3, major := m, sub := none, hi := .d, mid := .a, sa := true, make := make }

theorem wordsOk_conversionRow (m : Nat) (make : Ops → Instr) (n d a : BitVec 4) :
    (conversionRow m make).wordsOk {} (baseWord n d a 0) = true := by
  simp [Row.wordsOk, conversionRow, Chain.hiBits]

theorem operands_conversionRow (m : Nat) (make : Ops → Instr) (n d a : BitVec 4) :
    (conversionRow m make).operands {} (baseWord n d a 0) = { d := d.setWidth 6, a := a.setWidth 6 } := by
  simp [Row.operands, conversionRow, Row.reg, Row.immVal, Row.fval, Chain.hiBits, zero_append_nibble]

theorem opsOk_conversionRow (m : Nat) (make : Ops → Instr) (d a : BitVec 4) :
    (conversionRow m make).opsOk { d := d.setWidth 6, a := a.setWidth 6 } = true := by
  simp [Row.opsOk, conversionRow, Row.has, regOk]

theorem decode_conversion {m : BitVec 4} {make : Ops → Instr} (hm : m ≠ 15)
    (hr : (pageRows 3).find? (·.fits m.toNat 0) = some (conversionRow m.toNat make)) (d a : BitVec 4) :
    decode [poWord 3, baseWord m d a 0] = .ok (make { d := d.setWidth 6, a := a.setWidth 6 }) 2 :=
  decode_poWord_baseWord (p := 3) (z := 0) (by decide) hm hr (wordsOk_conversionRow ..)
    (operands_conversionRow ..) (opsOk_conversionRow ..)

/-! ## ADDPC: register d and an immediate of eight bits -/

/-- The low w bits of a number of w bits, read as signed (R5), are its value in two's complement. -/
theorem sextN_toNat {w : Nat} (x : BitVec w) : sextN x.toNat w = x.toInt := by
  cases w with
  | zero => simp [sextN, BitVec.of_length_zero]
  | succ w =>
    rw [BitVec.toInt_eq_toNat_cond, sextN, Nat.mod_eq_of_lt x.isLt, if_neg w.succ_ne_zero, Nat.add_sub_cancel]
    split <;> split <;> omega

/-- A base word whose low byte is one operand. -/
theorem append_byte_eq_baseWord (m d : BitVec 4) (k : BitVec 8) : m ++ d ++ k = baseWord m d (k.extractLsb' 4 4) (k.extractLsb' 0 4) := by
  have hk : k = k.extractLsb' 4 4 ++ k.extractLsb' 0 4 := by
    rw [BitVec.extractLsb'_append_extractLsb'_eq_extractLsb' (by decide)]
    simp
  calc m ++ d ++ k = m ++ d ++ (k.extractLsb' 4 4 ++ k.extractLsb' 0 4) := by rw [← hk]
    _ = baseWord m d (k.extractLsb' 4 4) (k.extractLsb' 0 4) := (BitVec.append_assoc).symm

/-- The low byte of a base word is the whole of an immediate of two nibbles. -/
theorem append_byte_imm (m d : BitVec 4) (k : BitVec 8) : ((m ++ d ++ k).extractLsb' 0 12).toNat % 2 ^ 8 = k.toNat := by
  have h : ((m ++ d ++ k).extractLsb' 0 8).toNat = k.toNat := congrArg _ BitVec.extractLsb'_append_eq_right
  rw [BitVec.extractLsb'_toNat] at h ⊢
  rwa [Nat.mod_mod_of_dvd _ (by decide)]

theorem immVal_rowAddpc (m d : BitVec 4) (k : BitVec 8) : rowAddpc.immVal {} (m ++ d ++ k) = k.signExtend 64 := by
  have h : rowAddpc.immVal {} (m ++ d ++ k) = BitVec.ofInt 64 (sextN (((m ++ d ++ k).extractLsb' 0 12).toNat % 2 ^ 8) 8) := by
    simp [Row.immVal, rowAddpc, Row.immBase, piValue]
  rw [h, append_byte_imm, sextN_toNat]
  rfl

theorem wordsOk_rowAddpc (m d y z : BitVec 4) : rowAddpc.wordsOk {} (baseWord m d y z) = true := by
  simp [Row.wordsOk, rowAddpc, Chain.hiBits]

theorem operands_rowAddpc (m d : BitVec 4) (k : BitVec 8) :
    rowAddpc.operands {} (m ++ d ++ k) = { d := d.setWidth 6, imm := k.signExtend 64 } := by
  have hd : rowAddpc.reg .d {} (m ++ d ++ k) = d.setWidth 6 := by
    rw [append_byte_eq_baseWord]
    simp [Row.reg, rowAddpc, Chain.hiBits, zero_append_nibble]
  simp only [Row.operands, hd, immVal_rowAddpc]
  rfl

theorem opsOk_rowAddpc (d : BitVec 4) (v : Word) : rowAddpc.opsOk { d := d.setWidth 6, imm := v } = true := by
  simp [Row.opsOk, rowAddpc, Row.has, regOk]

theorem decode_addpc (d : BitVec 4) (k : BitVec 8) :
    decode [poWord 3, 11#4 ++ d ++ k] = .ok (.addpc { d := d.setWidth 6, imm := k.signExtend 64 }) 2 := by
  have ho := operands_rowAddpc 11 d k
  rw [append_byte_eq_baseWord] at ho ⊢
  exact decode_poWord_baseWord (by decide) (by decide) rfl (wordsOk_rowAddpc ..) ho (opsOk_rowAddpc ..)

theorem addpc_writes (o : Ops) (s : State) (c : Cur) (h : s.Runs c []) :
    ∃ t, exec (.addpc o) s = .next t ∧ WroteS s t c o.d (c.addr + 16 * o.imm) 0 false :=
  ⟨_, s.run_any c [] (fun c s => .ok (s.onMe c (·.writeS o.d (c.addr + 16 * o.imm)))) h,
    WroteS.of_settle_plain s c o.d (fun _ => c.addr + 16 * o.imm) false h.1.2 h.2.2⟩

/-! ## R186 -/

/-- Settles O60: rows 5, 6 and 11 of page 3 take the words; BY2B and BB2Y are operations on one register, and ADDPC computes
from the address and the immediate alone. -/
theorem addressConversions : Obligations.AddressConversions :=
  ⟨fun d a => ⟨decode_conversion (m := 5) (by decide) rfl d a, decode_conversion (m := 6) (by decide) rfl d a⟩, decode_addpc,
    fun o => alu1_runs o (fun x => x * 8), fun o => alu1_runs o (fun x => wordOfNat (x.toNat / 8)), addpc_writes⟩

end Sys2Proof.Proofs
